-- ==== Sys2Proof/Word.lean ====
section
/-! DEFINITION. Machine words and the finite table used for sparse data. -/

namespace Sys2Proof

/-- One byte of memory (R8). -/
abbrev Byte := BitVec 8
/-- A 16-bit value. -/
abbrev W16 := BitVec 16
/-- A 32-bit value: a vector lane (R20), a predicate (R20), an instruction word (R18). -/
abbrev W32 := BitVec 32
/-- A 64-bit value: a scalar (R20), an address while it is computed. -/
abbrev W64 := BitVec 64

/-- A vector register: its 32 lanes (R20), lane 0 first. -/
abbrev Lanes := List W32

/-- A finite table of values by number. A number with no entry has the value the reader of the table names. -/
abbrev Table (α : Type) := List (Nat × α)

end Sys2Proof
end

