-- ==== Sys2Proof/Syntax.lean ====
section
/-! DEFINITION. The syntax of the OX4: the encoded instructions of R49 and the steps that opcode_table.json lists
without an encoding. One constructor for each row of the table. -/

namespace Sys2Proof

/-- The condition codes of CMP (R50). -/
inductive Cond where
  | eq | ne | lt | ge | le | gt | ltu | geu | leu | gtu
  deriving DecidableEq, Repr

/-- The condition codes of VCMP (R50). -/
inductive VCond where
  | eq | ne | lt | ge | le | gt
  deriving DecidableEq, Repr

/-- The type codes 0 to 4 of R46, the only ones an instruction accepts (R51). -/
inductive VType where
  | i32 | u32 | f32 | bf16 | f16
  deriving DecidableEq, Repr

/-- The operations of VRED and VSCAN (R50). -/
inductive RedOp where
  | add | min | max
  deriving DecidableEq, Repr

/-- The operations of AMO and VAMO (R50). -/
inductive AmoOp where
  | add | and | or | xor | min | max | minu | maxu | swap
  deriving DecidableEq, Repr

/-- The access widths of R45. -/
inductive Width where
  | byte | half | word | dword
  deriving DecidableEq, Repr

/-- The scopes of R45 and R233. -/
inductive Scope where
  | grp | core | die | dev | sys
  deriving DecidableEq, Repr

/-- The kinds of FENCE (R45, R229). -/
inductive FenceKind where
  | acq | rel | ar
  deriving DecidableEq, Repr

/-- The 64 bytes of a packet as eight little-endian dwords (R328): the slot word, the completion-word address and
the payload at offsets 0x10 to 0x38. -/
structure Packet where
  slotWord : W64
  cw       : W64
  w10      : W64
  w18      : W64
  w20      : W64
  w28      : W64
  w30      : W64
  w38      : W64
  deriving DecidableEq, Repr

/-- Where an uncorrectable error strikes: the rows of R279. -/
inductive ErrSite where
  /-- LPDDR-6, die-cache data, L1 data or scratchpad: the 64-byte unit of a physical address. -/
  | memory (pa : Nat)
  /-- A scalar of the group in a slot; `frame` is the granule of a frame-local one. -/
  | scalar (core slot frame n : Nat)
  /-- One lane of a vector register. -/
  | vlane (core slot frame n lane : Nat)
  /-- A predicate. -/
  | pred (core slot n : Nat)
  /-- A 64-byte unit of a tile. -/
  | tileUnit (core slot n unit : Nat)
  /-- A quarter of an accumulator. -/
  | accQuarter (core slot n quarter : Nat)
  /-- A lane of the i-th full slot of a channel. -/
  | chanLane (task chan i lane : Nat)
  /-- An instruction-cache line: the line of a virtual block. -/
  | icacheLine (core asid block : Nat)
  /-- A core TLB, die TLB or last-page register entry. -/
  | tlb (core : Nat)
  /-- A page-table entry, by ASID and virtual address. -/
  | pageTable (asid va : Nat)
  /-- A die-cache tag, by physical address. -/
  | dieTag (pa : Nat)
  /-- A home-agent directory entry, by physical address. -/
  | directory (pa : Nat)
  /-- The i-th Tarn entry. -/
  | tarn (i : Nat)
  /-- The Wellhead counter of a sweep. -/
  | wellhead (sweep : Nat)
  /-- Split table, frame record, scoreboard, Wellspring storage, engine control or issue logic of a core. -/
  | control (core : Nat)
  /-- The save image of a task. -/
  | image (task : Nat)
  /-- The split spill area or the frame spill area of a group. -/
  | spillArea (core slot : Nat)
  deriving DecidableEq, Repr

/-- The instructions and steps of opcode_table.json, one constructor for each row. Register numbers, channels,
counters and demands are the numbers of their fields. -/
inductive Instr where
  -- scalar arithmetic and logic (R62 to R65)
  | add (d a b : Nat) | sub (d a b : Nat) | mul (d a b : Nat) | mulh (d a b : Nat) | mulhu (d a b : Nat)
  | min (d a b : Nat) | max (d a b : Nat) | minu (d a b : Nat) | maxu (d a b : Nat)
  | div (d a b : Nat) | divu (d a b : Nat) | rem (d a b : Nat) | remu (d a b : Nat)
  | and (d a b : Nat) | or (d a b : Nat) | xor (d a b : Nat) | andn (d a b : Nat)
  | shl (d a b : Nat) | shr (d a b : Nat) | sar (d a b : Nat) | rol (d a b : Nat)
  | clz (d a : Nat) | popc (d a : Nat) | mov (d a : Nat)
  | cmp (cc : Cond) (d a b : Nat)
  | sel (d a b sel : Nat)
  -- immediates (R66 to R69)
  | addi (d a : Nat) (imm : BitVec 11) | andi (d a : Nat) (imm : BitVec 11)
  | ori (d a : Nat) (imm : BitVec 11) | xori (d a : Nat) (imm : BitVec 11)
  | shli (d a n : Nat) | shri (d a n : Nat) | sari (d a n : Nat)
  | li (d : Nat) (imm : BitVec 18) | lih (d : Nat) (imm : BitVec 18)
  -- branches, calls and frames (R76 to R84, R163, R164)
  | bz (idx : Nat) (off : BitVec 19) | bnz (idx : Nat) (off : BitVec 19)
  | brv (idx : Nat) (off : BitVec 19) | jmp (off : BitVec 19)
  | call (demand : Nat) (off : BitVec 18) | callr (demand a : Nat)
  | jr (a : Nat) | ret | unwind (a : Nat) | fgrow (k : Nat) | fshrink (k : Nat) | meet
  -- scalar memory, atomics, full/empty words, fence (R70, R221 to R229)
  | ld (w : Width) (d a : Nat) | lds (w : Width) (d a : Nat) | st (w : Width) (d a : Nat)
  | amo (op : AmoOp) (w : Width) (sc : Scope) (d a : Nat) | cas (w : Width) (sc : Scope) (d a : Nat)
  | vamo (op : AmoOp) (sc : Scope) (d a : Nat)
  | fld (sc : Scope) (d a : Nat) | ftake (sc : Scope) (d a : Nat)
  | fput (sc : Scope) (d a : Nat) | ffill (sc : Scope) (d a : Nat)
  | fence (k : FenceKind) (sc : Scope)
  -- vector and predicate (R144 to R162)
  | vadd (t : VType) (d a b : Nat) | vsub (t : VType) (d a b : Nat) | vmul (t : VType) (d a b : Nat)
  | vfma (t : VType) (d a b : Nat) | vmin (t : VType) (d a b : Nat) | vmax (t : VType) (d a b : Nat)
  | vabs (t : VType) (d a : Nat) | vneg (t : VType) (d a : Nat)
  | vand (d a b : Nat) | vor (d a b : Nat) | vxor (d a b : Nat)
  | vshl (d a b : Nat) | vshr (d a b : Nat) | vsar (d a b : Nat)
  | vsrrI32 (d a b : Nat) | vsrrI16x2 (d a b : Nat)
  | vdot2I16 (d a b : Nat) | vadd2I16 (d a b : Nat)
  | vcvt (dt st : VType) (d a : Nat)
  | vrcp (d a : Nat) | vrsq (d a : Nat) | vexp2 (d a : Nat) | vlog2 (d a : Nat)
  | vdiv (d a b : Nat) | vdivu (d a b : Nat) | vrem (d a b : Nat) | vremu (d a b : Nat)
  | vcmp (cc : VCond) (t : VType) (p a b : Nat)
  | vsel (d a b p : Nat)
  | vmov (d a : Nat) | vbcast (d a : Nat) | vlane (d a lane : Nat)
  | vslide (down : Bool) (k d a b : Nat)
  | vshfl (d a b : Nat)
  | vred (op : RedOp) (t : VType) (d a : Nat) | vscan (op : RedOp) (t : VType) (d a : Nat)
  | pand (d a b : Nat) | por (d a b : Nat) | pxor (d a b : Nat) | pnot (d a : Nat) | pcnt (d a : Nat)
  | vld (w : Width) (d a : Nat) | vst (w : Width) (d a : Nat)
  | vldc (w : Width) (d a : Nat) | vstc (w : Width) (d a : Nat)
  | touch (a : Nat)
  -- matrix and engines (R259 to R273)
  | mfmt (a : Nat) | mm (d a b : Nat) | mmm (d a b : Nat) | tld (d a : Nat)
  | aclr (d : Nat) | aget (d a : Nat) | aput (d a : Nat)
  | cpy (d a b : Nat) | cpy2 (d a : Nat) | take (d : Nat)
  | push (a ch : Nat) | pop (d ch : Nat)
  -- tasks (R178 to R190)
  | spawn (d a b : Nat) | join (d : Nat) | done | grant (d a b : Nat) | signal (a : Nat)
  | cancel (d a : Nat) | enq (d a b : Nat) | yield
  -- system and observation (R85 to R92, R289, R304, R306, R314)
  | mfs (d sr : Nat) | mts (sr a : Nat) | trap (code : BitVec 25) | eret
  | waitc (loads stores copies matrix : Nat) | nop | ipf (off : BitVec 18) | safe (code : BitVec 25)
  | enter (region : BitVec 24) | leave | brk (code : BitVec 25) | rdctr (d ctr : Nat)
  -- steps of a core, by core, group slot and index (rows without an encoding)
  | illegalInstruction (word : W32)
  | meetBoundExpiry (core slot entry : Nat) | splitFusion (core slot older younger : Nat)
  | splitRefill (core slot : Nat) | splitRotation (core slot : Nat)
  | frameGrant (core : Nat) | escapeSpill (core : Nat) | escapeRefill (core : Nat)
  | activeSetAdmit (core side : Nat) | icacheLineFill (core line : Nat)
  | loadReturn (core slot op : Nat) | storePerformed (core op : Nat) | waitcResume (core slot entry : Nat)
  | copyComplete (core op : Nat) | copyCancelReport (core op : Nat)
  | matrixDrain (core slot op : Nat) (residue dual : BitVec 4)
  | tldComplete (core slot op : Nat) | mmmRerun (core slot op : Nat)
  | faultRingRoom | faultRecordService | backingCopyComplete (copy : Nat) | faultReply (reply : Nat)
  | tarnRetry (core slot entry : Nat) | enqDeadline (core slot entry : Nat)
  -- steps of the Wellspring
  | joinComplete (core slot entry : Nat) | taskResident (core : Nat) | crewStart (core : Nat)
  | drainingComplete (task : Nat) | returnDelivery (msg : Nat) | grantApply (msg : Nat)
  | signalApply (msg : Nat) | cancelApply (msg : Nat) | unwindOrder (task : Nat)
  | unwindingComplete (task : Nat) | crewSave (task : Nat) | forcedSave (task : Nat) | crewRestore (core : Nat)
  | stampRecordWrite (task tile : Nat) | mereWriteLand (core op : Nat)
  | releaseMarkerComplete (core marker : Nat)
  -- errors and the world
  | uncorrectableError (site : ErrSite) | coreReturnToService (core : Nat) | securityAlarm (sensor : Nat)
  | watchdogRestart | bringUp | powerLimitThrottle (core : Nat)
  | helasLinkChange (port : Nat) (up : Bool)
  | helasInboundWrite (port pa : Nat) (data : BitVec 512) (poison : Bool)
  | cxlMemRead (pa : Nat) | cxlMemWrite (pa : Nat) (data : BitVec 512)
  | eventWrite | admqWrite (value : W64) | alarmClear (value : W64) | bar0RegisterWrite (offset : Nat) (value : W64)
  -- packets, by queue (R330)
  | launch (q : Nat) (p : Packet) | sweep (q : Nat) (p : Packet) | copy (q : Nat) (p : Packet)
  | hubCopyComplete (op : Nat)
  | waitword (q : Nat) (p : Packet) | fillword (q : Nat) (p : Packet)
  | captureStart (q : Nat) (p : Packet) | captureStop (q : Nat) (p : Packet)
  | grantPacket (q : Nat) (p : Packet) | inval (q : Nat) (p : Packet) | cancelPacket (q : Nat) (p : Packet)
  | fencePacket (q : Nat) (p : Packet)
  -- admin commands (R333, R334)
  | ctxCreate (p : Packet) | ctxSet (p : Packet) | queueCreate (p : Packet) | queueDestroy (p : Packet)
  | map (p : Packet) | protect (p : Packet) | asidTeardown (p : Packet) | asidRecycle (asid : Nat)
  | preempt (p : Packet) | coreReset (p : Packet) | counters (p : Packet)
  | debugSetStop (p : Packet) | debugClearStop (p : Packet) | debugHaltCommand (p : Packet)
  | debugRead (p : Packet) | debugStageEdit (p : Packet) | debugCommit (p : Packet) | debugResume (p : Packet)
  | attest (p : Packet) | alarmPolicy (p : Packet) | powerLimit (p : Packet) | helasWindow (p : Packet)
  | provisioning
  deriving DecidableEq, Repr

end Sys2Proof
end

