-- ==== Sys2Proof/WellFormed.lean ====
section
/-! DEFINITION. Which terms of Instr stand for something the spec has: the register classes and blocks of R47 and
R48, the number fields of R49, the legal types of R51, and the ranges of the numbers that name cores, group slots and
the like in the steps without an encoding. -/

namespace Sys2Proof

/-- A scalar field: s0 to s63 (R47). -/
abbrev isS (n : Nat) : Bool := decide (n < 64)
/-- A vector field: v0 to v127 (R47). -/
abbrev isV (n : Nat) : Bool := decide (n < 128)
/-- A predicate field: p0 to p15 (R47). -/
abbrev isP (n : Nat) : Bool := decide (n < 16)
/-- A tile or accumulator field: 0 to 7; the crew shape is checked when the word issues (R47). -/
abbrev isTA (n : Nat) : Bool := decide (n < 8)
/-- A block of `k` vector registers from `n`, wholly in v0 to v119 or wholly in v120 to v127 (R48). -/
abbrev isVBlock (n k : Nat) : Bool := decide (n + k ≤ 120) || (decide (120 ≤ n) && decide (n + k ≤ 128))
/-- A block of `k` scalars from `n`, wholly in s1 to s31 or wholly in s32 to s63 (R48). -/
abbrev isSBlock (n k : Nat) : Bool :=
  (decide (1 ≤ n) && decide (n + k ≤ 32)) || (decide (32 ≤ n) && decide (n + k ≤ 64))
/-- An even vector register, the first of a pair (R48). -/
abbrev isVPair (n : Nat) : Bool := decide (n < 128) && decide (n % 2 = 0)
/-- An even scalar other than s0, the first of a pair (R48). -/
abbrev isSPair (n : Nat) : Bool := decide (n < 64) && decide (n % 2 = 0) && decide (n ≠ 0)
/-- A core number (R5). -/
abbrev isCore (n : Nat) : Bool := decide (n < 384)
/-- A group slot of a core (R109). -/
abbrev isSlot (n : Nat) : Bool := decide (n < 48)

/-- The floating-point types (R46). -/
def VType.isFloat : VType → Bool
  | .f32 | .bf16 | .f16 => true
  | .i32 | .u32 => false

/-- The types VABS and VNEG accept (R51). -/
def VType.isSigned : VType → Bool
  | .u32 => false
  | .i32 | .f32 | .bf16 | .f16 => true

/-- The types VRED and VSCAN accept (R50). -/
def VType.isRed : VType → Bool
  | .i32 | .u32 | .f32 => true
  | .bf16 | .f16 => false

/-- An atomic's width: .w or .d (R221). -/
def Width.isAtomic : Width → Bool
  | .word | .dword => true
  | .byte | .half => false

/-- The widths that LDS and the vector accesses accept: all but .d (R49). -/
def Width.isNarrow : Width → Bool
  | .dword => false
  | .byte | .half | .word => true

/-- The site of an error names a core, a slot and an element that exist. -/
def ErrSite.wellFormed : ErrSite → Bool
  | .memory pa => decide (pa < 2 ^ 52)
  | .scalar c g _ n => isCore c && isSlot g && isS n
  | .vlane c g _ n l => isCore c && isSlot g && isV n && decide (l < 32)
  | .pred c g n => isCore c && isSlot g && isP n
  | .tileUnit c g n u => isCore c && isSlot g && isTA n && decide (u < 24)
  | .accQuarter c g n q => isCore c && isSlot g && isTA n && decide (q < 4)
  | .chanLane _ ch _ l => decide (ch < 16) && decide (l < 32)
  | .icacheLine c a _ => isCore c && decide (a < 2048)
  | .tlb c => isCore c
  | .pageTable a _ => decide (a < 2048)
  | .dieTag pa => decide (pa < 2 ^ 52)
  | .directory pa => decide (pa < 2 ^ 52)
  | .tarn _ => true
  | .wellhead _ => true
  | .control c => isCore c
  | .image _ => true
  | .spillArea c g => isCore c && isSlot g

/-- The well-formed terms. Every word the decoder accepts gives one. -/
def Instr.wellFormed : Instr → Bool
  | .add d a b | .sub d a b | .mul d a b | .mulh d a b | .mulhu d a b
  | .min d a b | .max d a b | .minu d a b | .maxu d a b
  | .div d a b | .divu d a b | .rem d a b | .remu d a b
  | .and d a b | .or d a b | .xor d a b | .andn d a b
  | .shl d a b | .shr d a b | .sar d a b | .rol d a b => isS d && isS a && isS b
  | .clz d a | .popc d a | .mov d a => isS d && isS a
  | .cmp _ d a b => isS d && isS a && isS b
  | .sel d a b x => isS d && isS a && isS b && decide (x < 16)
  | .addi d a _ | .andi d a _ | .ori d a _ | .xori d a _ => isS d && isS a
  | .shli d a n | .shri d a n | .sari d a n => isS d && isS a && decide (n < 64)
  | .li d _ | .lih d _ => isS d
  | .bz i _ | .bnz i _ | .brv i _ => decide (i < 16)
  | .jmp _ => true
  | .call n _ => decide (n ≤ 120)
  | .callr n a => decide (n ≤ 120) && isS a
  | .jr a | .unwind a => isS a
  | .ret | .meet => true
  | .fgrow k | .fshrink k => decide (1 ≤ k) && decide (k ≤ 15)
  | .ld _ d a | .st _ d a => isS d && isS a
  | .lds w d a => w.isNarrow && isS d && isS a
  | .amo _ w _ d a => w.isAtomic && isS d && isS a
  | .cas w _ d a => w.isAtomic && isSPair d && isS a
  | .vamo _ _ d a => isVPair d && isS a
  | .fld _ d a | .ftake _ d a | .fput _ d a | .ffill _ d a => isS d && isS a
  | .fence _ _ => true
  | .vadd _ d a b | .vsub _ d a b | .vmul _ d a b | .vmin _ d a b | .vmax _ d a b => isV d && isV a && isV b
  | .vfma t d a b => t.isFloat && isV d && isV a && isV b
  | .vabs t d a | .vneg t d a => t.isSigned && isV d && isV a
  | .vand d a b | .vor d a b | .vxor d a b | .vshl d a b | .vshr d a b | .vsar d a b
  | .vsrrI32 d a b | .vsrrI16x2 d a b | .vdot2I16 d a b | .vadd2I16 d a b => isV d && isV a && isV b
  | .vcvt dt srt d a => decide (dt ≠ srt) && isV d && isV a
  | .vrcp d a | .vrsq d a | .vexp2 d a | .vlog2 d a => isV d && isV a
  | .vdiv d a b | .vdivu d a b | .vrem d a b | .vremu d a b => isV d && isV a && isV b
  | .vcmp _ _ p a b => isP p && isV a && isV b
  | .vsel d a b p => isV d && isV a && isV b && isP p
  | .vmov d a => isV d && isV a
  | .vbcast d a => isV d && isS a
  | .vlane d a l => isS d && isV a && decide (l < 32)
  | .vslide _ k d a b => decide (1 ≤ k) && decide (k ≤ 7) && isV d && isV a && isV b
  | .vshfl d a b => isV d && isV a && isV b
  | .vred _ t d a => t.isRed && isS d && isV a
  | .vscan _ t d a => t.isRed && isV d && isV a
  | .pand d a b | .por d a b | .pxor d a b => isP d && isP a && isP b
  | .pnot d a => isP d && isP a
  | .pcnt d a => isS d && isP a
  | .vld w d a | .vst w d a => w.isNarrow && isV d && isS a
  | .vldc w d a | .vstc w d a => w.isNarrow && isVPair d && isS a
  | .touch a => isS a
  | .mfmt a => isV a
  | .mm d a b => isTA d && isV a && isVBlock a 12 && isTA b
  | .mmm d a b => isTA d && isV a && isVBlock a 12 && isS b
  | .tld d a => isTA d && isS a
  | .aclr d => isTA d
  | .aget d a => isV d && isVBlock d 8 && isTA a
  | .aput d a => isTA d && isV a && isVBlock a 8
  | .cpy d a b => isS d && isS a && isS b
  | .cpy2 d a => isS d && isS a && isSBlock a 6
  | .take d | .join d => isS d
  | .push a ch => isV a && decide (ch < 16)
  | .pop d ch => isV d && decide (ch < 16)
  | .spawn d a b | .grant d a b | .enq d a b => isS d && isS a && isS b
  | .done | .yield | .eret | .nop | .leave => true
  | .signal a => isS a
  | .cancel d a => isS d && isS a
  | .mfs d r => isS d && decide (r < 18)
  | .mts r a => decide (r < 18) && isS a
  | .trap _ | .safe _ | .brk _ | .ipf _ | .enter _ => true
  | .waitc l q c m => decide (l < 16) && decide (q < 16) && decide (c < 16) && decide (m < 16)
  | .rdctr d n => isS d && decide (n < 16)
  | .illegalInstruction _ => true
  | .meetBoundExpiry c g _ | .splitFusion c g _ _ | .waitcResume c g _ | .tarnRetry c g _ | .enqDeadline c g _
  | .loadReturn c g _ | .matrixDrain c g _ _ _ | .tldComplete c g _ | .mmmRerun c g _
  | .joinComplete c g _ => isCore c && isSlot g
  | .splitRefill c g | .splitRotation c g => isCore c && isSlot g
  | .frameGrant c | .escapeSpill c | .escapeRefill c | .taskResident c | .crewStart c | .crewRestore c
  | .coreReturnToService c | .powerLimitThrottle c => isCore c
  | .activeSetAdmit c side => isCore c && decide (side < 2)
  | .icacheLineFill c _ | .storePerformed c _ | .copyComplete c _ | .copyCancelReport c _
  | .mereWriteLand c _ | .releaseMarkerComplete c _ => isCore c
  | .faultRingRoom | .faultRecordService | .backingCopyComplete _ | .faultReply _ => true
  | .drainingComplete _ | .returnDelivery _ | .grantApply _ | .signalApply _ | .cancelApply _ | .unwindOrder _
  | .unwindingComplete _ | .crewSave _ | .forcedSave _ | .stampRecordWrite _ _ => true
  | .uncorrectableError e => e.wellFormed
  | .securityAlarm n => decide (n < 4)
  | .watchdogRestart | .bringUp | .eventWrite | .admqWrite _ | .alarmClear _ | .provisioning => true
  | .bar0RegisterWrite off _ => decide (off < 4096) && decide (off % 8 = 0)
  | .helasLinkChange p _ => decide (p < 8)
  | .helasInboundWrite p pa _ _ => decide (p < 8) && decide (pa % 64 = 0) && decide (pa < 2 ^ 41)
  | .cxlMemRead pa | .cxlMemWrite pa _ => decide (pa % 64 = 0) && decide (pa < 2 ^ 41)
  | .launch _ _ | .sweep _ _ | .copy _ _ | .hubCopyComplete _ | .waitword _ _ | .fillword _ _
  | .captureStart _ _ | .captureStop _ _ | .grantPacket _ _ | .inval _ _ | .cancelPacket _ _ | .fencePacket _ _ => true
  | .ctxCreate _ | .ctxSet _ | .queueCreate _ | .queueDestroy _ | .map _ | .protect _ | .asidTeardown _ => true
  | .asidRecycle a => decide (a < 2048)
  | .preempt _ | .coreReset _ | .counters _ | .debugSetStop _ | .debugClearStop _ | .debugHaltCommand _
  | .debugRead _ | .debugStageEdit _ | .debugCommit _ | .debugResume _ | .attest _ | .alarmPolicy _
  | .powerLimit _ | .helasWindow _ => true

/-- A term that stands for something the spec has. -/
abbrev WellFormed (i : Instr) : Prop := i.wellFormed = true

end Sys2Proof
end

