-- ==== Sys2Proof/Decode.lean ====
section
/-! DEFINITION. The decoder, total on every word, and the encoder, both from the formats of R43, the ws field of R45
and the opcode map of R49 and R50. `candidate` reads the fields a word's opcode and function give it; a word decodes
when the term read is well formed and its encoding is the whole word, so that every reserved function, reserved
subfield and nonzero zero field is refused (R44, R49). Packets (R328, R330, R333) are read here as well. -/

namespace Sys2Proof

/-- The field of `w` that starts at bit `lo` and takes values below `n` (R43). -/
def fieldAt (w lo n : Nat) : Nat := w / 2 ^ lo % n

/-- The code of a CMP condition (R50). -/
def Cond.code : Cond → Nat
  | .eq => 0 | .ne => 1 | .lt => 2 | .ge => 3 | .le => 4 | .gt => 5 | .ltu => 6 | .geu => 7 | .leu => 8 | .gtu => 9

/-- The CMP condition of a code; 10 to 15 are reserved (R50). -/
def Cond.ofCode : Nat → Option Cond
  | 0 => some .eq | 1 => some .ne | 2 => some .lt | 3 => some .ge | 4 => some .le | 5 => some .gt
  | 6 => some .ltu | 7 => some .geu | 8 => some .leu | 9 => some .gtu | _ => none

/-- The code of a VCMP condition (R50). -/
def VCond.code : VCond → Nat
  | .eq => 0 | .ne => 1 | .lt => 2 | .ge => 3 | .le => 4 | .gt => 5

/-- The VCMP condition of a code; 6 to 15 are reserved (R50). -/
def VCond.ofCode : Nat → Option VCond
  | 0 => some .eq | 1 => some .ne | 2 => some .lt | 3 => some .ge | 4 => some .le | 5 => some .gt | _ => none

/-- The type code (R46). -/
def VType.code : VType → Nat
  | .i32 => 0 | .u32 => 1 | .f32 => 2 | .bf16 => 3 | .f16 => 4

/-- The type of a code. Codes 5 and 6 name types that no instruction accepts (R51, R149); 7 to 15 are reserved. -/
def VType.ofCode : Nat → Option VType
  | 0 => some .i32 | 1 => some .u32 | 2 => some .f32 | 3 => some .bf16 | 4 => some .f16 | _ => none

/-- The code of a reduction (R50). -/
def RedOp.code : RedOp → Nat
  | .add => 0 | .min => 1 | .max => 2

/-- The reduction of a code; 3 is reserved (R50). -/
def RedOp.ofCode : Nat → Option RedOp
  | 0 => some .add | 1 => some .min | 2 => some .max | _ => none

/-- The code of an atomic operation (R50). -/
def AmoOp.code : AmoOp → Nat
  | .add => 0 | .and => 1 | .or => 2 | .xor => 3 | .min => 4 | .max => 5 | .minu => 6 | .maxu => 7 | .swap => 8

/-- The atomic operation of a code; 9 to 15 are reserved (R50). -/
def AmoOp.ofCode : Nat → Option AmoOp
  | 0 => some .add | 1 => some .and | 2 => some .or | 3 => some .xor | 4 => some .min | 5 => some .max
  | 6 => some .minu | 7 => some .maxu | 8 => some .swap | _ => none

/-- The width code of ws[7:6] (R45). -/
def Width.code : Width → Nat
  | .byte => 0 | .half => 1 | .word => 2 | .dword => 3

/-- The width of a code (R45). -/
def Width.ofCode : Nat → Option Width
  | 0 => some .byte | 1 => some .half | 2 => some .word | 3 => some .dword | _ => none

/-- The scope code of ws[10:8] (R45). -/
def Scope.code : Scope → Nat
  | .grp => 0 | .core => 1 | .die => 2 | .dev => 3 | .sys => 4

/-- The scope of a code; 5 to 7 are reserved (R45). -/
def Scope.ofCode : Nat → Option Scope
  | 0 => some .grp | 1 => some .core | 2 => some .die | 3 => some .dev | 4 => some .sys | _ => none

/-- The kind code of a FENCE in ws[7:6] (R45). -/
def FenceKind.code : FenceKind → Nat
  | .acq => 0 | .rel => 1 | .ar => 2

/-- The kind of a FENCE; 3 is reserved (R45). -/
def FenceKind.ofCode : Nat → Option FenceKind
  | 0 => some .acq | 1 => some .rel | 2 => some .ar | _ => none

/-- A word of V format (R43). -/
def vWord (op d a b fn : Nat) : Nat := op * 2 ^ 25 + d * 2 ^ 18 + a * 2 ^ 11 + b * 2 ^ 4 + fn
/-- A word of I format (R43). -/
def iWord (op d a imm : Nat) : Nat := op * 2 ^ 25 + d * 2 ^ 18 + a * 2 ^ 11 + imm
/-- A word of U format (R43). -/
def uWord (op d imm : Nat) : Nat := op * 2 ^ 25 + d * 2 ^ 18 + imm
/-- A word of B format (R43). -/
def bWord (idx kind off : Nat) : Nat := 0x18 * 2 ^ 25 + idx * 2 ^ 21 + kind * 2 ^ 19 + off
/-- A word of S format (R43). -/
def sWord (op code : Nat) : Nat := op * 2 ^ 25 + code
/-- A word of M format, its ws field given by scope and width or kind (R43, R45). -/
def mWord (op d a scope width fn : Nat) : Nat :=
  op * 2 ^ 25 + d * 2 ^ 18 + a * 2 ^ 11 + scope * 2 ^ 8 + width * 2 ^ 6 + fn

/-- The word of an instruction, 32 bits as a number. A step that has no encoding gives 0, whose opcode is illegal;
an illegal word gives itself. -/
def encode : Instr → Nat
  | .add d a b => vWord 0x01 d a b 0
  | .sub d a b => vWord 0x01 d a b 1
  | .mul d a b => vWord 0x01 d a b 2
  | .mulh d a b => vWord 0x01 d a b 3
  | .mulhu d a b => vWord 0x01 d a b 4
  | .min d a b => vWord 0x01 d a b 5
  | .max d a b => vWord 0x01 d a b 6
  | .minu d a b => vWord 0x01 d a b 7
  | .maxu d a b => vWord 0x01 d a b 8
  | .div d a b => vWord 0x02 d a b 0
  | .divu d a b => vWord 0x02 d a b 1
  | .rem d a b => vWord 0x02 d a b 2
  | .remu d a b => vWord 0x02 d a b 3
  | .and d a b => vWord 0x03 d a b 0
  | .or d a b => vWord 0x03 d a b 1
  | .xor d a b => vWord 0x03 d a b 2
  | .andn d a b => vWord 0x03 d a b 3
  | .shl d a b => vWord 0x03 d a b 4
  | .shr d a b => vWord 0x03 d a b 5
  | .sar d a b => vWord 0x03 d a b 6
  | .rol d a b => vWord 0x03 d a b 7
  | .vand d a b => vWord 0x37 d a b 0
  | .vor d a b => vWord 0x37 d a b 1
  | .vxor d a b => vWord 0x37 d a b 2
  | .vshl d a b => vWord 0x38 d a b 0
  | .vshr d a b => vWord 0x38 d a b 1
  | .vsar d a b => vWord 0x38 d a b 2
  | .vsrrI32 d a b => vWord 0x38 d a b 3
  | .vsrrI16x2 d a b => vWord 0x38 d a b 4
  | .vdot2I16 d a b => vWord 0x39 d a b 0
  | .vadd2I16 d a b => vWord 0x39 d a b 1
  | .vdiv d a b => vWord 0x3c d a b 0
  | .vdivu d a b => vWord 0x3c d a b 1
  | .vrem d a b => vWord 0x3c d a b 2
  | .vremu d a b => vWord 0x3c d a b 3
  | .vshfl d a b => vWord 0x41 d a b 0
  | .pand d a b => vWord 0x44 d a b 0
  | .por d a b => vWord 0x44 d a b 1
  | .pxor d a b => vWord 0x44 d a b 2
  | .cpy d a b => vWord 0x60 d a b 0
  | .spawn d a b => vWord 0x68 d a b 0
  | .grant d a b => vWord 0x6b d a b 0
  | .enq d a b => vWord 0x6e d a b 0
  | .mm d a b => vWord 0x51 d a b 0
  | .mmm d a b => vWord 0x52 d a b 0
  | .clz d a => vWord 0x04 d a 0 0
  | .popc d a => vWord 0x04 d a 0 1
  | .mov d a => vWord 0x04 d a 0 2
  | .vrcp d a => vWord 0x3b d a 0 0
  | .vrsq d a => vWord 0x3b d a 0 1
  | .vexp2 d a => vWord 0x3b d a 0 2
  | .vlog2 d a => vWord 0x3b d a 0 3
  | .vmov d a => vWord 0x3f d a 0 0
  | .vbcast d a => vWord 0x3f d a 0 1
  | .pnot d a => vWord 0x44 d a 0 3
  | .pcnt d a => vWord 0x44 d a 0 4
  | .aget d a => vWord 0x55 d a 0 0
  | .aput d a => vWord 0x56 d a 0 0
  | .cpy2 d a => vWord 0x61 d a 0 0
  | .cancel d a => vWord 0x6d d a 0 0
  | .mfs d a => vWord 0x70 d a 0 0
  | .mts d a => vWord 0x70 d a 0 1
  | .callr d a => vWord 0x1a d a 0 0
  | .aclr d => vWord 0x54 d 0 0 0
  | .take d => vWord 0x62 d 0 0 0
  | .join d => vWord 0x69 d 0 0 0
  | .jr a => vWord 0x1b 0 a 0 0
  | .unwind a => vWord 0x1b 0 a 0 2
  | .mfmt a => vWord 0x50 0 a 0 0
  | .signal a => vWord 0x6c 0 a 0 0
  | .ret => vWord 0x1b 0 0 0 1
  | .cmp cc d a b => vWord 0x05 d a b cc.code
  | .sel d a b x => vWord 0x06 d a b x
  | .addi d a imm => iWord 0x10 d a imm.toNat
  | .andi d a imm => iWord 0x11 d a imm.toNat
  | .ori d a imm => iWord 0x12 d a imm.toNat
  | .xori d a imm => iWord 0x13 d a imm.toNat
  | .shli d a n => iWord 0x14 d a (0 * 2 ^ 6 + n)
  | .shri d a n => iWord 0x14 d a (1 * 2 ^ 6 + n)
  | .sari d a n => iWord 0x14 d a (2 * 2 ^ 6 + n)
  | .li d imm => uWord 0x15 d imm.toNat
  | .lih d imm => uWord 0x16 d imm.toNat
  | .bz idx off => bWord idx 0 off.toNat
  | .bnz idx off => bWord idx 1 off.toNat
  | .brv idx off => bWord idx 2 off.toNat
  | .jmp off => bWord 0 3 off.toNat
  | .call n off => uWord 0x19 n off.toNat
  | .fgrow k => iWord 0x1c 0 0 (0 * 2 ^ 4 + k)
  | .fshrink k => iWord 0x1c 0 0 (1 * 2 ^ 4 + k)
  | .ld w d a => mWord 0x20 d a 0 w.code 0
  | .lds w d a => mWord 0x20 d a 0 w.code 1
  | .st w d a => mWord 0x20 d a 0 w.code 2
  | .amo op w sc d a => mWord 0x21 d a sc.code w.code op.code
  | .cas w sc d a => mWord 0x22 d a sc.code w.code 0
  | .vamo op sc d a => mWord 0x23 d a sc.code 2 op.code
  | .fld sc d a => mWord 0x24 d a sc.code 3 0
  | .ftake sc d a => mWord 0x24 d a sc.code 3 1
  | .fput sc d a => mWord 0x24 d a sc.code 3 2
  | .ffill sc d a => mWord 0x24 d a sc.code 3 3
  | .fence k sc => mWord 0x25 0 0 sc.code k.code 0
  | .vadd t d a b => vWord 0x30 d a b t.code
  | .vsub t d a b => vWord 0x31 d a b t.code
  | .vmul t d a b => vWord 0x32 d a b t.code
  | .vfma t d a b => vWord 0x33 d a b t.code
  | .vmin t d a b => vWord 0x34 d a b t.code
  | .vmax t d a b => vWord 0x35 d a b t.code
  | .vabs t d a => vWord 0x36 d a 0 t.code
  | .vneg t d a => vWord 0x36 d a 0 (8 + t.code)
  | .vcvt dt st d a => vWord 0x3a d a st.code dt.code
  | .vcmp cc t p a b => vWord 0x3d (t.code * 2 ^ 4 + p) a b cc.code
  | .vsel d a b p => vWord 0x3e d a b p
  | .vlane d a l => vWord 0x3f d a l 2
  | .vslide down k d a b => vWord 0x40 d a b ((if down then 8 else 0) + k)
  | .vred op t d a => vWord 0x42 d a 0 (op.code * 4 + t.code)
  | .vscan op t d a => vWord 0x43 d a 0 (op.code * 4 + t.code)
  | .vld w d a => mWord 0x45 d a 0 w.code 0
  | .vst w d a => mWord 0x45 d a 0 w.code 1
  | .vldc w d a => mWord 0x46 d a 0 w.code 0
  | .vstc w d a => mWord 0x46 d a 0 w.code 1
  | .touch a => mWord 0x47 0 a 0 0 0
  | .tld d a => mWord 0x53 d a 0 0 0
  | .push a ch => vWord 0x63 0 a 0 ch
  | .pop d ch => vWord 0x64 d 0 0 ch
  | .meet => sWord 0x1d 0
  | .done => sWord 0x6a 0
  | .yield => sWord 0x6f 0
  | .eret => sWord 0x72 0
  | .nop => sWord 0x74 0
  | .leave => sWord 0x79 0
  | .trap code => sWord 0x71 code.toNat
  | .safe code => sWord 0x76 code.toNat
  | .brk code => sWord 0x7a code.toNat
  | .waitc l st c m => sWord 0x73 (l + st * 2 ^ 4 + c * 2 ^ 8 + m * 2 ^ 12)
  | .ipf off => uWord 0x75 0 off.toNat
  | .enter r => sWord 0x78 r.toNat
  | .rdctr d n => vWord 0x7b d 0 0 n
  | .illegalInstruction w => w.toNat
  | _ => 0

/-- Whether a constructor is an encoded instruction of R49. -/
def Instr.isEncoded (i : Instr) : Bool := decide (encode i ≠ 0) && (match i with | .illegalInstruction _ => false | _ => true)

/-- The instruction that a word's opcode, function and fields name, before the checks of R44, R47, R48 and R51. -/
def candidate (w : Nat) : Option Instr :=
  let d := fieldAt w 18 128
  let a := fieldAt w 11 128
  let b := fieldAt w 4 128
  let fn := fieldAt w 0 16
  let imm11 := BitVec.ofNat 11 w
  let imm18 := BitVec.ofNat 18 w
  let off19 := BitVec.ofNat 19 w
  let width := Width.ofCode (fieldAt w 6 4)
  let scope := Scope.ofCode (fieldAt w 8 8)
  match fieldAt w 25 128 with
  | 0x01 => match fn with
    | 0 => some (.add d a b)
    | 1 => some (.sub d a b)
    | 2 => some (.mul d a b)
    | 3 => some (.mulh d a b)
    | 4 => some (.mulhu d a b)
    | 5 => some (.min d a b)
    | 6 => some (.max d a b)
    | 7 => some (.minu d a b)
    | 8 => some (.maxu d a b)
    | _ => none
  | 0x02 => match fn with
    | 0 => some (.div d a b)
    | 1 => some (.divu d a b)
    | 2 => some (.rem d a b)
    | 3 => some (.remu d a b)
    | _ => none
  | 0x03 => match fn with
    | 0 => some (.and d a b)
    | 1 => some (.or d a b)
    | 2 => some (.xor d a b)
    | 3 => some (.andn d a b)
    | 4 => some (.shl d a b)
    | 5 => some (.shr d a b)
    | 6 => some (.sar d a b)
    | 7 => some (.rol d a b)
    | _ => none
  | 0x04 => match fn with
    | 0 => some (.clz d a)
    | 1 => some (.popc d a)
    | 2 => some (.mov d a)
    | _ => none
  | 0x05 => (Cond.ofCode fn).map (fun c => .cmp c d a b)
  | 0x06 => some (.sel d a b fn)
  | 0x10 => some (.addi d a imm11)
  | 0x11 => some (.andi d a imm11)
  | 0x12 => some (.ori d a imm11)
  | 0x13 => some (.xori d a imm11)
  | 0x14 => match fieldAt w 6 4 with
    | 0 => some (.shli d a (fieldAt w 0 64))
    | 1 => some (.shri d a (fieldAt w 0 64))
    | 2 => some (.sari d a (fieldAt w 0 64))
    | _ => none
  | 0x15 => some (.li d imm18)
  | 0x16 => some (.lih d imm18)
  | 0x18 => match fieldAt w 19 4 with
    | 0 => some (.bz (fieldAt w 21 16) off19)
    | 1 => some (.bnz (fieldAt w 21 16) off19)
    | 2 => some (.brv (fieldAt w 21 16) off19)
    | _ => some (.jmp off19)
  | 0x19 => some (.call d imm18)
  | 0x1a => some (.callr d a)
  | 0x1b => match fn with
    | 0 => some (.jr a)
    | 1 => some .ret
    | 2 => some (.unwind a)
    | _ => none
  | 0x1c => match fieldAt w 4 2 with
    | 0 => some (.fgrow (fieldAt w 0 16))
    | _ => some (.fshrink (fieldAt w 0 16))
  | 0x1d => some .meet
  | 0x20 => width.bind (fun wd => match fn with
    | 0 => some (.ld wd d a)
    | 1 => some (.lds wd d a)
    | 2 => some (.st wd d a)
    | _ => none)
  | 0x21 => (AmoOp.ofCode fn).bind (fun op => width.bind (fun wd => scope.map (fun sc => .amo op wd sc d a)))
  | 0x22 => width.bind (fun wd => scope.map (fun sc => .cas wd sc d a))
  | 0x23 => (AmoOp.ofCode fn).bind (fun op => scope.map (fun sc => .vamo op sc d a))
  | 0x24 => scope.bind (fun sc => match fn with
    | 0 => some (.fld sc d a)
    | 1 => some (.ftake sc d a)
    | 2 => some (.fput sc d a)
    | 3 => some (.ffill sc d a)
    | _ => none)
  | 0x25 => (FenceKind.ofCode (fieldAt w 6 4)).bind (fun k => scope.map (fun sc => .fence k sc))
  | 0x30 => (VType.ofCode fn).map (fun t => .vadd t d a b)
  | 0x31 => (VType.ofCode fn).map (fun t => .vsub t d a b)
  | 0x32 => (VType.ofCode fn).map (fun t => .vmul t d a b)
  | 0x33 => (VType.ofCode fn).map (fun t => .vfma t d a b)
  | 0x34 => (VType.ofCode fn).map (fun t => .vmin t d a b)
  | 0x35 => (VType.ofCode fn).map (fun t => .vmax t d a b)
  | 0x36 => (VType.ofCode (fieldAt w 0 8)).map (fun t => match fieldAt w 3 2 with
    | 0 => .vabs t d a
    | _ => .vneg t d a)
  | 0x37 => match fn with
    | 0 => some (.vand d a b)
    | 1 => some (.vor d a b)
    | 2 => some (.vxor d a b)
    | _ => none
  | 0x38 => match fn with
    | 0 => some (.vshl d a b)
    | 1 => some (.vshr d a b)
    | 2 => some (.vsar d a b)
    | 3 => some (.vsrrI32 d a b)
    | 4 => some (.vsrrI16x2 d a b)
    | _ => none
  | 0x39 => match fn with
    | 0 => some (.vdot2I16 d a b)
    | 1 => some (.vadd2I16 d a b)
    | _ => none
  | 0x3a => (VType.ofCode fn).bind (fun dt => (VType.ofCode b).map (fun st => .vcvt dt st d a))
  | 0x3b => match fn with
    | 0 => some (.vrcp d a)
    | 1 => some (.vrsq d a)
    | 2 => some (.vexp2 d a)
    | 3 => some (.vlog2 d a)
    | _ => none
  | 0x3c => match fn with
    | 0 => some (.vdiv d a b)
    | 1 => some (.vdivu d a b)
    | 2 => some (.vrem d a b)
    | 3 => some (.vremu d a b)
    | _ => none
  | 0x3d => (VCond.ofCode fn).bind (fun c => (VType.ofCode (fieldAt w 22 8)).map (fun t => .vcmp c t (fieldAt w 18 16) a b))
  | 0x3e => some (.vsel d a b fn)
  | 0x3f => match fn with
    | 0 => some (.vmov d a)
    | 1 => some (.vbcast d a)
    | 2 => some (.vlane d a b)
    | _ => none
  | 0x40 => some (.vslide (decide (fieldAt w 3 2 = 1)) (fieldAt w 0 8) d a b)
  | 0x41 => some (.vshfl d a b)
  | 0x42 => (RedOp.ofCode (fieldAt w 2 4)).bind (fun op => (VType.ofCode (fieldAt w 0 4)).map (fun t => .vred op t d a))
  | 0x43 => (RedOp.ofCode (fieldAt w 2 4)).bind (fun op => (VType.ofCode (fieldAt w 0 4)).map (fun t => .vscan op t d a))
  | 0x44 => match fn with
    | 0 => some (.pand d a b)
    | 1 => some (.por d a b)
    | 2 => some (.pxor d a b)
    | 3 => some (.pnot d a)
    | 4 => some (.pcnt d a)
    | _ => none
  | 0x45 => width.bind (fun wd => match fn with
    | 0 => some (.vld wd d a)
    | 1 => some (.vst wd d a)
    | _ => none)
  | 0x46 => width.bind (fun wd => match fn with
    | 0 => some (.vldc wd d a)
    | 1 => some (.vstc wd d a)
    | _ => none)
  | 0x47 => some (.touch a)
  | 0x50 => some (.mfmt a)
  | 0x51 => some (.mm d a b)
  | 0x52 => some (.mmm d a b)
  | 0x53 => some (.tld d a)
  | 0x54 => some (.aclr d)
  | 0x55 => some (.aget d a)
  | 0x56 => some (.aput d a)
  | 0x60 => some (.cpy d a b)
  | 0x61 => some (.cpy2 d a)
  | 0x62 => some (.take d)
  | 0x63 => some (.push a fn)
  | 0x64 => some (.pop d fn)
  | 0x68 => some (.spawn d a b)
  | 0x69 => some (.join d)
  | 0x6a => some .done
  | 0x6b => some (.grant d a b)
  | 0x6c => some (.signal a)
  | 0x6d => some (.cancel d a)
  | 0x6e => some (.enq d a b)
  | 0x6f => some .yield
  | 0x70 => match fn with
    | 0 => some (.mfs d a)
    | 1 => some (.mts d a)
    | _ => none
  | 0x71 => some (.trap (BitVec.ofNat 25 w))
  | 0x72 => some .eret
  | 0x73 => some (.waitc (fieldAt w 0 16) (fieldAt w 4 16) (fieldAt w 8 16) (fieldAt w 12 16))
  | 0x74 => some .nop
  | 0x75 => some (.ipf imm18)
  | 0x76 => some (.safe (BitVec.ofNat 25 w))
  | 0x78 => some (.enter (BitVec.ofNat 24 w))
  | 0x79 => some .leave
  | 0x7a => some (.brk (BitVec.ofNat 25 w))
  | 0x7b => some (.rdctr d fn)
  | _ => none

/-- The decoder: the instruction of a 32-bit word, or none where the word is illegal (R44, R47 to R51). -/
def decodeWord (w : Nat) : Option Instr :=
  match candidate w with
  | some i => if i.wellFormed && encode i == w then some i else none
  | none => none

/-- Little-endian reading of a list of bytes (R8). -/
def leNat : List Byte → Nat
  | [] => 0
  | b :: bs => b.toNat + 256 * leNat bs

/-- The `n` bytes of a number, little-endian (R8). -/
def leBytes : Nat → Nat → List Byte
  | 0, _ => []
  | n + 1, x => BitVec.ofNat 8 x :: leBytes n (x / 256)

/-- The decoder on the four bytes of a word as memory holds them (R8, R18). -/
def decodeBytes (bs : List Byte) : Option Instr :=
  if bs.length = 4 then decodeWord (leNat bs) else none

/-- The instruction read from a word given as opcode_table.json numbers its bits. Every row has one 32-bit word, so
bits above `nbits` are zero already; a number that does not fit 32 bits is no word. -/
def decodeTableWord (_nbits w : Nat) : Option Instr :=
  if w < 2 ^ 32 then decodeBytes (leBytes 4 w) else none

/-- Bits [hi:lo] of a dword as a number. -/
def W64.bits (x : W64) (hi lo : Nat) : Nat := x.toNat / 2 ^ lo % 2 ^ (hi - lo + 1)

/-- The kind of a packet: bits [7:0] of its slot word (R328). -/
def Packet.kind (p : Packet) : Nat := W64.bits p.slotWord 7 0

/-- The step a packet asks for: the kinds of R330 on a queue, the commands of R333 on the admin queue. A reserved
kind, or an admin kind on another queue, gives none (R332). -/
def decodePacket (admin : Bool) (q : Nat) (p : Packet) : Option Instr :=
  match admin, p.kind with
  | false, 1 => some (.launch q p)
  | false, 2 => some (.sweep q p)
  | false, 3 => some (.copy q p)
  | false, 4 => some (.waitword q p)
  | false, 5 => some (.fillword q p)
  | false, 6 => some (.captureStart q p)
  | false, 7 => some (.captureStop q p)
  | false, 8 => some (.grantPacket q p)
  | false, 9 => some (.inval q p)
  | false, 10 => some (.cancelPacket q p)
  | false, 11 => some (.fencePacket q p)
  | true, 0x80 => some (.ctxCreate p)
  | true, 0x81 => some (.ctxSet p)
  | true, 0x82 => some (.queueCreate p)
  | true, 0x83 => some (.queueDestroy p)
  | true, 0x84 => some (.map p)
  | true, 0x85 => some (.protect p)
  | true, 0x86 => some (.asidTeardown p)
  | true, 0x87 => some (.preempt p)
  | true, 0x88 => some (.coreReset p)
  | true, 0x89 => some (.counters p)
  | true, 0x8A => match W64.bits p.w10 35 32 with
    | 0 => some (.debugSetStop p)
    | 1 => some (.debugClearStop p)
    | 2 => some (.debugHaltCommand p)
    | 3 => some (.debugRead p)
    | 4 => some (.debugStageEdit p)
    | 5 => some (.debugCommit p)
    | 6 => some (.debugResume p)
    | _ => none
  | true, 0x8B => some (.attest p)
  | true, 0x8C => some (.alarmPolicy p)
  | true, 0x8D => some (.powerLimit p)
  | true, 0x8E => some (.helasWindow p)
  | _, _ => none

/-- The 64 bytes of a packet, in order of address (R328). -/
def Packet.bytes (p : Packet) : List Byte :=
  leBytes 8 p.slotWord.toNat ++ leBytes 8 p.cw.toNat ++ leBytes 8 p.w10.toNat ++ leBytes 8 p.w18.toNat ++
  leBytes 8 p.w20.toNat ++ leBytes 8 p.w28.toNat ++ leBytes 8 p.w30.toNat ++ leBytes 8 p.w38.toNat

/-- The packet of 64 bytes (R328). -/
def Packet.ofBytes (bs : List Byte) : Packet :=
  let dw := fun k => BitVec.ofNat 64 (leNat ((bs.drop (8 * k)).take 8))
  ⟨dw 0, dw 1, dw 2, dw 3, dw 4, dw 5, dw 6, dw 7⟩

end Sys2Proof
end

