-- ==== Sys2Proof/Machine/Table.lean ====
section
/-! DEFINITION. Operations on tables (finite maps by number) and on sorted lists of numbers. -/

namespace Sys2Proof.Machine.Table

/-- The value at a number, if the table has one. -/
def get? {α : Type} : Table α → Nat → Option α
  | [], _ => none
  | (j, x) :: t, k => if k = j then some x else get? t k

/-- The table with the value at a number that it has replaced in its place. -/
def replace {α : Type} : Table α → Nat → α → Table α
  | [], _, _ => []
  | (j, y) :: t, k, x => if k = j then (k, x) :: t else (j, y) :: replace t k x

/-- The table with a value at a number that it has not, placed in order of number. -/
def insert {α : Type} : Table α → Nat → α → Table α
  | [], k, x => [(k, x)]
  | (j, y) :: t, k, x => if k < j then (k, x) :: (j, y) :: t else (j, y) :: insert t k x

/-- The table with the value at a number replaced in its place, or added in order of number. -/
def set {α : Type} (t : Table α) (k : Nat) (x : α) : Table α :=
  if (get? t k).isSome then replace t k x else insert t k x

/-- The table without a number. -/
def erase {α : Type} (t : Table α) (k : Nat) : Table α := t.filter (fun e => decide (e.1 ≠ k))

/-- The value at a number, or a default. -/
def getD {α : Type} (t : Table α) (k : Nat) (d : α) : α := (get? t k).getD d

/-- The table with the value at a number changed, where it has one. -/
def modify {α : Type} (t : Table α) (k : Nat) (f : α → α) : Table α :=
  match get? t k with
  | some x => set t k (f x)
  | none => t

/-- Every value changed. -/
def mapVals {α : Type} (t : Table α) (f : α → α) : Table α := t.map (fun e => (e.1, f e.2))

/-- The numbers of a table. -/
def keys {α : Type} (t : Table α) : List Nat := t.map Prod.fst

/-- The values of a table. -/
def vals {α : Type} (t : Table α) : List α := t.map Prod.snd

/-- A rising list of numbers with one added. -/
def insertNat : List Nat → Nat → List Nat
  | [], k => [k]
  | j :: t, k => if k = j then j :: t else if k < j then k :: j :: t else j :: insertNat t k

/-- A list of numbers with one removed. -/
def removeNat (l : List Nat) (k : Nat) : List Nat := l.filter (fun j => decide (j ≠ k))

end Sys2Proof.Machine.Table

namespace Sys2Proof.Machine

/-- The numbers 0 to n − 1. -/
def upto (n : Nat) : List Nat := List.range n

/-- The lowest number below `n`, counted from `k`, that a list does not hold. -/
def lowestFree (used : List Nat) : Nat → Nat → Option Nat
  | _, 0 => none
  | k, n + 1 => if used.contains k then lowestFree used (k + 1) n else some k

/-- The position of the first element that satisfies a test. -/
def findPos {α : Type} (f : α → Bool) : List α → Option Nat
  | [] => none
  | x :: xs => if f x then some 0 else (findPos f xs).map (· + 1)

/-- A list without the element at a position. -/
def dropAt {α : Type} : List α → Nat → List α
  | [], _ => []
  | _ :: xs, 0 => xs
  | x :: xs, k + 1 => x :: dropAt xs k

/-- A list with the element at a position changed. -/
def changeAt {α : Type} : List α → Nat → (α → α) → List α
  | [], _, _ => []
  | x :: xs, 0, f => f x :: xs
  | x :: xs, k + 1, f => x :: changeAt xs k f

/-- The sum of a list of numbers. -/
def total (l : List Nat) : Nat := l.foldl (· + ·) 0

end Sys2Proof.Machine
end

