-- ==== Sys2Proof/Machine/Bits.lean ====
section
/-! DEFINITION. Bit fields, sign extension, lanes and packed elements (R8, R41, R93, R113, R158). -/

namespace Sys2Proof.Machine

/-- `trunc(x, 64)` of an integer (R41). -/
def trunc64 (x : Int) : W64 := BitVec.ofInt 64 x

/-- `trunc(x, 32)` of an integer (R41). -/
def trunc32 (x : Int) : W32 := BitVec.ofInt 32 x

/-- A truth value as a number. -/
def b2n (b : Bool) : Nat := if b then 1 else 0

/-- Lane `L` of a register's 32 lanes (R20). -/
def laneAt (l : Lanes) (k : Nat) : W32 := l.getD k 0

/-- The 32 lanes whose lane L is `f L`. -/
def ofLanes (f : Nat → W32) : Lanes := (upto 32).map f

/-- The 32 lanes of a mask whose bit L is `f L`. -/
def ofBits (f : Nat → Bool) : W32 := (upto 32).foldl (fun m k => if f k then m ||| (1#32 <<< k) else m) 0

/-- `active(L)`: lane L is in a mask (R41). -/
def maskHas (m : W32) (k : Nat) : Bool := m.getLsbD k

/-- The lanes of a mask in ascending order. -/
def lanesOf (m : W32) : List Nat := (upto 32).filter (maskHas m)

/-- The number of lanes of a mask. -/
def laneCount (m : W32) : Nat := (lanesOf m).length

/-- The lowest lane of a mask; 0 of an empty one, which no split has (R113). -/
def lowLane (m : W32) : Nat := (lanesOf m).headD 0

/-- The quarters a mask holds wholly, quarter q being lanes 8q to 8q + 7 (R252). -/
def quartersOf (m : W32) : BitVec 4 :=
  (upto 4).foldl (fun q k => if (m >>> (8 * k)).toNat % 256 = 255 then q ||| (1#4 <<< k) else q) 0

/-- The quarters of a set in ascending order. -/
def quarterList (q : BitVec 4) : List Nat := (upto 4).filter (fun k => q.getLsbD k)

/-- The slices a mask occupies: slice k holds lanes 4k to 4k + 3 (R108). -/
def slicesOf (m : W32) : List Nat := (upto 8).filter (fun k => decide ((m >>> (4 * k)).toNat % 16 ≠ 0))

/-- The i-th 16-bit element of a register's 64 (R158). -/
def elem16 (l : Lanes) (i : Nat) : W16 := (laneAt l (i / 2)).extractLsb' (16 * (i % 2)) 16

/-- A lane of two 16-bit elements, element 0 low (R93). -/
def pack16 (lo hi : W16) : W32 := hi ++ lo

/-- `sat_s(x, w)`: a value clipped to the signed w-bit range, and whether it was clipped (R41). -/
def satS (w : Nat) (x : Int) : Int × Bool :=
  if x < -(2 ^ (w - 1)) then (-(2 ^ (w - 1)), true)
  else if x > 2 ^ (w - 1) - 1 then (2 ^ (w - 1) - 1, true)
  else (x, false)

/-- `sat_u(x, w)`: a value clipped to the unsigned w-bit range, and whether it was clipped (R41). -/
def satU (w : Nat) (x : Int) : Int × Bool :=
  if x < 0 then (0, true) else if x > 2 ^ w - 1 then (2 ^ w - 1, true) else (x, false)

/-- `shr_round(x, n)`: an arithmetic right shift that rounds ties toward +∞ (R147). -/
def shrRound (x : Int) (n : Nat) : Int :=
  if n = 0 then x else (x + 2 ^ (n - 1)).fdiv (2 ^ n)

/-- `ceil(x / 64)` (R33). -/
def ceil64 (x : Nat) : Nat := (x + 63) / 64

/-- `ceil(x / 8)` (R27). -/
def ceil8 (x : Nat) : Nat := (x + 7) / 8

/-- The bytes of an access width (R45). -/
def Width.bytes : Width → Nat
  | .byte => 1 | .half => 2 | .word => 4 | .dword => 8

/-- The low `8n` bits of a value, extended with zeros (R41, R70). -/
def zextBytes (n : Nat) (x : Nat) : W64 := BitVec.ofNat 64 (x % 2 ^ (8 * n))

/-- The low `8n` bits of a value, extended with their sign (R41, R70). -/
def sextBytes (n : Nat) (x : Nat) : W64 := (BitVec.ofNat (8 * n) x).signExtend 64

/-- The address of a branch: PC + 4 × offset (R44). -/
def wordTarget {w : Nat} (pc : W64) (off : BitVec w) : W64 := trunc64 (pc.toInt + 4 * off.toInt)

/-- The number of zero bits above the highest 1 bit (R62). -/
def countLeadingZeros (x : W64) : Nat := 64 - (if x.toNat = 0 then 0 else Nat.log2 x.toNat + 1)

/-- The number of 1 bits (R62). -/
def countOnes (x : W64) : Nat := ((upto 64).filter (fun k => x.getLsbD k)).length

/-- A counter that stops at its largest value (R24). -/
def bumpStop (x : W32) : W32 := if x = BitVec.allOnes 32 then x else x + 1

end Sys2Proof.Machine
end

