-- ==== Sys2Proof/Machine/Number.lean ====
section
/-! DEFINITION. Number formats and exact arithmetic (R93 to R107, R151 to R153). A floating-point operand is read as an
exact value, the result is formed exactly, and it is rounded once (R98). -/

namespace Sys2Proof.Machine

/-- A floating-point format: exponent and fraction widths (R96). -/
structure Fmt where
  eb : Nat
  fb : Nat
  deriving DecidableEq, Repr

/-- FP32 (R96). -/
def fp32 : Fmt := ⟨8, 23⟩
/-- FP16 (R96). -/
def fp16 : Fmt := ⟨5, 10⟩
/-- BF16 (R96). -/
def bf16 : Fmt := ⟨8, 7⟩

/-- The format of a floating-point type; FP32 stands for the integer types, which have none. -/
def fmtOf : VType → Fmt
  | .bf16 => bf16
  | .f16 => fp16
  | .f32 | .i32 | .u32 => fp32

/-- The exponent bias of a format (R96). -/
def fmtBias (f : Fmt) : Int := 2 ^ (f.eb - 1) - 1

/-- The exponent of the last place of a format's subnormals (R96). -/
def fmtMin (f : Fmt) : Int := 1 - fmtBias f - f.fb

/-- A floating-point value: NaN, an infinity, or ± m × 2^e (R96). -/
inductive FVal where
  | nan
  | inf (neg : Bool)
  | fin (neg : Bool) (m : Nat) (e : Int)
  deriving DecidableEq, Repr

/-- The value a bit pattern encodes (R96). -/
def fDecode (f : Fmt) (bits : Nat) : FVal :=
  let frac := bits % 2 ^ f.fb
  let ex := bits / 2 ^ f.fb % 2 ^ f.eb
  let neg := decide (bits / 2 ^ (f.fb + f.eb) % 2 = 1)
  if ex = 2 ^ f.eb - 1 then (if frac = 0 then .inf neg else .nan)
  else if ex = 0 then .fin neg frac (fmtMin f)
  else .fin neg (frac + 2 ^ f.fb) (ex - fmtBias f - f.fb)

/-- The sign bit of a format (R96). -/
def fSign (f : Fmt) (neg : Bool) : Nat := if neg then 2 ^ (f.fb + f.eb) else 0

/-- The canonical NaN of a format (R96, R97). -/
def fNan (f : Fmt) : Nat := (2 ^ f.eb - 1) * 2 ^ f.fb + 2 ^ (f.fb - 1)

/-- An infinity of a format (R96). -/
def fInf (f : Fmt) (neg : Bool) : Nat := fSign f neg + (2 ^ f.eb - 1) * 2 ^ f.fb

/-- The largest finite value of a format, with a sign (R96). -/
def fMax (f : Fmt) (neg : Bool) : Nat := fSign f neg + (2 ^ f.eb - 1) * 2 ^ f.fb - 1

/-- A zero of a format (R96). -/
def fZero (f : Fmt) (neg : Bool) : Nat := fSign f neg

/-- The rounding modes of `fcr` (R24, R98). -/
inductive RMode where
  | nearest | zero | up | down
  deriving DecidableEq, Repr

/-- The mode an `fcr` value selects (R24). -/
def RMode.of (x : BitVec 2) : RMode :=
  if x = 0 then .nearest else if x = 1 then .zero else if x = 2 then .up else .down

/-- The number of bits of a number. -/
def bitLen (m : Nat) : Nat := if m = 0 then 0 else Nat.log2 m + 1

/-- What a value too large for its format becomes (R98). -/
def fOverflow (f : Fmt) (mode : RMode) (neg : Bool) : Nat :=
  match mode, neg with
  | .nearest, _ => fInf f neg
  | .zero, _ => fMax f neg
  | .up, false => fInf f neg
  | .up, true => fMax f neg
  | .down, false => fMax f neg
  | .down, true => fInf f neg

/-- Whether the magnitude rounds up, from the quotient's last bit and how the rest compares with a half (R98). -/
def roundsUp (mode : RMode) (neg odd inexact : Bool) (rest half : Nat) (sticky : Bool) : Bool :=
  match mode with
  | .nearest => decide (half < rest) || (decide (half = rest) && (sticky || odd))
  | .zero => false
  | .up => inexact && !neg
  | .down => inexact && neg

/-- `round(x, f)` (R98) of the value ± m × 2^e, or, when `sticky`, of a value strictly between m × 2^e and
(m + 1) × 2^e in magnitude, m then having at least two bits more than the result. -/
def fRound (f : Fmt) (mode : RMode) (neg : Bool) (m : Nat) (e : Int) (sticky : Bool) : Nat :=
  if m = 0 && !sticky then fZero f neg
  else
    let q := max (fmtMin f) (e + bitLen m - (f.fb + 1))
    let sh := (q - e).toNat
    let t := if q ≤ e then m * 2 ^ (e - q).toNat else m / 2 ^ sh
    let rest := if q ≤ e then 0 else m % 2 ^ sh
    let half := if q ≤ e then 1 else 2 ^ (sh - 1)
    let up := roundsUp mode neg (decide (t % 2 = 1)) (decide (rest ≠ 0) || sticky) rest half sticky
    let t' := if up then t + 1 else t
    let carry := decide (2 ^ (f.fb + 1) ≤ t')
    let t'' := if carry then 2 ^ f.fb else t'
    let q' := if carry then q + 1 else q
    if t'' < 2 ^ f.fb then fSign f neg + t''
    else
      let ex := (q' + f.fb + fmtBias f).toNat
      if 2 ^ f.eb - 1 ≤ ex then fOverflow f mode neg
      else fSign f neg + ex * 2 ^ f.fb + (t'' - 2 ^ f.fb)

/-- `round` of a signed exact value n × 2^e that is not zero. -/
def fRoundInt (f : Fmt) (mode : RMode) (n : Int) (e : Int) : Nat := fRound f mode (decide (n < 0)) n.natAbs e false

/-- The sign of an exact zero sum (R97): that of both terms when they agree, else + but under mode 3. -/
def zeroSumNeg (mode : RMode) (n1 n2 : Bool) : Bool := if n1 = n2 then n1 else decide (mode = .down)

/-- The signed mantissa of a finite value. -/
def signedMant (neg : Bool) (m : Nat) : Int := if neg then -(m : Int) else m

/-- `round(x + y, f)` of two values (R97, R98). -/
def fAddVal (f : Fmt) (mode : RMode) : FVal → FVal → Nat
  | .nan, _ => fNan f
  | _, .nan => fNan f
  | .inf a, .inf b => if a = b then fInf f a else fNan f
  | .inf a, .fin _ _ _ => fInf f a
  | .fin _ _ _, .inf b => fInf f b
  | .fin n1 m1 e1, .fin n2 m2 e2 =>
    let e := min e1 e2
    let n := signedMant n1 m1 * 2 ^ (e1 - e).toNat + signedMant n2 m2 * 2 ^ (e2 - e).toNat
    if n = 0 then fZero f (zeroSumNeg mode n1 n2) else fRoundInt f mode n e

/-- The exact product of two values. -/
def fMulExact : FVal → FVal → FVal
  | .nan, _ => .nan
  | _, .nan => .nan
  | .inf a, .inf b => .inf (a != b)
  | .inf a, .fin b m _ => if m = 0 then .nan else .inf (a != b)
  | .fin a m _, .inf b => if m = 0 then .nan else .inf (a != b)
  | .fin a m1 e1, .fin b m2 e2 => .fin (a != b) (m1 * m2) (e1 + e2)

/-- A value rounded to a format (R98, R99). -/
def fRoundVal (f : Fmt) (mode : RMode) : FVal → Nat
  | .nan => fNan f
  | .inf a => fInf f a
  | .fin a m e => fRound f mode a m e false

/-- The value with its sign inverted. -/
def fNegVal : FVal → FVal
  | .nan => .nan
  | .inf a => .inf (!a)
  | .fin a m e => .fin (!a) m e

/-- VADD, VSUB, VMUL and VFMA on bit patterns of a format (R144, R104). -/
def fAdd (f : Fmt) (mode : RMode) (x y : Nat) : Nat := fAddVal f mode (fDecode f x) (fDecode f y)
/-- `round(x − y, f)`. -/
def fSub (f : Fmt) (mode : RMode) (x y : Nat) : Nat := fAddVal f mode (fDecode f x) (fNegVal (fDecode f y))
/-- `round(x × y, f)`. -/
def fMul (f : Fmt) (mode : RMode) (x y : Nat) : Nat := fRoundVal f mode (fMulExact (fDecode f x) (fDecode f y))
/-- `round(x × y + c, f)`, rounded once. -/
def fFma (f : Fmt) (mode : RMode) (x y c : Nat) : Nat :=
  fAddVal f mode (fMulExact (fDecode f x) (fDecode f y)) (fDecode f c)

/-- The order of two values that are not NaN, zeros of both signs being equal: less, equal, greater (R97). -/
def fOrder : FVal → FVal → Ordering
  | .inf a, .inf b => compare (b2n b) (b2n a)
  | .inf a, _ => if a then .lt else .gt
  | _, .inf b => if b then .gt else .lt
  | .fin n1 m1 e1, .fin n2 m2 e2 =>
    let e := min e1 e2
    compare (signedMant n1 m1 * 2 ^ (e1 - e).toNat) (signedMant n2 m2 * 2 ^ (e2 - e).toNat)
  | .nan, _ => .eq
  | _, .nan => .eq

/-- Whether a value is negative in sign. -/
def fIsNeg : FVal → Bool
  | .nan => false
  | .inf a => a
  | .fin a _ _ => a

/-- The condition of VCMP on two bit patterns; a NaN makes every condition false but ne (R97, R154). -/
def fCond (f : Fmt) (c : VCond) (x y : Nat) : Bool :=
  match fDecode f x, fDecode f y with
  | .nan, _ => decide (c = .ne)
  | _, .nan => decide (c = .ne)
  | u, v =>
    let o := fOrder u v
    match c with
    | .eq => o == .eq
    | .ne => o != .eq
    | .lt => o == .lt
    | .ge => o != .lt
    | .le => o != .gt
    | .gt => o == .gt

/-- Whether x comes before y for VMIN and VMAX, −0 standing before +0 (R97). -/
def fBefore (u v : FVal) : Bool :=
  match fOrder u v with
  | .lt => true
  | .gt => false
  | .eq => fIsNeg u && !fIsNeg v

/-- VMIN and VMAX on bit patterns (R97, R144). -/
def fMinMax (f : Fmt) (isMax : Bool) (x y : Nat) : Nat :=
  match fDecode f x, fDecode f y with
  | .nan, .nan => fNan f
  | .nan, _ => y
  | _, .nan => x
  | u, v => if isMax then (if fBefore u v then y else x) else (if fBefore v u then y else x)

/-- VABS and VNEG on a bit pattern: the sign bit alone, a NaN becoming canonical (R145). -/
def fAbsNeg (f : Fmt) (isNeg : Bool) (x : Nat) : Nat :=
  match fDecode f x with
  | .nan => fNan f
  | _ =>
    let sign := 2 ^ (f.fb + f.eb)
    let mag := x % sign
    if isNeg then (if x / sign % 2 = 1 then mag else mag + sign) else mag

/-- A value rounded to an integer under a mode (R99). -/
def fToInt (mode : RMode) (neg : Bool) (m : Nat) (e : Int) : Int :=
  if 0 ≤ e then signedMant neg (m * 2 ^ e.toNat)
  else
    let sh := (-e).toNat
    let t := m / 2 ^ sh
    let rest := m % 2 ^ sh
    let up := roundsUp mode neg (decide (t % 2 = 1)) (decide (rest ≠ 0)) rest (2 ^ (sh - 1)) false
    signedMant neg (if up then t + 1 else t)

/-- The pattern of a lane as a number, by the type's width: .bf16 and .f16 ignore bits [31:16] (R93). -/
def typeBits (t : VType) (x : W32) : Nat :=
  match t with
  | .bf16 | .f16 => x.toNat % 2 ^ 16
  | .i32 | .u32 | .f32 => x.toNat

/-- A conversion to an integer type, with whether it clips (R94, R99). -/
def clipTo (dt : VType) (x : Int) : W32 × Bool :=
  let r := if dt = .u32 then satU 32 x else satS 32 x
  (trunc32 r.1, r.2)

/-- VCVT of one lane, with whether it clips (R99, R151). -/
def convert (mode : RMode) (dt st : VType) (x : W32) : W32 × Bool :=
  match st with
  | .i32 | .u32 =>
    let n : Int := if st = .i32 then x.toInt else x.toNat
    if dt.isFloat then (if n = 0 then 0 else BitVec.ofNat 32 (fRoundInt (fmtOf dt) mode n 0), false) else clipTo dt n
  | .f32 | .bf16 | .f16 =>
    let v := fDecode (fmtOf st) (typeBits st x)
    if dt.isFloat then (BitVec.ofNat 32 (fRoundVal (fmtOf dt) mode v), false)
    else match v with
      | .nan => (0, true)
      | .inf neg => clipTo dt (if neg then -(2 ^ 40) else 2 ^ 40)
      | .fin neg m e => clipTo dt (fToInt mode neg m e)

/-- The integer square root of a number below 4^b, bit by bit. -/
def isqrtBits : Nat → Nat → Nat → Nat
  | 0, _, r => r
  | b + 1, n, r => if (r + 2 ^ b) * (r + 2 ^ b) ≤ n then isqrtBits b n (r + 2 ^ b) else isqrtBits b n r

/-- The integer square root of a number. -/
def isqrt (n : Nat) : Nat := isqrtBits (bitLen n / 2 + 1) n 0

/-- VRCP of a pattern (R152, R153): 1/x rounded once. -/
def fRcp (mode : RMode) (x : Nat) : Nat :=
  match fDecode fp32 x with
  | .nan => fNan fp32
  | .inf neg => fZero fp32 neg
  | .fin neg m e =>
    if m = 0 then fInf fp32 neg
    else
      let k : Nat := 96
      fRound fp32 mode neg (2 ^ k / m) (-e - (k : Int)) (decide (2 ^ k % m ≠ 0))

/-- VRSQ of a pattern (R152, R153): 1/√x rounded once. -/
def fRsq (mode : RMode) (x : Nat) : Nat :=
  match fDecode fp32 x with
  | .nan => fNan fp32
  | .inf neg => if neg then fNan fp32 else fZero fp32 false
  | .fin neg m e =>
    if m = 0 then fInf fp32 neg
    else if neg then fNan fp32
    else
      let odd := decide (e % 2 ≠ 0)
      let m' := if odd then 2 * m else m
      let e' := if odd then e - 1 else e
      let k : Nat := 80
      let q := isqrt (2 ^ (2 * k) / m')
      fRound fp32 mode false q (-(e' / 2) - (k : Int)) (decide (q * q * m' ≠ 2 ^ (2 * k)))

/-- Fraction bits kept while 2^f is formed. -/
def expBits : Nat := 160

/-- 2^f for a fraction given by its bits, highest first: the product of the roots 2^(1/2), 2^(1/4), … of its 1 bits.
Every step drops less than one unit of the last of `expBits` places. -/
def expFrac : List Bool → Nat → Nat → Nat
  | [], _, acc => acc
  | b :: bs, root, acc =>
    expFrac bs (isqrt (root * 2 ^ expBits)) (if b then acc * root / 2 ^ expBits else acc)

/-- The k bits below the point of the fraction fr / 2^k, highest first. -/
def fracBits (fr : Nat) : Nat → List Bool
  | 0 => []
  | k + 1 => decide (fr / 2 ^ k % 2 = 1) :: fracBits fr k

/-- VEXP2 of a pattern (R152, R153): 2^x rounded once. PRESUMED (log entry 18): no FP32 operand has a 2^x within
2^−100 of a rounding boundary, so that 144 bits of it decide. -/
def fExp2 (mode : RMode) (x : Nat) : Nat :=
  match fDecode fp32 x with
  | .nan => fNan fp32
  | .inf neg => if neg then fZero fp32 false else fInf fp32 false
  | .fin neg m e =>
    if m = 0 then fRound fp32 mode false 1 0 false
    else if 0 ≤ e then
      -- an integer of at least 2^23 in magnitude, or larger
      let n := signedMant neg (m * 2 ^ (min e 10).toNat)
      if n < -1000 then fRound fp32 mode false (2 ^ 64) (-1000) true else fRound fp32 mode false 1 (min n 1000) false
    else
      let k := (-e).toNat
      let n := (signedMant neg m).fdiv (2 ^ k)
      let fr := ((signedMant neg m) - n * 2 ^ k).toNat
      if n < -1000 then fRound fp32 mode false (2 ^ 64) (-1000) true
      else if 1000 < n then fRound fp32 mode false 1 1000 false
      else if fr = 0 then fRound fp32 mode false 1 n false
      else if 64 < k then
        -- below 2^−40 in magnitude: the result lies next to 1
        if neg then fRound fp32 mode false (2 ^ 64 - 1) (-64) true else fRound fp32 mode false (2 ^ 64) (-64) true
      else
        let r := expFrac (fracBits fr k) (isqrt (2 * 2 ^ (2 * expBits))) (2 ^ expBits)
        fRound fp32 mode false (r / 2 ^ 16) (n - expBits + 16) true

/-- Fraction bits kept while a logarithm is formed. -/
def logBits : Nat := 320

/-- The binary digits of log2(M) for 1 ≤ M < 2, M having `logBits` places: square, and take a digit 1 when the square
reaches 2. -/
def logDigits : Nat → Nat → Nat → Nat
  | 0, _, acc => acc
  | k + 1, mant, acc =>
    let sq := mant * mant / 2 ^ logBits
    if 2 ^ (logBits + 1) ≤ sq then logDigits k (sq / 2) (2 * acc + 1) else logDigits k sq (2 * acc)

/-- VLOG2 of a pattern (R152, R153): log2(x) rounded once. PRESUMED (log entry 18): as for VEXP2. -/
def fLog2 (mode : RMode) (x : Nat) : Nat :=
  match fDecode fp32 x with
  | .nan => fNan fp32
  | .inf neg => if neg then fNan fp32 else fInf fp32 false
  | .fin neg m e =>
    if m = 0 then fInf fp32 true
    else if neg then fNan fp32
    else
      let top := bitLen m - 1
      let ex := e + top
      if m = 2 ^ top then (if ex = 0 then fZero fp32 false else fRoundInt fp32 mode ex 0)
      else
        let t : Int := ex * 2 ^ 128 + logDigits 128 (m * 2 ^ (logBits - top)) 0
        if 0 ≤ t then fRound fp32 mode false t.toNat (-128) true
        else fRound fp32 mode true (t.natAbs - 1) (-128) true

/-- A mantissa of a block: w bits at element i of the 32w-bit number after the exponent byte (R100). -/
def blockMant (w : Nat) (bits : Nat) (i : Nat) : Int :=
  (BitVec.ofNat w (bits / 2 ^ (w * i))).toInt

/-- The exponent of a block in memory form (R100). -/
def blockExp (bs : List Byte) : Int := (bs.headD 0).toInt

/-- The exact dot product of two blocks; a block of exponent −128 is all zero (R101, R105). -/
def blockDot (aw bw : Nat) (a b : List Byte) : Int :=
  if blockExp a = -128 || blockExp b = -128 then 0
  else
    let x := leNat ((a.drop 1).take (4 * aw))
    let y := leNat ((b.drop 1).take (4 * bw))
    (upto 32).foldl (fun p i => p + blockMant aw x i * blockMant bw y i) 0

/-- acc := round(acc + x, FP32) under mode 0 (R105, R106). -/
def accAdd (acc x : Nat) : Nat := fAdd fp32 .nearest acc x

/-- One step of the block path: the converted dot product added to the accumulator (R105). -/
def blockStep (aw bw : Nat) (a b : List Byte) (acc : Nat) : Nat :=
  let p := blockDot aw bw a b
  let s := blockExp a + blockExp b - (aw - 2) - (bw - 2)
  accAdd acc (if p = 0 then 0 else fRoundInt fp32 .nearest p s)

/-- An operand of the BF16 and FP16 path: a BF16 subnormal becomes a zero of its sign (R106). -/
def arrayOperand (isBf : Bool) (bits : Nat) : FVal :=
  if isBf then
    match fDecode bf16 bits with
    | .fin neg m e => if m < 2 ^ 7 then .fin neg 0 e else .fin neg m e
    | v => v
  else fDecode fp16 bits

/-- The sum of a group of products rounded once: NaN and infinities first, else the exact sum (R106). -/
def groupSum (ps : List FVal) : Nat :=
  if ps.any (fun p => decide (p = .nan)) then fNan fp32
  else
    let pos := ps.any (fun p => decide (p = .inf false))
    let neg := ps.any (fun p => decide (p = .inf true))
    if pos && neg then fNan fp32
    else if pos then fInf fp32 false
    else if neg then fInf fp32 true
    else
      -- every exponent of a product of BF16 or FP16 values is at least −300
      let n := ps.foldl (fun acc p => match p with
        | .fin a m e => acc + signedMant a (m * 2 ^ (e + 300).toNat)
        | _ => acc) (0 : Int)
      if n = 0 then 0 else fRoundInt fp32 .nearest n (-300)

/-- The 16-bit element k of a K row (R253). -/
def rowElem (row : List Byte) (k : Nat) : Nat := leNat ((row.drop (2 * k)).take 2)

/-- The dot product of a row of A and a column of B in kinds 0 and 1, added to an accumulator element: six groups of
eight (R106, R253). -/
def dotFloat (isBf : Bool) (a b : List Byte) (acc : Nat) : Nat :=
  (upto 6).foldl (fun r j =>
    accAdd r (groupSum ((upto 8).map (fun i =>
      fMulExact (arrayOperand isBf (rowElem a (8 * j + i))) (arrayOperand isBf (rowElem b (8 * j + i))))))) acc

/-- The number of blocks of a K row (R253). -/
def blockCount (aw bw : Nat) : Nat := 96 / (1 + 4 * max aw bw)

/-- The dot product of a row and a column in kind 2 (R105, R253). -/
def dotBlock (aw bw : Nat) (a b : List Byte) (acc : Nat) : Nat :=
  (upto (blockCount aw bw)).foldl (fun r j =>
    blockStep aw bw (a.drop ((1 + 4 * aw) * j)) (b.drop ((1 + 4 * bw) * j)) r) acc

/-- The kind of a format word (R102). -/
def mfrKind (m : W16) : Nat := m.toNat % 16
/-- The mantissa width of A (R102). -/
def mfrAw (m : W16) : Nat := m.toNat / 16 % 16
/-- The mantissa width of B (R102). -/
def mfrBw (m : W16) : Nat := m.toNat / 256 % 16

/-- Whether a format word is valid for MM and MMM (R103). -/
def mfrValid (m : W16) : Bool :=
  if mfrKind m ≤ 1 then decide (m.toNat / 16 = 0)
  else if mfrKind m = 2 then
    decide (2 ≤ mfrAw m) && decide (mfrAw m ≤ 8) && decide (2 ≤ mfrBw m) && decide (mfrBw m ≤ 8) &&
    decide (m.toNat / 2 ^ 12 % 4 = 0) && decide (m.toNat / 2 ^ 14 = 1)
  else false

/-- The dot product an element of the accumulator takes, by the format word (R253). -/
def dotProduct (m : W16) (a b : List Byte) (acc : W32) : W32 :=
  BitVec.ofNat 32 (
    if mfrKind m = 2 then dotBlock (mfrAw m) (mfrBw m) a b acc.toNat
    else dotFloat (decide (mfrKind m = 0)) a b acc.toNat)

end Sys2Proof.Machine
end

