-- ==== Sys2Proof/Config.lean ====
section
/-! DEFINITION. What the part fixes (its sizes, from R3, R4, R33 to R341) and the free values: what the spec leaves
open. A free value is opaque: no proof can see what it is. -/

namespace Sys2Proof.Config

/-- Cores (R5). -/
def cores : Nat := 384
/-- Group slots of a core (R109). -/
def slots : Nat := 48
/-- Vector granules of a core (R27). -/
def vectorGranules : Nat := 512
/-- Scalar granules of a core (R27, R78). -/
def scalarGranules : Nat := 1024
/-- Tiles of a core's tile file (R4). -/
def tiles : Nat := 64
/-- Accumulators of a core's accumulator file (R4). -/
def accumulators : Nat := 128
/-- The allowance that marks an unmetered task (R31 to R34). -/
def unmetered : Nat := 0xFFFFFFFFFFFF
/-- The largest metered allowance (R178). -/
def maxMetered : Nat := 0xFFFFFFFFFFFE
/-- Slots of the pending-launch pool (R168). -/
def poolSlots : Nat := 16384
/-- Resident tasks of a Wellspring (R173). -/
def residentTasks : Nat := 64
/-- Outstanding memory requests of a core (R4). -/
def requests : Nat := 8192
/-- Blocks of 256 bytes that a core's instruction cache of 128 KiB holds (R4, R92). -/
def icacheLines : Nat := 512
/-- Operations a copy engine takes (R265). -/
def copyOps : Nat := 64
/-- Entries of a die's Tarn (R227). -/
def tarnEntries : Nat := 16384
/-- Cycles after which a BUSY access is presented again (R227). -/
def tarnRetry : Nat := 512
/-- Cycles an ENQ waits (R273). -/
def enqDeadline : Nat := 4096
/-- Cycles after which a save is forced (R293). -/
def forcedSave : Nat := 65536
/-- Cycles without a grant after which the escape spill engine acts (R286). -/
def escapeWait : Nat := 4096
/-- Cycles after which no request passes a refill (R288). -/
def refillWait : Nat := 65536
/-- Issue opportunities between rotations (R125). -/
def rotation : Nat := 1024
/-- Cycles a group keeps a place of the active set (R134). -/
def activeHold : Nat := 32
/-- Places of a side's active set (R109). -/
def activePlaces : Nat := 8
/-- Live sweeps (R192). -/
def sweeps : Nat := 64
/-- Physical base and end of the range that firmware keeps (R341). -/
def reservedBase : Nat := 0x01F000000000
/-- One past the last byte of the range that firmware keeps, and of device memory (R198, R341). -/
def reservedEnd : Nat := 0x020000000000
/-- Physical base of host memory (R198). -/
def hostBase : Nat := 0x8000000000000
/-- Physical base of the Mere map (R198). -/
def mereBase : Nat := 0xF000000000000
/-- Virtual base of the Mere alias (R199). -/
def mereAlias : Nat := 0xF0000000000000
/-- Virtual base of the Helas alias (R320). -/
def helasAlias : Nat := 0xF1000000000000
/-- DESIGN CHOICE (log entry 7): the virtual address, in every ASID, of slot 0 of the pending-launch pool. -/
def poolBase : Nat := 0xEF000000000000

/-- FREE (log entry 3): the n-th choice among `k` steps that independent agents may take next, where the spec gives
no order (R2, R172, R326). -/
opaque pick : Nat → Nat → Nat
/-- FREE (log entry 8): the n-th choice among `k` free slots of the pool (R168). -/
opaque poolPick : Nat → Nat → Nat
/-- FREE (log entry 8): which storage elements of a core the model's numbers 0, 1, … stand for: element n of kind k
(0 vector granules, 1 tiles, 2 accumulators) is the model's number n + storePick core k, modulo the file's size (R78,
R248). -/
opaque storePick : Nat → Nat → Nat
/-- FREE (log entry 10): which of the units of the n-th cancelled copy were written (R271). -/
opaque copiedUnit : Nat → Nat → Bool
/-- FREE (log entry 11): places of the fault ring (R212), which firmware gives. -/
opaque faultRingPlaces : Nat
/-- FREE (log entry 12): the raw counter signals that show timing only, 15 and 20 to 23 of R311, in a cycle of a core. -/
opaque timingSignals : Nat → Nat → BitVec 64
/-- FREE (log entry 13): a byte of another device's memory that a copy reads through port p (R320), at a cycle. -/
opaque helasByte : Nat → Nat → Nat → BitVec 8
/-- FREE (log entry 14): byte k of the digest of the device's ROM (R338). -/
opaque romDigest : Nat → BitVec 8
/-- FREE (log entry 14): byte k of the digest of the device's configuration (R338). -/
opaque configDigest : Nat → BitVec 8
/-- FREE (log entry 14): the signature of an attestation report, byte k of the report for a nonce (R338). -/
opaque attestByte : Nat → Nat → BitVec 8
/-- FREE (log entry 14): the length in bytes of an attestation signature for a nonce (R334, R338). -/
opaque attestLength : Nat → Nat
/-- FREE (log entry 15): the order in which the lanes of the n-th VAMO apply their steps, as a rank of each lane
(R223). -/
opaque vamoRank : Nat → Nat → Nat
/-- FREE (log entry 15): within how many cycles of its issue every store is performed (R234: within finite time). -/
opaque storeBound : Nat
/-- FREE (log entry 16): the content of a vector granule, tile or accumulator that no group holds, as the physical
view of the Mere map reads it (R201): core, offset, and the count of free choices made. -/
opaque looseByte : Nat → Nat → Nat → BitVec 8
/-- FREE (log entry 17): the virtual addresses of the save image of a task and of a group's spill areas (R293,
R341), by task or group number. -/
opaque imageAddress : Nat → Nat

/-- FREE (log entry 2): the count of the hub's clock, by the model's tick (R9, R212, R325). -/
opaque hubClock : Nat → BitVec 64
/-- FREE (log entry 19): what a field of units holds after a sum that it cannot hold (R181, R185, R187). -/
opaque overflowUnits : Nat → Nat

/-- FREE (log entry 23): which of a core's stores not yet performed have left the core when it resets (R284). -/
opaque leftCore : Nat → Nat → Bool

end Sys2Proof.Config
end

