-- ==== Sys2Proof/Machine/State.lean ====
section
/-! DEFINITION. The state of the device as plain data, its value after reset, and the reasons a step can stop.
Sparse parts (registers of a class, frames, groups, cores, tasks) are tables by number; what a missing entry stands for
is said at the table's reader in Machine/Ops.lean. -/

namespace Sys2Proof.Machine

/-- A register as a source, a destination or the target of a pending write. A quarter of an accumulator has a
reference of its own (R254). -/
inductive RegRef where
  | s (n : Nat)
  | v (n : Nat)
  | p (n : Nat)
  | t (n : Nat)
  | a (n quarter : Nat)
  deriving DecidableEq, Repr

/-- A vector register: 32 lanes and the poison of each lane (R20, R143, R352). -/
structure VReg where
  lanes  : Lanes
  poison : W32
  deriving DecidableEq, Repr

/-- A scalar and its poison (R143). -/
structure SReg where
  val    : W64
  poison : Bool
  deriving DecidableEq, Repr

/-- A predicate and its poison (R143). -/
structure PReg where
  val    : W32
  poison : Bool
  deriving DecidableEq, Repr

/-- A tile: its element of the core's tile file, its 1,536 bytes, and the poison of its 24 units (R249, R143). -/
structure Tile where
  elem   : Nat
  bytes  : List Byte
  poison : BitVec 24
  deriving DecidableEq, Repr

/-- An accumulator: its element of the core's accumulator file, its 256 FP32 values row by row, and the poison of its
quarters (R251, R143). -/
structure Acc where
  elem   : Nat
  vals   : List W32
  poison : BitVec 4
  deriving DecidableEq, Repr

/-- A frame (R27, R79): its vector granules, return PC, link to the caller's granule, depth, mark generation, and its
registers v0 to v119 and s32 to s63. The frame's own scalar granule is its key. -/
structure Frame where
  grans   : List Nat
  retPc   : W64
  link    : Option Nat
  depth   : Nat
  markGen : BitVec 8
  v       : Table VReg
  s       : Table SReg
  deriving DecidableEq, Repr

/-- The states of a split entry (R114). -/
inductive SplitState where
  | ready | meet | frame | parked | waitc | frozen
  deriving DecidableEq, Repr

/-- One lane's part of a memory access, its operands read at issue (R59). -/
structure LaneReq where
  lane : Nat
  va   : W64
  x    : W64
  y    : W64
  deriving DecidableEq, Repr

/-- A memory access as issued: its instruction, the bytes of each lane, the frame and generation its result is for. -/
structure Access where
  instr : Instr
  n     : Nat
  reqs  : List LaneReq
  frame : Nat
  gen   : BitVec 8
  /-- what its issue debited (R31, R35) -/
  cost  : Nat
  deriving DecidableEq, Repr

/-- What a split in state parked, frame or waitc waits for (R114, R211, R226, R138, R273, R185, R181). -/
inductive Wait where
  | none
  /-- outstanding fault records of an access; `paid` retries follow the last reply (R211) -/
  | faults (records : Nat) (acc : Access)
  /-- outstanding fault records of an instruction fetch (R211) -/
  | fetch (records : Nat)
  /-- a TOUCH whose record waits for a place of the ring (R214) -/
  | touch
  /-- an entry of the Tarn (R226) -/
  | tarn (acc : Access)
  /-- no free Tarn entry: presented again at a cycle (R227) -/
  | busy (acc : Access) (retryAt : Nat)
  /-- an FLD or FTAKE applied, its data not yet written (R226) -/
  | data
  /-- a PUSH with the register as read at issue (R138, R272) -/
  | push (chan : Nat) (v : VReg)
  /-- a POP (R138) -/
  | pop (chan d : Nat)
  /-- an ENQ: destination, block, packet image, deadline, and whether it waits on the tail word or a slot word -/
  | enq (d : Nat) (block image : W64) (deadline : Nat) (onTail : Bool)
  /-- a JOIN, with its destination and the cycle in which it came (R172, R185) -/
  | join (d arrived : Nat)
  /-- a GRANT or CANCEL whose result is not written, with its destination (R181, R183) -/
  | wellspring (d : Nat)
  /-- a frame request (R81) -/
  | frame
  /-- WAITC limits (R89) -/
  | waitc (loads stores copies matrix : Nat)
  deriving DecidableEq, Repr

/-- Where a split stopped for a pre-emption request (R289, R190, R292). -/
inductive SafeStop where
  | no
  | safe (index : Nat)
  | yield
  deriving DecidableEq, Repr

/-- A split entry (R114), with the model's record of what it waits for. -/
structure Split where
  /-- the next PC; the spec's entry holds bits [55:0] (R18, R114) -/
  pc        : W64
  mask      : W32
  origin    : Nat
  frame     : Nat
  state     : SplitState
  /-- the MEET at which it waits, and the count of R120: `mrem` cycles were left at cycle `mfrom` -/
  meet      : W64
  mrem      : Nat
  mfrom     : Nat
  ptop      : Nat
  /-- the cycle of its last issue, 0 when it has not issued since it was created, refilled or restored (R132) -/
  lastIssue : Nat
  /-- what was debited already for the instruction at `pc` (R31, R35) -/
  paid      : Option Nat
  wait      : Wait
  /-- member of the handler set (R277) -/
  inHandler : Bool
  /-- where its last trap entry delivered control, while it has issued nothing since (R37) -/
  entry     : Option W64
  stop      : SafeStop
  /-- its fetch missed the instruction cache and the line has not come (R130) -/
  missing   : Bool
  deriving DecidableEq, Repr

/-- A matrix fault waiting for delivery (R258). -/
structure MatFault where
  /-- the operation's serial number -/
  serial  : Nat
  acc     : Nat
  quarter : Nat
  cause   : Nat
  tval    : W64
  deriving DecidableEq, Repr

/-- A group (R110): its task, its registers and special registers (R20, R24), split table (R114, R115), origins
(R116), frames (R127), pennant stack (R302) and the state of handler mode (R276). Its slot is its key. -/
structure Group where
  task    : Nat
  gid     : Nat
  stg     : Nat
  s       : Table SReg
  v       : Table VReg
  p       : Table PReg
  tiles   : Table Tile
  accs    : Table Acc
  sat     : Bool
  mfr     : W16
  fcr     : BitVec 2
  tvb     : W64
  tca     : BitVec 4
  tpc     : W64
  tval    : W64
  mb      : W16
  dual    : Bool
  stale   : W32
  slip    : W32
  frames  : Table Frame
  /-- its frames are in its frame spill area, and hold no granule (R287) -/
  out     : Bool
  /-- a victim of the escape spill engine whose splits have stopped and whose frames are not yet written (R287) -/
  leaving : Bool
  /-- a record of kind 5 or 6 on one of its spill areas stands: every split counts as parked (R126, R287) -/
  stall   : Bool
  /-- restored with entries that its spill areas keep, and the moves there still to be made (R126, R297, R303) -/
  due     : Bool
  /-- the first cycle in which the next refill of its split table may take place (R124) -/
  refillAt : Nat
  /-- resident entries, oldest first (R122) -/
  splits  : List Split
  /-- spilled entries, oldest spill first, and the place of the first (R115) -/
  spilled : List Split
  head    : Nat
  /-- issue opportunities without a refill (R125) -/
  opps    : Nat
  /-- live origins other than 0, with their parents (R115) -/
  origins : Table Nat
  pennants : Table (BitVec 24)
  /-- in handler mode (R276) -/
  handler : Bool
  mfaults : List MatFault
  /-- halted by a debug stop (R315), and a halt that stands for its next edge -/
  halted  : Bool
  haltReq : Bool
  /-- the cycle of its last issue (R131) -/
  lastIssue : Nat
  deriving DecidableEq, Repr

/-- The group and task an operation belongs to, which it keeps after the group has ended (R90, R212). -/
structure Who where
  slot : Nat
  ggen : BitVec 8
  gid  : Nat
  task : Nat
  ctx  : Nat
  asid : Nat
  lane : Nat
  mask : W32
  pennants : List (BitVec 24)
  deriving DecidableEq, Repr

/-- A load-class operation outstanding (R60, R90): its destination, the frame and generation it is for, the values by
lane (read from memory when it issued), the p15 bits it sets and clears, and the poison it returns (R281). -/
structure LoadOp where
  who    : Who
  dst    : Option RegRef
  frame  : Nat
  gen    : BitVec 8
  lanes  : List (Nat × W64)
  set    : W32
  clear  : W32
  poison : Option W64
  /-- a poisoned return that has arrived and is not delivered (R281) -/
  arrived : Bool
  /-- the lane of the split it holds (R226) -/
  wake   : Option Nat
  deriving DecidableEq, Repr

/-- A store not yet performed (R234): its bytes by physical address, and the epoch that a release ends (R229). -/
structure StoreOp where
  who   : Who
  cells : List (Nat × Byte)
  epoch : Nat
  /-- the model's cycle of its issue (R234) -/
  since : Nat
  deriving DecidableEq, Repr

/-- A release marker in the switch (R243, R244): who released, and its number among the core's markers. It completes
once no store of an earlier epoch is outstanding. `cover` names what its split has since merged or fused into: the merged
mask, and the model's cycle from which its stores follow the marker (R240). -/
structure Marker where
  who    : Who
  number : Nat
  cover  : List (W32 × Nat)
  deriving DecidableEq, Repr

/-- One row of a copy (R266, R267). -/
structure CopyRow where
  dst : W64
  src : W64
  len : Nat
  deriving DecidableEq, Repr

/-- A copy outstanding in a core's engine (R265 to R271). -/
structure CopyOp where
  who     : Who
  /-- its number, which no other operation shares -/
  serial  : Nat
  token   : Nat
  frame   : Nat
  gen     : BitVec 8
  rows    : List CopyRow
  len     : Nat
  cost    : Nat
  /-- fault records outstanding (R268) -/
  records : Nat
  /-- its task unwinds (R271) -/
  cancelled : Bool
  /-- its token goes to a saved or spilled image of its register (R270, R287) -/
  imaged  : Bool
  /-- the sweep tile in which it issued, and whether it is a copy-out (R307) -/
  tile    : Option Nat
  copyOut : Bool
  deriving DecidableEq, Repr

/-- The kinds of matrix operation, which all write after their issue (R90, R260, R261, R263, R264). -/
inductive MatKind where
  | mm | mmm | tld | aclr | aget | aput
  deriving DecidableEq, Repr

/-- A matrix operation outstanding (R254): what it writes, its snapshot, and its faults not yet delivered (R258). -/
structure MatOp where
  who      : Who
  /-- its number, which no other operation shares -/
  serial   : Nat
  kind     : MatKind
  /-- the accumulator of MM, MMM, ACLR and APUT, the tile of TLD, the first vector register of AGET -/
  target   : Nat
  quarters : BitVec 4
  /-- the frame and generation of its split, for the query page and for the registers of AGET (R29, R204) -/
  frame    : Nat
  gen      : BitVec 8
  /-- the core's cycle of its issue, and the pass it belongs to: the number of the pass's first operation (R255) -/
  issued   : Nat
  pass     : Nat
  /-- a write to its tile has issued since, so that no later MM joins its pass (R255) -/
  isClosed : Bool
  /-- its pass has begun (R307, R311) -/
  started  : Bool
  /-- the accumulator as its pass found it when it began: of an MMM, its first run (R254, R261, R262) -/
  shadow   : Option (List W32)
  /-- the elements that it does not write, since an operation of a lower lane of its cycle writes them (R61) -/
  lost     : BitVec 256
  /-- the values that AGET and APUT move, 256 in the order of R251 -/
  vals     : List W32
  /-- the 16 rows of A, 96 bytes each (R250) -/
  rows     : List (List Byte)
  /-- the tile snapshot of MM, the bytes loaded by TLD -/
  bytes    : List Byte
  tileNo   : Nat
  /-- the address of the B image (R261) -/
  bva      : W64
  mfr      : W16
  dual     : Bool
  pc       : W64
  units    : BitVec 24
  absent   : Bool
  /-- fault records outstanding (R262) -/
  records  : Nat
  /-- its result is written or dropped; it stays for faults not delivered (R258) -/
  drained  : Bool
  tile     : Option Nat
  deriving DecidableEq, Repr

/-- A frame request waiting at a core (R81): the group slot, the lane of its split, its demand, whether it needs a
scalar granule, and the cycle it arrived. -/
structure FrameReq where
  slot    : Nat
  lane    : Nat
  instr   : Instr
  grans   : Nat
  scalar  : Bool
  arrived : Nat
  deriving DecidableEq, Repr

/-- A group whose frames the escape spill engine has written out (R287, R288): its slot, its withdrawn requests, the
cycle of the spill, and its place in the order of requests. -/
structure Victim where
  slot     : Nat
  requests : List FrameReq
  since    : Nat
  arrived  : Nat
  /-- the generation of each frame's slot after the spill (R296) -/
  gens     : Table (BitVec 8)
  deriving DecidableEq, Repr

/-- An instruction-cache line: the ASID and number of a 256-byte virtual block, and its words as fetched, each with
its poison (R92, R130, R279). -/
structure ILine where
  asid   : Nat
  block  : Nat
  bytes  : List Byte
  poison : List Bool
  deriving DecidableEq, Repr

/-- A counter set of a core (R310, R312). -/
structure CtrSet where
  counters : List (BitVec 48)
  preempt  : BitVec 48
  derived  : List W64
  selects  : List Byte
  edges    : List W16
  matchIds : List W32
  /-- for each derived word: the run of cycles in which its operands held (R312) -/
  runs     : List Nat
  deriving DecidableEq, Repr

/-- An operation on its way to a Wellspring (R172), with its source. -/
inductive MsgKind where
  | grant (amount : Nat)
  | signal
  | cancel
  | ret (rem : Nat) (status : Nat)
  deriving DecidableEq, Repr

/-- A Wellspring message: what it does to which task, under which handle, and the split or packet that waits for its
result. -/
structure Msg where
  kind   : MsgKind
  /-- none: the handle names no task, and the effect is that of a target in state DONE (R167, R172) -/
  target : Option Nat
  inc    : Byte
  issuer : Option Nat
  /-- the core, group slot, generation, lane and destination scalar that wait -/
  reply  : Option (Nat × Nat × BitVec 8 × Nat × Nat)
  /-- the hub operation that waits -/
  packet : Option Nat
  /-- its place among operations that arrive in one cycle: issuing core, side and lowest lane (R172) -/
  key    : Nat
  deriving DecidableEq, Repr

/-- A core (R4): its groups and its engines, pools and queues. -/
structure Core where
  /-- the model's cycle at which the core's own count was 0 (R24, R284) -/
  base    : Nat
  inReset : Bool
  sgen    : Table (BitVec 8)
  ggen    : Table (BitVec 8)
  /-- the group that holds or last held a scalar granule, and a group slot: its task and its number in the crew, resident
  or saved; none for one that has ended (R203) -/
  owners  : Table (Nat × Nat)
  lastIn  : Table (Nat × Nat)
  /-- slots of ended groups, with their task, which releases them with its last group (R184) -/
  kept    : Table Nat
  groups  : Table Group
  requests : List FrameReq
  /-- the cycle of the last grant, or of the first request since (R286) -/
  lastGrant : Nat
  victims : List Victim
  loads   : List LoadOp
  stores  : List StoreOp
  markers : List Marker
  copies  : List CopyOp
  mats    : List MatOp
  /-- at most 512 lines of 256 bytes (R4), oldest first -/
  ilines  : List ILine
  /-- lines on their way: ASID and block (R92, R130) -/
  fills   : List (Nat × Nat)
  /-- places of the active set: slot and the cycle it took its place (R134) -/
  active  : List (Nat × Nat)
  /-- inactive groups in the order in which they began to wait (R134) -/
  waiting : List Nat
  /-- release markers issued (R243) -/
  epoch   : Nat
  sets    : Table CtrSet
  /-- by context: its counters as last written back (R314) -/
  lastCtr : Table (List (BitVec 48))
  /-- by context: the core's cycle at a write-back of its set made by pre-emption (R313) -/
  offAt   : Table Nat
  /-- raw signals raised in this cycle, by context (R311) -/
  signals : Table (BitVec 64)
  /-- by context: copy units written whose cycle of signal 36 has not come (R311) -/
  unitsDue : Table Nat
  /-- bytes of the physical view written to elements of the files that no group holds, with their poison (R201) -/
  loose   : Table (Byte × Bool)
  /-- the elements that a group has held since the core's reset (R201, R284) -/
  held    : List Nat
  /-- migrated pages whose first fetch this core has made: ASID, address, and the page's count of moves (R299) -/
  seen    : List (Nat × Nat × Nat)
  /-- the model's cycle after the Wellspring's latest operation, and that operation's place in the order of R172 -/
  turn    : Nat × Nat
  /-- why the core is in reset: a command, and the counts of its event (R325 kind 4) -/
  resetInfo : Option (Bool × Nat × Nat)
  slowed  : Bool
  deriving DecidableEq, Repr

/-- The task states of R166. -/
inductive TaskState where
  | free | armed | ready | running | starved | draining | unwinding | done | preempted
  deriving DecidableEq, Repr

/-- A channel of a crew (R137, R138): its shape, its full slots in ring order, and its positions. -/
structure Chan where
  depth   : Nat
  prod    : Nat
  cons    : Nat
  full    : List VReg
  pushPos : Nat
  popPos  : Nat
  /-- parked splits in the order in which they parked: group slot and lane (R138) -/
  pushers : List (Nat × Nat)
  poppers : List (Nat × Nat)
  deriving DecidableEq, Repr

/-- A sweep tile being timed (R307, R308): the opening TAKE, the cycles of events E1 to E7, and the operations that
have not completed. -/
structure TileRec where
  number : Nat
  taken  : Nat
  coord  : W64
  pnnt   : Option (BitVec 24)
  events : List (Option Nat)
  ops    : Nat
  closed : Bool
  /-- it has issued an MM or MMM -/
  computes : Bool
  deriving DecidableEq, Repr

/-- A group as a save holds it (R295): the group, its slot, generation and core at the save, the operations still
counted, and what it holds of masks. -/
structure SavedGroup where
  group  : Group
  slot   : Nat
  ggen   : BitVec 8
  core   : Nat
  forced : Bool
  /-- the loads, stores, copies and matrix operations still counted (R295 ctrs) -/
  ctrs   : Nat × Nat × Nat × Nat
  /-- MMMs that wait on faults, and operations with undelivered faults (R258, R262) -/
  mats   : List MatOp
  /-- poisoned returns that are not delivered (R281) -/
  loads  : List LoadOp
  /-- lanes of the entries whose resume bit is set (R298) -/
  resume : List Nat
  /-- the generation of each frame's slot after the save (R296) -/
  gens   : Table (BitVec 8)
  /-- a dropped write has been counted in it, so that its image is to be stored anew (R203) -/
  dirty  : Bool
  deriving DecidableEq, Repr

/-- A task: the fields of its TCB (R165), which the Wellspring keeps, and what the device keeps beside them. Its key
is the TCB address for a pool slot, and the address + 2^56 × (ASID + 1) for a root. -/
structure Task where
  va       : Nat
  isRoot   : Bool
  ctx      : Nat
  asid     : Nat
  state    : TaskState
  prio     : Nat
  park     : Bool
  restart  : Bool
  swcrew   : Bool
  spt      : Bool
  depth    : Nat
  groups   : Nat
  tiles    : Nat
  accs     : Nat
  egran    : Nat
  /-- the TCB's place field, and the owning core it selects (R165, R172) -/
  placeField : Nat
  place    : Nat
  stages   : W32
  dep      : Nat
  entry    : W64
  parent   : Option Nat
  parentHandle : W64
  alw      : Nat
  rsv      : Nat
  pend     : Nat
  jstat    : Nat
  seq      : Nat
  inc      : Byte
  kids     : Nat
  consumed : Nat
  chanBytes : List Byte
  xpc      : W64
  xcause   : Nat
  xstat    : Nat
  xval     : W64
  pnnt     : BitVec 24
  /-- release time and residency (R173, R174) -/
  release  : Nat
  resident : Bool
  /-- the channels and their vector granules (R137) -/
  chans    : Table Chan
  chanGrans : List Nat
  /-- the GRANTs and CANCELs whose result it awaits (R182, R184) -/
  awaiting : Nat
  /-- the cycle of a pre-emption request that stands (R292) -/
  request  : Option Nat
  /-- its save has begun, and whether it is forced (R293) -/
  saving   : Option Bool
  saved    : List SavedGroup
  /-- units collected for the return of an unwinding (R186), and whether the task has stopped (R189) -/
  sum      : Nat
  stopped  : Bool
  /-- root of the unwinding it belongs to (R189) -/
  unwinder : Option Nat
  /-- its core was reset, and it waits for its descendants to be unwound before it starts again (R284) -/
  restarting : Bool
  /-- the hub operation of the launch packet (R187) -/
  launch   : Option Nat
  sweep    : Option Nat
  tilerecs : List TileRec
  nextTile : Nat
  /-- alw at the latest write-back (R165, R284) -/
  written  : Nat
  deriving DecidableEq, Repr

/-- A page of an ASID (R207, R334). -/
structure Page where
  asid : Nat
  va   : Nat
  size : Nat
  r    : Bool
  w    : Bool
  x    : Bool
  m    : Bool
  res  : Bool
  pa   : Nat
  back : Option Nat
  /-- how often the page was moved to another physical address (R299) -/
  moves : Nat
  deriving DecidableEq, Repr

/-- Who waits in the Tarn: a split, or a packet of the hub (R226, R330). -/
inductive TarnUser where
  | split (core slot lane : Nat)
  | hub (op : Nat)
  deriving DecidableEq, Repr

/-- A Tarn entry: the physical address of its word, who waits, and what it would do (R226). -/
structure TarnEntry where
  pa   : Nat
  user : TarnUser
  deriving DecidableEq, Repr

/-- A fault record (R212). -/
structure FaultRec where
  va   : Nat
  kind : Nat
  asid : Nat
  core : Nat
  slot : Nat
  ctx  : Nat
  lane : Nat
  ggen : BitVec 8
  mask : W32
  pennants : List (BitVec 24)
  cyc  : W64
  seq  : Nat
  /-- the model's own: the engine or hub operation that wrote it, the task and the group -/
  op   : Nat
  task : Nat
  gid  : Nat
  inc  : Byte
  deriving DecidableEq, Repr

/-- What a packet waits for once it has started (R331). -/
inductive HubWait where
  /-- a hub copy, with its fault records outstanding (R330 kind 3) -/
  | copy (dst src : W64) (len records : Nat)
  /-- WAITWORD or FILLWORD: the word, its value, take or force, records outstanding, and its place in the Tarn -/
  | waitword (va : W64) (take : Bool) (records : Nat)
  | fillword (va value : W64) (force : Bool) (records : Nat)
  /-- a FENCE packet, until every earlier packet of its queue has completed -/
  | fence
  /-- a completion word that waits for its page (R355): status and result -/
  | word (status result : Nat) (asked : Bool)
  /-- GRANT or CANCEL packets, until the Wellspring answers -/
  | wellspring
  deriving DecidableEq, Repr

/-- A started packet (R331): its queue, its place among the queue's packets, its kind, its completion word. -/
structure HubOp where
  id    : Nat
  queue : Nat
  index : Nat
  kind  : Nat
  cw    : W64
  wait  : HubWait
  deriving DecidableEq, Repr

/-- A queue (R327, R334). -/
structure Queue where
  block : Nat
  ctx   : Nat
  asid  : Nat
  vec   : Nat
  /-- destroyed: takes no more packets (R333) -/
  stopped : Bool
  taken : Nat
  /-- what is still to be written for the packet whose journal word stands: 1 head, slot and v, 2 slot and v, 3 v, 0
  nothing (R335) -/
  retire : Nat
  /-- the fields of its block that QUEUE.CREATE gives are still to be written: the block's page is absent (R327) -/
  unwritten : Bool
  /-- of a destroyed queue: the ring positions still to be examined for packets that complete ABORTED; none, where that is all of
  them, since the block cannot be reached (R333) -/
  flush   : Option (List Nat)
  deriving DecidableEq, Repr

/-- An edit staged by DEBUG (R316, R334): task, group, and the record. -/
structure Edit where
  task : Nat
  gid  : Nat
  cls  : Nat
  reg  : Nat
  unit : Nat
  frame : Nat
  data : List Byte
  deriving DecidableEq, Repr

/-- A debug stop (R315). -/
structure Stop where
  region : BitVec 24
  onEnter : Bool
  onLeave : Bool
  deriving DecidableEq, Repr

/-- A context (R334). -/
structure Ctx where
  asid    : Nat
  quota   : Nat
  lmax    : Nat
  mereF   : Bool
  mereP   : Bool
  helas   : Bool
  debug   : Bool
  sbuf    : Nat
  ssize   : Nat
  /-- the counter blocks of an open capture window (R310, R330) -/
  capture : Option Nat
  stops   : List Stop
  edits   : List Edit
  /-- debug rights withdrawn, in force at the next debug operation (R317) -/
  revoked : Bool
  deriving DecidableEq, Repr

/-- A live sweep (R191, R192): its task and coordinate counter. -/
structure Sweep where
  task : Nat
  x    : Nat
  y    : Nat
  z    : Nat
  next : Nat
  deriving DecidableEq, Repr

/-- An event for the host (R325): its kind and its payload dwords. -/
structure Event where
  kind    : Nat
  payload : List W64
  deriving DecidableEq, Repr

/-- A Helas port (R320, R321). -/
structure Port where
  up     : Bool
  base   : Nat
  len    : Nat
  refused : Nat
  deriving DecidableEq, Repr

/-- An admin command that has started and completes later; the admin queue completes in slot order (R333). -/
inductive AdminWait where
  | none
  | destroy (queue : Nat) (cw : W64)
  | teardown (asid : Nat) (cw : W64)
  | reset (core : Nat) (cw : W64)
  deriving DecidableEq, Repr

/-- The state of a spill area that cannot be reached: its page is not resident, or closed to the core (R126, R287). -/
inductive AreaState where
  | absent | closed
  deriving DecidableEq, Repr

/-- The hub die (R319 to R341). -/
structure Hub where
  ready     : Bool
  zeroised  : Bool
  alarm     : Bool
  wdog      : Nat
  admq      : Nat
  aen       : Bool
  evtq      : Nat
  evsz      : Nat
  evNext    : Nat
  events    : List Event
  msix      : List Nat
  policy    : Nat
  halted    : Bool
  keyed     : Bool
  ctxs      : Table Ctx
  queues    : Table Queue
  ops       : List HubOp
  nextOp    : Nat
  adminWait : AdminWait
  /-- as `Queue.retire`, for the admin queue -/
  adminRetire : Nat
  /-- the control block of the admin packet whose update stands (R335, R336) -/
  adminAt   : Nat
  /-- completions of admin commands behind the one that waits, in slot order: completion word, status, result (R333) -/
  adminHeld : List (W64 × Nat × Nat)
  pages     : List Page
  dying     : List Nat
  sweeps    : Table Sweep
  nextSweep : Nat
  ports     : Table Port
  limits    : Table Nat
  /-- records waiting for a place of the ring, the ring, records taken and not resolved, replies on their way -/
  recWait   : List FaultRec
  ring      : List FaultRec
  taken     : List FaultRec
  /-- records taken whose copy from a backing has stopped, to be served anew (R326) -/
  anew      : List FaultRec
  replies   : List FaultRec
  recSeq    : Nat
  /-- pages being copied from their backing: ASID and virtual address (R334) -/
  backing   : List (Nat × Nat)
  /-- spill areas that cannot be reached, by area number (R126, R287, R303) -/
  areas     : Table AreaState
  /-- what the host received for its CXL.mem reads: data and poison (R323) -/
  hostReads : List (BitVec 512 × Bool)
  deriving DecidableEq, Repr

/-- The split selected to issue: core, group slot, index among the resident entries. -/
structure Sel where
  core : Nat
  slot : Nat
  idx  : Nat
  deriving DecidableEq, Repr

/-- The cycle in which several splits of one group issue (R54, R61, R95, R133), while they take effect one after another,
lowest lane first. It is the model's own: between two steps there is none. -/
structure Together where
  /-- the group as the cycle found it, whose registers every one of them reads (R61) -/
  before   : Group
  /-- the core's operations as the cycle found them, for the scoreboard (R60) -/
  loads    : List LoadOp
  copies   : List CopyOp
  mats     : List MatOp
  /-- scalars written in this cycle so far, with the frame of a frame-local one (R61) -/
  wrote    : List (Nat × Nat)
  /-- special registers and entries of the pennant stack written in this cycle so far (R61, R304) -/
  specials : List Nat
  entries  : List Nat
  /-- whether an MTS of the cycle clears `sat` (R95) -/
  clears   : Option Bool
  /-- an instruction of the cycle has trapped (R54) -/
  trapped  : Bool
  deriving DecidableEq, Repr

/-- What the world does next: a step of the table, the host's own store of a dword to its memory (R323, R327, R328), a
line that comes over CXL.mem with its poison (R323), or a change of the page on which firmware keeps a spill area (R126, R341). -/
inductive Input where
  | row (i : Instr)
  | hostStore (pa : Nat) (value : W64) (poison : Bool)
  | hostLine (pa : Nat) (data : BitVec 512) (poison : Bool)
  | area (n : Nat) (now : Option AreaState)
  deriving DecidableEq, Repr

/-- The device. `tick` is the model's count of cycles; `fresh` numbers the free choices made; `cur` is the split
selected to issue; `together` is the cycle it shares with other splits of its group, none where it issues alone; `hold`
says that both sides of the core issue in the cycle (R131, R176), and `ahead` what the other side asks of frame storage before
the present one (R81); `inbox` is what the world does next, in order. -/
structure State where
  tick   : Nat
  fresh  : Nat
  cur    : Option Sel
  together : Option Together
  hold   : Bool
  /-- vector granules, and whether a scalar granule, of each frame request of the cycle's other side that stands before those
  of the side whose turn it is (R81) -/
  ahead  : List (Nat × Bool)
  inbox  : List Input
  /-- by core and element: the model's count of choices at the latest issue of a write to a tile through the physical view,
  where a matrix operation that read the tile stood (R255) -/
  tileWrites : Table Nat
  cores  : Table Core
  tasks  : Table Task
  /-- incarnations of the pool slots, by address (R167) -/
  incs   : Table Byte
  msgs   : List Msg
  /-- memory by physical address: addresses strictly rising, no entry equal to 0, which an unlisted byte reads as -/
  mem    : List Host.Cell
  /-- poisoned 64-byte units, by unit number, strictly rising (R279) -/
  poison : List Nat
  /-- full words of mailbox pages, by word number, strictly rising (R224) -/
  full   : List Nat
  tarn   : List TarnEntry
  hub    : Hub
  deriving DecidableEq, Repr

/-- The reasons a step of the model stops. No rule of the spec stops the device; these are the model's own, raised
where a step is asked for outside its condition. -/
inductive Fault where
  /-- An instruction was executed while no live split is selected. Raised by every encoded instruction; `step` never
  asks for it. Safe: the machine has nothing to issue there. -/
  | noSplit
  /-- A step without an encoding was executed while its condition does not hold (its operation, message, packet or
  entry does not exist). Raised by those steps; `step` never asks for it. Safe. -/
  | notEnabled
  deriving DecidableEq, Repr

/-- The reasons a step has no meaning. -/
inductive Refusal where
  /-- Raised by an arm of `exec` whose row has no meaning yet. Safe. -/
  | notModelled (mnemonic : String)
  deriving DecidableEq, Repr

/-- A core after reset (R78, R202, R284). -/
def Core.reset : Core where
  base := 0
  inReset := false
  sgen := []
  ggen := []
  owners := []
  lastIn := []
  kept := []
  groups := []
  requests := []
  lastGrant := 0
  victims := []
  loads := []
  stores := []
  markers := []
  copies := []
  mats := []
  ilines := []
  fills := []
  active := []
  waiting := []
  epoch := 0
  sets := []
  lastCtr := []
  offAt := []
  signals := []
  unitsDue := []
  loose := []
  held := []
  seen := []
  turn := (0, 0)
  resetInfo := none
  slowed := false

/-- The hub after power-on (R324, R341): not ready, every register at its reset value, nothing created. -/
def Hub.reset : Hub where
  ready := false
  zeroised := false
  alarm := false
  wdog := 0
  admq := 0
  aen := false
  evtq := 0
  evsz := 0
  evNext := 0
  events := []
  msix := []
  policy := 0
  halted := false
  keyed := true
  ctxs := []
  queues := []
  ops := []
  nextOp := 0
  adminWait := .none
  adminRetire := 0
  adminAt := 0
  adminHeld := []
  pages := []
  dying := []
  sweeps := []
  nextSweep := 0
  ports := []
  limits := []
  recWait := []
  ring := []
  taken := []
  anew := []
  replies := []
  recSeq := 0
  backing := []
  areas := []
  hostReads := []

/-- The device right after power-on reset (R341 step 1): every core at `Core.reset` (no entry), no task, memory with
nothing listed, the hub not ready. -/
def State.reset : State where
  tick := 0
  fresh := 0
  cur := none
  together := none
  hold := false
  ahead := []
  inbox := []
  tileWrites := []
  cores := []
  tasks := []
  incs := []
  msgs := []
  mem := []
  poison := []
  full := []
  tarn := []
  hub := Hub.reset

end Sys2Proof.Machine
end

