-- ==== Sys2Proof/Machine/Operands.lean ====
section
/-! DEFINITION. Register operands: reading and writing the five classes of a group (R20, R21, R113, R141), with the poison
each write clears (R352, R353), and the registers each instruction reads and writes (R60, R143). -/

namespace Sys2Proof.Machine

/-- A register of 32 zero lanes (R23). -/
def zeroLanes : Lanes := List.replicate 32 0
/-- A vector register at crew start and in a new frame (R23, R27). -/
def VReg.zero : VReg := ⟨zeroLanes, 0⟩
/-- A scalar at crew start and in a new frame (R23, R27). -/
def SReg.zero : SReg := ⟨0, false⟩
/-- A predicate at crew start, other than p15 (R23). -/
def PReg.zero : PReg := ⟨0, false⟩
/-- A frame of no granules, which stands for a frame that a group does not hold. -/
def Frame.blank : Frame := ⟨[], 0, none, 0, 0, [], []⟩
/-- A zero tile (R23) that no storage element backs. -/
def Tile.blank : Tile := ⟨0, List.replicate 1536 0, 0⟩
/-- A zero accumulator (R23) that no storage element backs. -/
def Acc.blank : Acc := ⟨0, List.replicate 256 0, 0⟩

/-- The frame of a scalar granule. -/
def Group.frame (g : Group) (fr : Nat) : Frame := Table.getD g.frames fr Frame.blank
/-- The group with a frame replaced. -/
def Group.putFrame (g : Group) (fr : Nat) (f : Frame) : Group := { g with frames := Table.set g.frames fr f }

/-- Scalar n in a frame; s0 reads as zero (R21). -/
def Group.readS (g : Group) (fr n : Nat) : SReg :=
  if n = 0 then SReg.zero
  else if n < 32 then Table.getD g.s n SReg.zero
  else Table.getD (g.frame fr).s n SReg.zero
/-- The value of scalar n in a frame: `read_reg(S, n)` (R41). -/
def Group.sval (g : Group) (fr n : Nat) : W64 := (g.readS fr n).val
/-- Scalar n replaced, its poison with it; a write to s0 is discarded (R21, R353). -/
def Group.putS (g : Group) (fr n : Nat) (r : SReg) : Group :=
  if n = 0 then g
  else if n < 32 then { g with s := Table.set g.s n r }
  else g.putFrame fr { g.frame fr with s := Table.set (g.frame fr).s n r }
/-- `write_reg(S, n, x)` (R41): the whole scalar, so that its poison is cleared (R353). -/
def Group.writeS (g : Group) (fr n : Nat) (x : W64) : Group := g.putS fr n ⟨x, false⟩

/-- Vector register n in a frame (R20). -/
def Group.readV (g : Group) (fr n : Nat) : VReg :=
  if n < 120 then Table.getD (g.frame fr).v n VReg.zero else Table.getD g.v n VReg.zero
/-- The lanes of vector register n. -/
def Group.lanes (g : Group) (fr n : Nat) : Lanes := (g.readV fr n).lanes
/-- Vector register n replaced. -/
def Group.putV (g : Group) (fr n : Nat) (r : VReg) : Group :=
  if n < 120 then g.putFrame fr { g.frame fr with v := Table.set (g.frame fr).v n r }
  else { g with v := Table.set g.v n r }
/-- Lanes of a mask taken from `f`, the others from `old` (R141). -/
def mergeLanes (m : W32) (f : Nat → W32) (old : Lanes) : Lanes :=
  ofLanes (fun k => if maskHas m k then f k else laneAt old k)
/-- A write of the lanes of a mask: the other lanes keep their value and their poison (R113, R141, R353). -/
def Group.writeV (g : Group) (fr n : Nat) (m : W32) (f : Nat → W32) : Group :=
  g.putV fr n ⟨mergeLanes m f (g.lanes fr n), (g.readV fr n).poison &&& ~~~m⟩

/-- Predicate n (R20). -/
def Group.readP (g : Group) (n : Nat) : PReg := Table.getD g.p n PReg.zero
/-- The bits of predicate n. -/
def Group.pval (g : Group) (n : Nat) : W32 := (g.readP n).val
/-- A predicate replaced. -/
def Group.putP (g : Group) (n : Nat) (r : PReg) : Group := { g with p := Table.set g.p n r }
/-- A write of the bits of a mask; only a write of all 32 lanes clears poison (R141, R353). -/
def Group.writeP (g : Group) (n : Nat) (m : W32) (bits : W32) : Group :=
  g.putP n ⟨(g.pval n &&& ~~~m) ||| (bits &&& m), (g.readP n).poison && decide (m ≠ BitVec.allOnes 32)⟩

/-- Tile n of the group (R249). -/
def Group.readT (g : Group) (n : Nat) : Tile := Table.getD g.tiles n Tile.blank
/-- Accumulator n of the group (R251). -/
def Group.readA (g : Group) (n : Nat) : Acc := Table.getD g.accs n Acc.blank
/-- The values of a quarter replaced: elements 64q to 64q + 63, row by row (R251). -/
def Acc.putQuarter (a : Acc) (q : Nat) (f : Nat → W32) : Acc :=
  { a with vals := (upto 256).map (fun e => if e / 64 = q then f e else a.vals.getD e 0),
           poison := a.poison &&& ~~~(1#4 <<< q) }
/-- The group with an accumulator replaced. -/
def Group.putA (g : Group) (n : Nat) (a : Acc) : Group := { g with accs := Table.set g.accs n a }
/-- The group with a tile replaced. -/
def Group.putT (g : Group) (n : Nat) (t : Tile) : Group := { g with tiles := Table.set g.tiles n t }

/-- Byte k of row i of the A operand at v(a) (R250). -/
def aByte (g : Group) (fr a i k : Nat) : Byte :=
  (laneAt (g.lanes fr (a + k / 8)) (2 * i + k / 4 % 2)).extractLsb' (8 * (k % 4)) 8
/-- The 16 rows of the A operand at v(a), 96 bytes each (R250). -/
def aRows (g : Group) (fr a : Nat) : List (List Byte) :=
  (upto 16).map (fun i => (upto 96).map (aByte g fr a i))
/-- Column j of a 1,536-byte image (R249). -/
def bColumn (img : List Byte) (j : Nat) : List Byte := (img.drop (96 * j)).take 96

/-- The lanes that hold the rows of a set of quarters (R250). -/
def quarterLanes (q : BitVec 4) : W32 := ofBits (fun k => q.getLsbD (k / 8))

/-- A source of an instruction with the lanes it reads (R143); lanes matter for vector registers alone. -/
abbrev Source := RegRef × W32

/-- The lanes VSLIDE reads of its two sources, for the elements of active lanes (R143, R158). -/
def slideLanes (down : Bool) (k : Nat) (m : W32) (ofFill : Bool) : W32 :=
  let reads := (lanesOf m).flatMap (fun l => [2 * l, 2 * l + 1].map (fun i =>
    if down then (decide (64 ≤ i + k), if 64 ≤ i + k then i + k - 64 else i + k)
    else (decide (i < k), if i < k then 64 - k + i else i - k)))
  ofBits (fun l => reads.any (fun e => e.1 == ofFill && decide (e.2 / 2 = l)))

/-- The lanes of v(a) that VSHFL selects for its active lanes (R143, R157). -/
def shuffleLanes (b : Lanes) (m : W32) : W32 :=
  ofBits (fun l => (lanesOf m).any (fun k => decide ((laneAt b k).toNat % 32 = l)))

/-- A block of k vector registers as sources. -/
def vBlock (n k : Nat) (m : W32) : List Source := (upto k).map (fun i => (.v (n + i), m))

/-- The source registers an instruction reads, in field order d, a, b, then fn, with the lanes it reads (R143). PUSH is
here for the scoreboard; its poison passes (R272). An MM or MMM with no active quarter reads nothing (R252). `m` is the mask, `b` the lanes of VSHFL's selector. -/
def sourcesOf (i : Instr) (m : W32) (b : Lanes) : List Source :=
  let S := fun n => ((RegRef.s n, m) : Source)
  let V := fun n => ((RegRef.v n, m) : Source)
  let P := fun n => ((RegRef.p n, m) : Source)
  match i with
  | .add _ a b | .sub _ a b | .mul _ a b | .mulh _ a b | .mulhu _ a b | .min _ a b | .max _ a b | .minu _ a b
  | .maxu _ a b | .div _ a b | .divu _ a b | .rem _ a b | .remu _ a b | .and _ a b | .or _ a b | .xor _ a b
  | .andn _ a b | .shl _ a b | .shr _ a b | .sar _ a b | .rol _ a b | .cmp _ _ a b | .spawn _ a b | .grant _ a b
  | .enq _ a b => [S a, S b]
  | .sel _ a b x => [S a, S b, S x]
  | .clz _ a | .popc _ a | .mov _ a | .addi _ a _ | .andi _ a _ | .ori _ a _ | .xori _ a _ | .shli _ a _
  | .shri _ a _ | .sari _ a _ | .callr _ a | .jr a | .unwind a | .ld _ _ a | .lds _ _ a | .fld _ _ a | .ftake _ _ a
  | .vld _ _ a | .touch a | .tld _ a | .signal a | .cancel _ a | .mts _ a | .vbcast _ a => [S a]
  | .lih d _ => [S d]
  | .bz x _ | .bnz x _ => [S x]
  | .brv x _ => [P x]
  | .st _ d a | .amo _ _ _ d a | .fput _ d a | .ffill _ d a => [S d, S a]
  | .cas _ _ d a => [S d, S (d + 1), S a]
  | .vamo _ _ d a | .vstc _ d a => [V d, V (d + 1), S a]
  | .vst _ d a => [V d, S a]
  | .vldc _ d a => [V (d + 1), S a]
  | .vfma _ d a b | .vdot2I16 d a b => [V d, V a, V b]
  | .vadd _ _ a b | .vsub _ _ a b | .vmul _ _ a b | .vmin _ _ a b | .vmax _ _ a b | .vand _ a b | .vor _ a b
  | .vxor _ a b | .vshl _ a b | .vshr _ a b | .vsar _ a b | .vsrrI32 _ a b | .vsrrI16x2 _ a b | .vadd2I16 _ a b
  | .vdiv _ a b | .vdivu _ a b | .vrem _ a b | .vremu _ a b | .vcmp _ _ _ a b => [V a, V b]
  | .vsel _ a b p => [V a, V b, P p]
  | .vabs _ _ a | .vneg _ _ a | .vcvt _ _ _ a | .vrcp _ a | .vrsq _ a | .vexp2 _ a | .vlog2 _ a | .vmov _ a
  | .vred _ _ _ a | .vscan _ _ _ a | .mfmt a => [V a]
  | .vlane _ a l => [(.v a, 1#32 <<< l)]
  | .vslide down k _ a c => [(.v a, slideLanes down k m false), (.v c, slideLanes down k m true)]
  | .vshfl _ a c => [(.v a, shuffleLanes b m), (.v c, m)]
  | .pand _ a b | .por _ a b | .pxor _ a b => [P a, P b]
  | .pnot _ a | .pcnt _ a => [P a]
  | .mm d a t => let q := quartersOf m
      if q = 0 then [] else (quarterList q).map (fun k => (.a d k, m)) ++ vBlock a 12 (quarterLanes q) ++ [(.t t, m)]
  | .mmm d a b => let q := quartersOf m
      if q = 0 then [] else (quarterList q).map (fun k => (.a d k, m)) ++ vBlock a 12 (quarterLanes q) ++ [S b]
  | .aget _ a => (upto 4).map (fun k => (.a a k, m))
  | .aput _ a => vBlock a 8 m
  | .cpy d a b => [S d, S a, S b]
  | .cpy2 _ a => (upto 6).map (fun k => S (a + k))
  | .push a _ => [V a]
  | _ => []

/-- The registers an instruction writes (R60). A load writes p15 as well (R21); an instruction that acts on an
accumulator names the quarters of R254. What FGROW writes depends on its frame (grownRegs). -/
def destsOf (i : Instr) (m : W32) : List RegRef :=
  let Q := fun d => (quarterList (quartersOf m)).map (fun k => RegRef.a d k)
  match i with
  | .add d _ _ | .sub d _ _ | .mul d _ _ | .mulh d _ _ | .mulhu d _ _ | .min d _ _ | .max d _ _ | .minu d _ _
  | .maxu d _ _ | .div d _ _ | .divu d _ _ | .rem d _ _ | .remu d _ _ | .and d _ _ | .or d _ _ | .xor d _ _
  | .andn d _ _ | .shl d _ _ | .shr d _ _ | .sar d _ _ | .rol d _ _ | .cmp _ d _ _ | .spawn d _ _ | .grant d _ _
  | .enq d _ _ | .sel d _ _ _ | .clz d _ | .popc d _ | .mov d _ | .addi d _ _ | .andi d _ _ | .ori d _ _
  | .xori d _ _ | .shli d _ _ | .shri d _ _ | .sari d _ _ | .fld _ d _ | .ftake _ d _ | .cancel d _ | .lih d _
  | .li d _ | .amo _ _ _ d _ | .cas _ _ d _ | .vlane d _ _ | .vred _ _ d _ | .pcnt d _ | .cpy d _ _ | .cpy2 d _
  | .take d | .join d | .mfs d _ | .rdctr d _ => [.s d]
  | .ld _ d _ | .lds _ d _ => [.s d, .p 15]
  | .vld _ d _ | .vldc _ d _ => [.v d, .p 15]
  | .vamo _ _ d _ | .vfma _ d _ _ | .vdot2I16 d _ _ | .vadd _ d _ _ | .vsub _ d _ _ | .vmul _ d _ _ | .vmin _ d _ _
  | .vmax _ d _ _ | .vand d _ _ | .vor d _ _ | .vxor d _ _ | .vshl d _ _ | .vshr d _ _ | .vsar d _ _
  | .vsrrI32 d _ _ | .vsrrI16x2 d _ _ | .vadd2I16 d _ _ | .vdiv d _ _ | .vdivu d _ _ | .vrem d _ _ | .vremu d _ _
  | .vsel d _ _ _ | .vabs _ d _ | .vneg _ d _ | .vcvt _ _ d _ | .vrcp d _ | .vrsq d _ | .vexp2 d _ | .vlog2 d _
  | .vmov d _ | .vbcast d _ | .vscan _ _ d _ | .vslide _ _ d _ _ | .vshfl d _ _ | .pop d _ => [.v d]
  | .vcmp _ _ p _ _ => [.p p]
  | .pand d _ _ | .por d _ _ | .pxor d _ _ | .pnot d _ => [.p d]
  | .tld d _ => [.t d, .p 15]
  | .mm d _ _ | .mmm d _ _ | .aclr d => Q d
  | .aget d _ => (upto 8).map (fun k => .v (d + k))
  | .aput d _ => (upto 4).map (fun k => .a d k)
  | _ => []

/-- The vector registers an instruction names, for the check of R22. A pair or block is named whole (R48). -/
def vectorFields (i : Instr) : List Nat :=
  let of1 := fun (l : List RegRef) => l.filterMap (fun r => match r with
    | .v n => some n
    | .s _ | .p _ | .t _ | .a _ _ => none)
  match i with
  | .vldc _ d _ => [d, d + 1]
  | .mm _ a _ | .mmm _ a _ => (upto 12).map (a + ·)
  | _ => of1 ((sourcesOf i 0 []).map Prod.fst) ++ of1 (destsOf i 0)

/-- The tile or accumulator numbers an instruction names are below the counts of the crew shape (R22). -/
def withinShape (i : Instr) (tiles accs : Nat) : Bool :=
  match i with
  | .mm d _ t => decide (d < accs) && decide (t < tiles)
  | .mmm d _ _ | .aclr d | .aput d _ => decide (d < accs)
  | .aget _ a => decide (a < accs)
  | .tld d _ => decide (d < tiles)
  | _ => true

/-- Whether every vector register an instruction names lies inside a frame of `g` granules (R22). -/
def withinFrame (i : Instr) (grans : Nat) : Bool :=
  (vectorFields i).all (fun n => decide (120 ≤ n) || decide (n < 8 * grans))

/-- Whether a source is poisoned in the lanes read (R143). -/
def Group.poisonedSource (g : Group) (fr : Nat) (src : Source) : Bool :=
  match src.1 with
  | .s n => (g.readS fr n).poison
  | .v n => decide ((g.readV fr n).poison &&& src.2 ≠ 0)
  | .p n => (g.readP n).poison
  | .t n => decide ((g.readT n).poison ≠ 0)
  | .a n q => (g.readA n).poison.getLsbD q

/-- `tval` of a poisoned source: class in [15:8], number in [7:0] (R143). -/
def sourceTval : RegRef → W64
  | .s n => BitVec.ofNat 64 n
  | .v n => BitVec.ofNat 64 (0x100 + n)
  | .p n => BitVec.ofNat 64 (0x200 + n)
  | .t n => BitVec.ofNat 64 (0x300 + n)
  | .a n _ => BitVec.ofNat 64 (0x400 + n)

/-- The sources whose poison traps at position 7: all but PUSH's (R143, R272). -/
def poisonSources (i : Instr) (m : W32) (b : Lanes) : List Source :=
  match i with
  | .push _ _ => []
  | _ => sourcesOf i m b

/-- Whether a register is frame-local (R20). -/
def RegRef.frameLocal : RegRef → Bool
  | .s n => decide (32 ≤ n)
  | .v n => decide (n < 120)
  | .p _ => false
  | .t _ => false
  | .a _ _ => false

end Sys2Proof.Machine
end

