-- ==== Sys2Proof/Machine/Flags.lean ====
section
/-! DEFINITION. Flags and conditions: the conditions of CMP (R64) and VCMP (R154), the sticky saturation flag (R95), the
residency predicate p15 (R21, R210), and the atomic operations (R221). -/

namespace Sys2Proof.Machine

/-- The condition of CMP on two scalars (R64). -/
def condHolds (c : Cond) (x y : W64) : Bool :=
  match c with
  | .eq => decide (x = y)
  | .ne => decide (x ≠ y)
  | .lt => decide (x.toInt < y.toInt)
  | .ge => decide (y.toInt ≤ x.toInt)
  | .le => decide (x.toInt ≤ y.toInt)
  | .gt => decide (y.toInt < x.toInt)
  | .ltu => decide (x.toNat < y.toNat)
  | .geu => decide (y.toNat ≤ x.toNat)
  | .leu => decide (x.toNat ≤ y.toNat)
  | .gtu => decide (y.toNat < x.toNat)

/-- The condition of VCMP on two exact integers (R154). -/
def intCond (c : VCond) (x y : Int) : Bool :=
  match c with
  | .eq => decide (x = y)
  | .ne => decide (x ≠ y)
  | .lt => decide (x < y)
  | .ge => decide (y ≤ x)
  | .le => decide (x ≤ y)
  | .gt => decide (y < x)

/-- The condition of VCMP on two lanes, by type (R154, R97). -/
def vcondHolds (c : VCond) (t : VType) (x y : W32) : Bool :=
  match t with
  | .i32 => intCond c x.toInt y.toInt
  | .u32 => intCond c x.toNat y.toNat
  | .f32 | .bf16 | .f16 => fCond (fmtOf t) c (typeBits t x) (typeBits t y)

/-- `sat` set when an instruction clips (R95). -/
def Group.clip (g : Group) (clipped : Bool) : Group := { g with sat := g.sat || clipped }

/-- p15 after data arrives: bits of `set` become 1, bits of `clear` 0 (R21, R210). -/
def Group.arrive (g : Group) (set clear : W32) : Group := g.writeP 15 (set ||| clear) set

/-- The new value of an atomic step on n bytes, exact operands below 2^(8n) (R221). -/
def amoNew (op : AmoOp) (n : Nat) (old x : Nat) : Nat :=
  let sgn := fun v => (BitVec.ofNat (8 * n) v).toInt
  match op with
  | .add => (old + x) % 2 ^ (8 * n)
  | .and => old &&& x
  | .or => old ||| x
  | .xor => old ^^^ x
  | .min => if sgn x < sgn old then x else old
  | .max => if sgn old < sgn x then x else old
  | .minu => if x < old then x else old
  | .maxu => if old < x then x else old
  | .swap => x

end Sys2Proof.Machine
end

