-- ==== Sys2Proof/Machine/Memory.lean ====
section
/-! DEFINITION. Memory: bytes by physical address in canonical form, poison by 64-byte unit (R279), the Mere map (R198 to
R204), pages and translation (R199, R207), and what a TCB admits (R354). -/

namespace Sys2Proof.Machine

/-- Whether a list of cells is in canonical form from an address on: rising, and no entry 0, as an unlisted byte reads. -/
def Memory.wfFrom : Nat → List Host.Cell → Bool
  | _, [] => true
  | lo, (a, b) :: t => decide (lo ≤ a) && decide (b ≠ 0) && Memory.wfFrom (a + 1) t

/-- The canonical form of memory. -/
def Memory.wf (m : List Host.Cell) : Bool := Memory.wfFrom 0 m

/-- The byte at an address; an unlisted one reads 0 (log entry 4). -/
def Memory.get : List Host.Cell → Nat → Byte
  | [], _ => 0
  | (j, b) :: t, a => if a = j then b else Memory.get t a

/-- A byte that is not 0, put in its place. -/
def Memory.insert : List Host.Cell → Nat → Byte → List Host.Cell
  | [], a, v => [(a, v)]
  | (j, b) :: t, a, v =>
    if a = j then (a, v) :: t else if a < j then (a, v) :: (j, b) :: t else (j, b) :: Memory.insert t a v

/-- The memory with a byte written; writing 0 removes the entry. -/
def Memory.put (m : List Host.Cell) (a : Nat) (v : Byte) : List Host.Cell :=
  if v = 0 then m.filter (fun c => decide (c.1 ≠ a)) else Memory.insert m a v

/-- Bytes by address written in order. -/
def Memory.putAll (m : List Host.Cell) (cells : List (Nat × Byte)) : List Host.Cell :=
  cells.foldl (fun acc c => Memory.put acc c.1 c.2) m

/-- The n bytes from an address, little-endian, as cells. -/
def cellsOf (a n x : Nat) : List (Nat × Byte) := (upto n).zip (leBytes n x) |>.map (fun c => (a + c.1, c.2))

/-- The core of a number; one that has no entry is as after reset. -/
def State.core (s : State) (c : Nat) : Core := Table.getD s.cores c Core.reset
/-- The state with a core replaced. -/
def State.putCore (s : State) (c : Nat) (k : Core) : State := { s with cores := Table.set s.cores c k }
/-- The state with a core changed. -/
def State.modCore (s : State) (c : Nat) (f : Core → Core) : State := s.putCore c (f (s.core c))
/-- The group in a slot of a core. -/
def State.group? (s : State) (c g : Nat) : Option Group := Table.get? (s.core c).groups g
/-- The state with a group replaced. -/
def State.putGroup (s : State) (c g : Nat) (x : Group) : State :=
  s.modCore c (fun k => { k with groups := Table.set k.groups g x })
/-- The state with a group changed, where there is one. -/
def State.modGroup (s : State) (c g : Nat) (f : Group → Group) : State :=
  match s.group? c g with
  | some x => s.putGroup c g (f x)
  | none => s
/-- The state with a task changed, where there is one. -/
def State.modTask (s : State) (t : Nat) (f : Task → Task) : State := { s with tasks := Table.modify s.tasks t f }
/-- The state with the hub changed. -/
def State.modHub (s : State) (f : Hub → Hub) : State := { s with hub := f s.hub }
/-- The generation of a scalar granule (R78). -/
def Core.sgenOf (k : Core) (fr : Nat) : BitVec 8 := Table.getD k.sgen fr 0
/-- The generation of a group slot (R202). -/
def Core.ggenOf (k : Core) (g : Nat) : BitVec 8 := Table.getD k.ggen g 0

/-! The Mere map (R198 to R204). -/

/-- The key of a tile element of a core in the record of R255. -/
def tileKey (e : Nat × Nat) : Nat := e.1 * Config.tiles + e.2

/-- The size of a core's vector granule file (0), tile file (1) or accumulator file (2). -/
def fileSize (kind : Nat) : Nat :=
  if kind = 0 then Config.vectorGranules else if kind = 1 then Config.tiles else Config.accumulators
/-- The model's number of a storage element (R78, R248, log entry 8). -/
def modelElem (c kind e : Nat) : Nat := (e + Config.storePick c kind) % fileSize kind
/-- The storage element of a number of the model. -/
def storeElem (c kind n : Nat) : Nat :=
  (n + fileSize kind - Config.storePick c kind % fileSize kind) % fileSize kind

/-- What a byte of a core's window is (R200 to R202). -/
inductive MereAt where
  | scratch
  | tile (elem byte : Nat)
  | acc (elem byte : Nat)
  | granule (elem byte : Nat)
  | frameV (slot gen reg byte : Nat)
  | frameS (slot gen reg byte : Nat)
  | groupV (slot gen reg byte : Nat)
  | groupS (slot gen reg byte : Nat)
  | query (offset : Nat)
  | nothing
  deriving DecidableEq, Repr

/-- Whether a physical address lies in the Mere map. -/
def isMere (pa : Nat) : Bool := decide (Config.mereBase ≤ pa)
/-- The core whose window holds an address of the Mere map (R198). -/
def mereCore (pa : Nat) : Nat := (pa - Config.mereBase) / 2 ^ 36
/-- The offset in the window. -/
def mereOffset (pa : Nat) : Nat := (pa - Config.mereBase) % 2 ^ 36

/-- What an offset of a window names. -/
def mereAt (off : Nat) : MereAt :=
  let lo := off % 2 ^ 34
  match off / 2 ^ 34 with
  | 0 =>
    if lo < 0x40000 then .scratch
    else if 0x10000000 ≤ lo && decide (lo < 0x10000000 + 2048 * 64) && decide ((lo - 0x10000000) % 2048 < 1536) then
      .tile ((lo - 0x10000000) / 2048) ((lo - 0x10000000) % 2048)
    else if 0x20000000 ≤ lo && decide (lo < 0x20000000 + 1024 * 128) then
      .acc ((lo - 0x20000000) / 1024) ((lo - 0x20000000) % 1024)
    else if 0x30000000 ≤ lo && decide (lo < 0x30000000 + 1024 * 512) then
      .granule ((lo - 0x30000000) / 1024) ((lo - 0x30000000) % 1024)
    else .nothing
  | 1 =>
    let slot := lo / 2 ^ 24
    let gen := lo / 2 ^ 16 % 256
    let o := lo % 2 ^ 16
    if 2 ^ 14 ≤ o then .nothing
    else if o < 0x3C00 then .frameV slot gen (o / 128) (o % 128)
    else if o < 0x3D00 then .frameS slot gen (32 + (o - 0x3C00) / 8) (o % 8)
    else .nothing
  | 2 => if lo < 256 then .query lo else .nothing
  | _ =>
    let slot := lo / 2 ^ 28
    let gen := lo / 2 ^ 20 % 256
    let o := lo % 2 ^ 20
    if 48 ≤ slot || decide (2 ^ 11 ≤ o) then .nothing
    else if o < 0x400 then .groupV slot gen (120 + o / 128) (o % 128)
    else if o < 0x4F8 then .groupS slot gen (1 + (o - 0x400) / 8) (o % 8)
    else .nothing

/-- Byte k of a vector register, and whether its lane is poisoned. -/
def VReg.byte (r : VReg) (k : Nat) : Byte × Bool :=
  ((laneAt r.lanes (k / 4)).extractLsb' (8 * (k % 4)) 8, r.poison.getLsbD (k / 4))
/-- Byte k of a scalar, and whether it is poisoned. -/
def SReg.byte (r : SReg) (k : Nat) : Byte × Bool := (r.val.extractLsb' (8 * k) 8, r.poison)
/-- A byte of a word replaced. -/
def putByte {w : Nat} (x : BitVec w) (k : Nat) (b : Byte) : BitVec w :=
  (x &&& ~~~(BitVec.ofNat w 255 <<< (8 * k))) ||| ((b.setWidth w) <<< (8 * k))
/-- A vector register with byte k written; `clears` and `sets` act on the lane's poison. -/
def VReg.putByte (r : VReg) (k : Nat) (b : Byte) (clears sets : Bool) : VReg :=
  let bit := 1#32 <<< (k / 4)
  ⟨changeAt r.lanes (k / 4) (fun x => Machine.putByte x (k % 4) b),
   let q := if clears then r.poison &&& ~~~bit else r.poison
   if sets then q ||| bit else q⟩
/-- A scalar with byte k written. -/
def SReg.putByte (r : SReg) (k : Nat) (b : Byte) (clears sets : Bool) : SReg :=
  ⟨Machine.putByte r.val k b, sets || (r.poison && !clears)⟩

/-- The group that holds a frame's scalar granule, by slot (R78). -/
def Core.frameOwner (k : Core) (fr : Nat) : Option Nat :=
  (k.groups.find? (fun e => !e.2.out && (Table.get? e.2.frames fr).isSome)).map Prod.fst

/-- The frame or group register a view names, when its slot is held with the generation and the register lies in the
frame (R203): the group's slot. -/
def Core.viewOwner (k : Core) : MereAt → Option Nat
  | .frameV slot gen reg _ => match k.frameOwner slot with
    | some g => if (k.sgenOf slot).toNat = gen then
        match Table.get? k.groups g with
        | some x => if reg < 8 * (x.frame slot).grans.length then some g else none
        | none => none
      else none
    | none => none
  | .frameS slot gen _ _ => if (k.sgenOf slot).toNat = gen then k.frameOwner slot else none
  | .groupV slot gen _ _ | .groupS slot gen _ _ =>
    if (Table.get? k.groups slot).isSome && decide ((k.ggenOf slot).toNat = gen) then some slot else none
  | .scratch | .tile _ _ | .acc _ _ | .granule _ _ | .query _ | .nothing => none

/-- The group and number of the tile that holds an element of the tile file (R248). -/
def Core.tileOwner (k : Core) (elem : Nat) : Option (Nat × Nat) :=
  k.groups.findSome? (fun e => (e.2.tiles.find? (fun t => t.2.elem = elem)).map (fun t => (e.1, t.1)))
/-- The group and number of the accumulator that holds an element of the accumulator file (R248). -/
def Core.accOwner (k : Core) (elem : Nat) : Option (Nat × Nat) :=
  k.groups.findSome? (fun e => (e.2.accs.find? (fun t => t.2.elem = elem)).map (fun t => (e.1, t.1)))
/-- The group, frame and place of a vector granule (R27). -/
def Core.granOwner (k : Core) (elem : Nat) : Option (Nat × Nat × Nat) :=
  k.groups.findSome? (fun e => if e.2.out then none else e.2.frames.findSome? (fun f =>
    (findPos (fun n => decide (n = elem)) f.2.grans).map (fun i => (e.1, f.1, i))))

/-- Writes of tiles through the physical view noted as they issue, of those tiles that a matrix operation not yet done reads
(R255). `hits` says whether they write one of `n` bytes from a physical address on. -/
def State.noteTiles (s : State) (hits : Nat → Nat → Bool) : State :=
  let hit := fun (c : Nat) (t : Tile) => hits (Config.mereBase + c * 2 ^ 36 + 0x10000000 + 2048 * storeElem c 1 t.elem) 1536
  let read := s.cores.flatMap (fun e => e.2.mats.filterMap (fun o =>
    ((Table.get? e.2.groups o.who.slot).bind (fun g => Table.get? g.tiles o.tileNo)).bind (fun t =>
      if o.kind = .mm && hit e.1 t then some (tileKey (e.1, t.elem)) else none)))
  if read = [] then s else { s with tileWrites := read.foldl (fun t k => Table.set t k s.fresh) s.tileWrites }

/-! Storage that no group's register names: elements no group holds, and the channels' slots (R137, R201). -/

/-- The key of a byte of a storage element, by the model's number: kind 0 granules, 1 tiles, 2 accumulators. -/
def looseKey (kind n b : Nat) : Nat := (kind * 1024 + n) * 2048 + b

/-- The bytes over which poison is one: a lane of a granule, a unit of a tile, a quarter of an accumulator (R143). -/
def looseGrain (key : Nat) : Nat :=
  if key / 2048 < 1024 then 4 else if key / 2048 < 2048 then 64 else 256

/-- Whether the lane, unit or quarter of a byte is poisoned. -/
def Core.loosePoison (k : Core) (key : Nat) : Bool :=
  k.loose.any (fun e => decide (e.1 / looseGrain key = key / looseGrain key) && e.2.2)

/-- A byte of an element that no group holds: what the physical view has written there; 0 where no group has held it since
the core's reset (R284); else free (log entry 16). -/
def Core.looseRead (k : Core) (key c off fresh : Nat) : Byte × Bool :=
  (match Table.get? k.loose key with
   | some x => x.1
   | none => if k.held.contains (key / 2048) then Config.looseByte c off fresh else 0,
   k.loosePoison key)

/-- A byte written to an element that no group holds (R201). -/
def Core.looseWrite (k : Core) (key : Nat) (b : Byte) (clears sets : Bool) : Core :=
  let bad := sets || (k.loosePoison key && !clears)
  let g := looseGrain key
  let kept := if clears then k.loose.map (fun e => if e.1 / g = key / g then (e.1, (e.2.1, false)) else e) else k.loose
  { k with loose := Table.set kept key (b, bad) }

/-- The loose byte that a place of the physical view names, where no group and no full slot holds it. -/
def MereAt.loose (c : Nat) : MereAt → Option Nat
  | .tile e n => some (looseKey 1 (modelElem c 1 e) n)
  | .acc e n => some (looseKey 2 (modelElem c 2 e) n)
  | .granule e n => some (looseKey 0 (modelElem c 0 e) n)
  | .scratch | .frameV _ _ _ _ | .frameS _ _ _ _ | .groupV _ _ _ _ | .groupS _ _ _ _ | .query _ | .nothing => none

/-- The channel and position of a crew's slot, counted over its channels in order (log entry 16). -/
def chanSlot : Table Chan → Nat → Option (Nat × Nat)
  | [], _ => none
  | (n, x) :: t, k => if k < x.depth then some (n, k) else chanSlot t (k - x.depth)

/-- The task, channel and index among the full slots of a byte of a granule that a crew's channels hold (R137). -/
def State.chanByte (s : State) (c elem b : Nat) : Option (Nat × Nat × Nat) :=
  s.tasks.findSome? (fun e => if e.2.place ≠ c then none else
    match findPos (fun n => decide (n = elem)) e.2.chanGrans with
    | none => none
    | some i => match chanSlot e.2.chans (8 * i + b / 128) with
      | none => none
      | some (ch, pos) => match Table.get? e.2.chans ch with
        | none => none
        | some x =>
          let at' := (pos + x.depth - x.popPos % x.depth) % x.depth
          if at' < x.full.length then some (e.1, ch, at') else none)

/-- A full slot of a channel changed. -/
def Task.putSlot (t : Task) (ch i : Nat) (f : VReg → VReg) : Task :=
  { t with chans := Table.modify t.chans ch (fun x => { x with full := changeAt x.full i f }) }

/-- The elements that a core's groups and channels hold now. -/
def State.heldNow (s : State) (c : Nat) : List Nat :=
  (s.core c).groups.flatMap (fun e =>
    (if e.2.out then [] else e.2.frames.flatMap (fun f => f.2.grans)) ++
    e.2.tiles.map (fun t => 1024 + t.2.elem) ++ e.2.accs.map (fun a => 2048 + a.2.elem)) ++
  s.tasks.flatMap (fun e => if e.2.place = c then e.2.chanGrans else [])

/-- Whether a byte of an element is a register's, or a full slot's. -/
def State.ownedByte (s : State) (c key : Nat) : Bool :=
  let n := key / 2048 % 1024
  let k := s.core c
  if key / 2048 < 1024 then (k.granOwner n).isSome || (s.chanByte c n (key % 2048)).isSome
  else if key / 2048 < 2048 then (k.tileOwner n).isSome else (k.accOwner n).isSome

/-- A core with its record of elements held brought up to date: what the physical view wrote to an element before it was
taken is gone (R27, R201). -/
def State.settleHeld (s : State) (c : Nat) (k : Core) : Core :=
  { k with
    held := (s.heldNow c).foldl Table.insertNat k.held
    loose := k.loose.filter (fun e => !(s.ownedByte c e.1)) }

/-- Who reads: the core, slot and frame of a split, or nobody of the device's splits (R204). -/
abbrev Reader := Option (Nat × Nat × Nat)

/-- The 64-bit value of the query page at an offset, for the split that reads (R204). -/
def queryValue (k : Core) (c g fr : Nat) (off : Nat) : Nat :=
  let win := Config.mereAlias + c * 2 ^ 36
  let x := (Table.get? k.groups g)
  if off = 0 then win + 2 ^ 34 + fr * 2 ^ 24 + (k.sgenOf fr).toNat * 2 ^ 16
  else if off = 8 then win + 3 * 2 ^ 34 + g * 2 ^ 28 + (k.ggenOf g).toNat * 2 ^ 20
  else if 0x10 ≤ off && decide (off < 0x50) then
    match x.bind (fun y => Table.get? y.tiles ((off - 0x10) / 8)) with
    | some t => win + 0x10000000 + 2048 * storeElem c 1 t.elem
    | none => 0
  else if 0x50 ≤ off && decide (off < 0x90) then
    match x.bind (fun y => Table.get? y.accs ((off - 0x50) / 8)) with
    | some a => win + 0x20000000 + 1024 * storeElem c 2 a.elem
    | none => 0
  else if off = 0x90 then win
  else 0

/-- A byte of the Mere map as a reader finds it, with its poison (R200 to R204). -/
def mereRead (s : State) (who : Reader) (pa : Nat) : Byte × Bool :=
  let c := mereCore pa
  let off := mereOffset pa
  let k := s.core c
  let grp := fun g => Table.get? k.groups g
  if Config.cores ≤ c then (0, false)
  else match mereAt off with
  | .scratch => (Memory.get s.mem pa, s.poison.contains (pa / 64))
  | .tile e b => match k.tileOwner (modelElem c 1 e) with
    | some (g, n) => match grp g with
      | some x => ((x.readT n).bytes.getD b 0, (x.readT n).poison.getLsbD (b / 64))
      | none => (0, false)
    | none => k.looseRead (looseKey 1 (modelElem c 1 e) b) c off s.fresh
  | .acc e b => match k.accOwner (modelElem c 2 e) with
    | some (g, n) => match grp g with
      | some x => (((x.readA n).vals.getD (b / 4) 0).extractLsb' (8 * (b % 4)) 8, (x.readA n).poison.getLsbD (b / 256))
      | none => (0, false)
    | none => k.looseRead (looseKey 2 (modelElem c 2 e) b) c off s.fresh
  | .granule e b => match k.granOwner (modelElem c 0 e) with
    | some (g, fr, i) => match grp g with
      | some x => (x.readV fr (8 * i + b / 128)).byte (b % 128)
      | none => (0, false)
    | none => match s.chanByte c (modelElem c 0 e) b with
      | some (t, ch, i) => (((Table.get? s.tasks t).bind (fun x => Table.get? x.chans ch)).bind (fun x => x.full[i]?)
          |>.getD ⟨[], 0⟩).byte (b % 128)
      | none => k.looseRead (looseKey 0 (modelElem c 0 e) b) c off s.fresh
  | .frameV slot gen reg b => match (k.viewOwner (.frameV slot gen reg b)).bind grp with
    | some x => (x.readV slot reg).byte b
    | none => (0, false)
  | .frameS slot gen reg b => match (k.viewOwner (.frameS slot gen reg b)).bind grp with
    | some x => (x.readS slot reg).byte b
    | none => (0, false)
  | .groupV slot gen reg b => match (k.viewOwner (.groupV slot gen reg b)).bind grp with
    | some x => (x.readV 0 reg).byte b
    | none => (0, false)
  | .groupS slot gen reg b => match (k.viewOwner (.groupS slot gen reg b)).bind grp with
    | some x => (x.readS 0 reg).byte b
    | none => (0, false)
  | .query o => match who with
    | some (rc, g, fr) => if rc = c then (BitVec.ofNat 8 (queryValue k c g fr (o / 8 * 8) / 2 ^ (8 * (o % 8))), false)
      else (0, false)
    | none => (0, false)
  | .nothing => (0, false)

/-- Whether a write needs to land between two issue cycles of its group: the frame and group views (R203). -/
def mereLands (pa : Nat) : Bool :=
  isMere pa && (match mereAt (mereOffset pa) with
    | .frameV _ _ _ _ | .frameS _ _ _ _ | .groupV _ _ _ _ | .groupS _ _ _ _ => true
    | .scratch | .tile _ _ | .acc _ _ | .granule _ _ | .query _ | .nothing => false)

/-- The group that a byte of the Mere map belongs to, and what writing the byte does to it (R201, R203). `clears` says that
the same write covers the byte's whole lane, scalar or unit, `sets` that the data is poisoned. That no write through the
physical view clears the poison of an accumulator quarter, which R353 lists only ACLR, drains and APUT for, is a DESIGN CHOICE
(log entry 76). -/
def mereEdit (k : Core) (c : Nat) (m : MereAt) (b : Byte) (clears sets : Bool) : Option (Nat × (Group → Group)) :=
  match m with
  | .scratch => none
  | .tile e n => (k.tileOwner (modelElem c 1 e)).map (fun gt => (gt.1, fun x =>
      let r := x.readT gt.2
      let bit := 1#24 <<< (n / 64)
      let q := if clears then r.poison &&& ~~~bit else r.poison
      x.putT gt.2 { r with bytes := changeAt r.bytes n (fun _ => b), poison := if sets then q ||| bit else q }))
  | .acc e n => (k.accOwner (modelElem c 2 e)).map (fun ga => (ga.1, fun x =>
      let r := x.readA ga.2
      let bit := 1#4 <<< (n / 256)
      x.putA ga.2 { r with vals := changeAt r.vals (n / 4) (fun v => Machine.putByte v (n % 4) b),
                           poison := if sets then r.poison ||| bit else r.poison }))
  | .granule e n => (k.granOwner (modelElem c 0 e)).map (fun gfi => (gfi.1, fun x =>
      let reg := 8 * gfi.2.2 + n / 128
      x.putV gfi.2.1 reg ((x.readV gfi.2.1 reg).putByte (n % 128) b clears sets)))
  | .frameV slot gen reg n => (k.viewOwner (.frameV slot gen reg n)).map (fun g => (g, fun x =>
      x.putV slot reg ((x.readV slot reg).putByte n b clears sets)))
  | .frameS slot gen reg n => (k.viewOwner (.frameS slot gen reg n)).map (fun g => (g, fun x =>
      x.putS slot reg ((x.readS slot reg).putByte n b clears sets)))
  | .groupV slot gen reg n => (k.viewOwner (.groupV slot gen reg n)).map (fun g => (g, fun x =>
      x.putV 0 reg ((x.readV 0 reg).putByte n b clears sets)))
  | .groupS slot gen reg n => (k.viewOwner (.groupS slot gen reg n)).map (fun g => (g, fun x =>
      x.putS 0 reg ((x.readS 0 reg).putByte n b clears sets)))
  | .query _ => none
  | .nothing => none

/-- The offset of a place in its register, unit or element. -/
def MereAt.offset : MereAt → Nat
  | .tile _ n | .acc _ n | .granule _ n | .query n => n
  | .frameV _ _ _ n | .frameS _ _ _ n | .groupV _ _ _ n | .groupS _ _ _ n => n
  | .scratch | .nothing => 0

/-- The full slot of a channel that a place of the physical view names. -/
def MereAt.chanAt (s : State) (c : Nat) : MereAt → Option (Nat × Nat × Nat)
  | .granule e n => s.chanByte c (modelElem c 0 e) n
  | .scratch | .tile _ _ | .acc _ _ | .frameV _ _ _ _ | .frameS _ _ _ _ | .groupV _ _ _ _ | .groupS _ _ _ _ | .query _
  | .nothing => none

/-- One byte written at a place of a core's Mere map: the scratchpad's bytes are kept in memory at the physical
address `pa` (R201). -/
def mereStore (s : State) (c : Nat) (m : MereAt) (pa : Nat) (b : Byte) (clears sets : Bool) : State :=
  if decide (Config.cores ≤ c) || (s.core c).inReset then s
  else if m = .scratch then { s with mem := Memory.put s.mem pa b }
  else match mereEdit (s.core c) c m b clears sets with
    | some gf => s.modGroup c gf.1 gf.2
    | none => match m.chanAt s c with
      | some tci => s.modTask tci.1 (fun t => t.putSlot tci.2.1 tci.2.2 (fun v => v.putByte (m.offset % 128) b clears sets))
      | none => match m.loose c with
        | some key => s.modCore c (fun k => k.looseWrite key b clears sets)
        | none => s

/-- One byte written to the Mere map: the physical view always, the other views where the slot is held; a write while
the core is in reset is discarded (R201, R203, R285). -/
def mereWrite (s : State) (pa : Nat) (b : Byte) (clears sets : Bool) : State :=
  mereStore s (mereCore pa) (mereAt (mereOffset pa)) pa b clears sets

/-- The granularity of poison at a byte of the Mere map: lane, scalar or unit, in bytes (R143). -/
def mereGrain (pa : Nat) : Nat :=
  match mereAt (mereOffset pa) with
  | .granule _ _ | .frameV _ _ _ _ | .groupV _ _ _ _ => 4
  | .frameS _ _ _ _ | .groupS _ _ _ _ => 8
  | .acc _ _ => 256
  | .scratch | .tile _ _ | .query _ | .nothing => 64

/-- The group whose `stale` counts a dropped write, by its task and its number in the crew: the one to which the frame or group
slot belongs or last belonged, if it still exists, resident or saved (R203, R298). -/
def Core.staleOwner (k : Core) : MereAt → Option (Nat × Nat)
  | .frameV slot _ _ _ | .frameS slot _ _ _ => Table.get? k.owners slot
  | .groupV slot _ _ _ | .groupS slot _ _ _ => Table.get? k.lastIn slot
  | .scratch | .tile _ _ | .acc _ _ | .granule _ _ | .query _ | .nothing => none

/-- Raw counter signals raised in the present cycle for a context of a core (R311). -/
def State.raise (s : State) (c ctx : Nat) (bits : BitVec 64) : State :=
  s.modCore c (fun k => { k with signals := Table.set k.signals ctx (Table.getD k.signals ctx 0 ||| bits) })

/-- One raw counter signal raised in the present cycle for a context of a core (R311). -/
def State.signal (s : State) (c ctx n : Nat) : State := s.raise c ctx (1#64 <<< n)

/-- The context of the group in a slot. -/
def State.ctxOf (s : State) (c g : Nat) : Nat :=
  match (s.group? c g).bind (fun x => Table.get? s.tasks x.task) with
  | some t => t.ctx
  | none => 0

/-- 1 added to `stale` of a group (R24, R29). -/
def State.bumpStale (s : State) (c g : Nat) : State :=
  (s.modGroup c g (fun x => { x with stale := bumpStop x.stale })).signal c (s.ctxOf c g) 39

/-- A saved group with 1 added to its `stale` (R203). -/
def SavedGroup.countStale (x : SavedGroup) : SavedGroup :=
  { x with group := { x.group with stale := bumpStop x.group.stale }, dirty := true }

/-- 1 added to `stale` of a group of a task that a core holds, or that is saved (R203). -/
def State.countStale (s : State) (c tid gid : Nat) : State :=
  match (s.core c).groups.find? (fun e => decide (e.2.task = tid) && decide (e.2.gid = gid)) with
  | some e => s.bumpStale c e.1
  | none => s.modTask tid (fun t => { t with saved := t.saved.map (fun x => if x.group.gid = gid then x.countStale else x) })

/-- The group whose `stale` counts a byte of the frame or group view that is dropped: its core, task and number (R203). -/
def dropOwner (s : State) (pa : Nat) : Option (Nat × Nat × Nat) :=
  let c := mereCore pa
  let k := s.core c
  let at' := mereAt (mereOffset pa)
  if mereLands pa && decide (c < Config.cores) && !k.inReset && (k.viewOwner at').isNone then (k.staleOwner at').map (fun g => (c, g))
  else none

/-- A list with an element added that it has not. -/
def addOnce {α : Type} [BEq α] (l : List α) (x : α) : List α := if l.contains x then l else l ++ [x]

/-- The `stale` counts of one write whose bytes in the frame and group views are dropped: one for each group whose slot a
dropped byte names (R203). -/
def mereDrop (s : State) (pas : List Nat) : State :=
  ((pas.filterMap (dropOwner s)).foldl addOnce []).foldl (fun st o => st.countStale o.1 o.2.1 o.2.2) s

/-! Physical reads and writes. -/

/-- A byte by physical address, with its poison. -/
def physRead (s : State) (who : Reader) (pa : Nat) : Byte × Bool :=
  if isMere pa then mereRead s who pa else (Memory.get s.mem pa, s.poison.contains (pa / 64))

/-- Whether a write covers every byte of the aligned unit of `n` bytes that holds `pa`. -/
def covers (cells : List (Nat × Byte)) (pa n : Nat) : Bool :=
  (upto n).all (fun k => cells.any (fun c => decide (c.1 = pa / n * n + k)))

/-- The poisoned units after a write of clean bytes: those it covers whole are clean (R279). -/
def clearUnits (poison : List Nat) (cells : List (Nat × Byte)) : List Nat :=
  poison.filter (fun u => !(covers cells (64 * u) 64))

/-- Whether a byte of the Mere map is discarded, its core being in reset or absent (R285). -/
def discards (s : State) (pa : Nat) : Bool :=
  isMere pa && (decide (Config.cores ≤ mereCore pa) || (s.core (mereCore pa)).inReset)

/-- One write of firmware's, or of bytes no Access column closes: its bytes by physical address, none of them poisoned
(R279, R280, R285). -/
def writeRaw (s : State) (cells : List (Nat × Byte)) : State :=
  let plain := cells.filter (fun c => !(isMere c.1))
  let mere := cells.filter (fun c => isMere c.1)
  let s1 := { s with
    mem := Memory.putAll s.mem plain
    poison := clearUnits s.poison (cells.filter (fun c => !(discards s c.1))) }
  mere.foldl (fun st c => mereWrite st c.1 c.2 (covers cells c.1 (mereGrain c.1)) false) (mereDrop s1 (mere.map Prod.fst))

/-- The bytes from a physical address as a number, little-endian. -/
def physNat (s : State) (who : Reader) (pa n : Nat) : Nat :=
  leNat ((upto n).map (fun k => (physRead s who (pa + k)).1))

/-- Whether any of n bytes is poisoned. -/
def physPoison (s : State) (who : Reader) (pa n : Nat) : Bool :=
  (upto n).any (fun k => (physRead s who (pa + k)).2)

/-! Pages and translation. -/

/-- The bytes of a page of a size code (R207, R334). -/
def pageBytes (size : Nat) : Nat :=
  if size = 0 then 2 ^ 16 else if size = 1 then 2 ^ 21 else if size = 2 then 2 ^ 29 else 2 ^ 34

/-- The page of an ASID that holds a virtual address. -/
def findPage (s : State) (asid va : Nat) : Option Page :=
  s.hub.pages.find? (fun p => decide (p.asid = asid) && decide (p.va ≤ va) && decide (va < p.va + pageBytes p.size))

/-- Whether a byte belongs to the fields of a stamp buffer that are RO or RZ: all of its header but `read`, and its records (R308,
R309). -/
def stampFixed (s : State) (pa : Nat) : Bool :=
  let closed := fun (x : Ctx) (o : Nat) => decide (o < 8) || (decide (0x10 ≤ o) && decide (o < 64 + 64 * x.ssize))
  s.hub.ctxs.any (fun e => decide (e.2.sbuf ≠ 0) && s.hub.pages.any (fun p => decide (p.asid = e.2.asid) && p.res &&
    decide (p.pa ≤ pa) && decide (pa < p.pa + pageBytes p.size) && decide (e.2.sbuf ≤ p.va + (pa - p.pa)) &&
    closed e.2 (p.va + (pa - p.pa) - e.2.sbuf)))

/-- Whether a byte belongs to the fields of a queue's control block that are RO or RZ, 0x18 to 0x3F of the block (R327), or to
those of a stamp buffer (that R11 binds every store but the device's own is DEDUCED, log entry 54). -/
def blockFixed (s : State) (pa : Nat) : Bool :=
  let within := fun b => decide (b + 0x18 ≤ pa) && decide (pa < b + 0x40)
  (s.hub.aen && within s.hub.admq) || (decide (s.hub.adminRetire ≠ 0) && within s.hub.adminAt) ||
  s.hub.queues.any (fun e => match findPage s e.2.asid e.2.block with
    | some p => p.res && within (p.pa + (e.2.block - p.va))
    | none => false) || stampFixed s pa

/-- The bytes of a store that take effect: those of the closed fields of a control block or a stamp buffer do nothing (R11, R308,
R309, R327). -/
def openCells (s : State) (cells : List (Nat × Byte)) : List (Nat × Byte) := cells.filter (fun c => !(blockFixed s c.1))

/-- One write of a program, an engine or the host: its bytes by physical address, none of them poisoned. A unit it covers
whole is clean after it (R279). -/
def writeCells (s : State) (cells : List (Nat × Byte)) : State :=
  writeRaw { s with poison := clearUnits s.poison (cells.filter (fun c => !(discards s c.1))) } (openCells s cells)

/-- What an access needs of a page (R207). -/
structure Need where
  r : Bool
  w : Bool
  m : Bool
  /-- the Mere alias is open to it (R199) -/
  mere : Bool
  /-- a copy, which may use the Helas alias (R320) -/
  helas : Bool
  deriving DecidableEq, Repr

/-- A load (R71). -/
def Need.load : Need := ⟨true, false, false, true, false⟩
/-- A store (R71). -/
def Need.store : Need := ⟨false, true, false, true, false⟩
/-- An atomic (R220, R199). -/
def Need.atomic : Need := ⟨true, true, false, false, false⟩
/-- FLD and FTAKE (R225). -/
def Need.take : Need := ⟨true, false, true, false, false⟩
/-- FPUT and FFILL (R225). -/
def Need.fill : Need := ⟨false, true, true, false, false⟩
/-- TOUCH (R219). -/
def Need.touch : Need := ⟨true, false, false, false, false⟩

/-- A copy's read (R268). -/
def Need.copyIn : Need := { Need.load with helas := true }
/-- A copy's write (R268). -/
def Need.copyOut : Need := { Need.store with helas := true }

/-- Where an access at a virtual address goes. -/
inductive Place where
  /-- a physical address -/
  | phys (pa : Nat)
  /-- a page that is not resident: its virtual address -/
  | absent (page : Nat)
  /-- cause 6 -/
  | bad
  deriving DecidableEq, Repr

/-- Virtual addresses of the pending-launch pool (log entry 7). -/
def inPool (va : Nat) : Bool := decide (Config.poolBase ≤ va) && decide (va < Config.poolBase + 256 * Config.poolSlots)
/-- The physical address of a byte of the pool (R341, log entry 7). -/
def poolPhys (va : Nat) : Nat := Config.reservedBase + (va - Config.poolBase)

/-- Whether a context holds a right. -/
def State.right (s : State) (ctx : Nat) (f : Ctx → Bool) : Bool :=
  match Table.get? s.hub.ctxs ctx with
  | some x => f x
  | none => false

/-- Translation with the protection check of R71 and R207, for a context in its ASID (R199, R320). -/
def translate (s : State) (ctx asid : Nat) (need : Need) (va : Nat) : Place :=
  if 2 ^ 56 ≤ va then .bad
  else if Config.helasAlias ≤ va && decide (va < Config.helasAlias + 2 ^ 47) then .bad
  else if Config.mereAlias ≤ va && decide (va < Config.helasAlias) then
    let pa := Config.mereBase + (va - Config.mereAlias)
    let right := if mereOffset pa / 2 ^ 34 = 0 then s.right ctx Ctx.mereP else s.right ctx Ctx.mereF
    if need.mere && !need.m && right then .phys pa else .bad
  else if inPool va then (if need.m then .bad else .phys (poolPhys va))
  else match findPage s asid va with
    | none => .bad
    | some p =>
      if (need.r && !p.r) || (need.w && !p.w) || (need.m && (!p.m || decide (Config.hostBase ≤ p.pa))) then .bad
      else if p.res then .phys (p.pa + (va - p.va)) else .absent p.va

/-- The physical address of a byte of a task's TCB, where it is resident. -/
def tcbPhys (s : State) (t : Task) : Option Nat :=
  if t.isRoot then
    match findPage s t.asid t.va with
    | some p => if p.res then some (p.pa + (t.va - p.va)) else none
    | none => none
  else some (poolPhys t.va)

/-- Whether a store of a task to a physical address is beyond the Access column of a TCB (R354). With no task (0) the
store is the hub's: only the pool, which firmware keeps, is closed to it. -/
def tcbForbids (s : State) (own : Nat) (pa : Nat) : Bool :=
  let pool := decide (Config.reservedBase ≤ pa) && decide (pa < Config.reservedBase + 256 * Config.poolSlots)
  let mine := match (Table.get? s.tasks own).bind (tcbPhys s) with
    | some b => decide (b + 128 ≤ pa) && decide (pa < b + 256)
    | none => false
  let root := s.tasks.any (fun e => e.2.isRoot && (match tcbPhys s e.2 with
    | some b => decide (b ≤ pa) && decide (pa < b + 256)
    | none => false))
  (pool || (decide (own ≠ 0) && root)) && !mine

/-- Whether a store of a task of an ASID to a virtual address whose page is not resident is beyond the Access column of a root
TCB: the check is made whether or not the page is resident (R207, R354). -/
def tcbForbidsAt (s : State) (asid own va : Nat) : Bool :=
  let within := fun (t : Task) (lo : Nat) => t.isRoot && decide (t.asid = asid) && decide (t.va + lo ≤ va) && decide (va < t.va + 256)
  decide (own ≠ 0) && s.tasks.any (fun e => within e.2 0) && !(match Table.get? s.tasks own with
    | some t => within t 128
    | none => false)

/-- Whether a load of a pool slot reads zeros: the slot holds no task of the context (R354). -/
def poolHides (s : State) (ctx pa : Nat) : Bool :=
  if Config.reservedBase ≤ pa && decide (pa < Config.reservedBase + 256 * Config.poolSlots) then
    match Table.get? s.tasks (Config.poolBase + (pa - Config.reservedBase) / 256 * 256) with
    | some t => decide (t.ctx ≠ ctx)
    | none => true
  else false

/-- A byte as a task's load finds it: TCBs of other contexts hidden (R354). -/
def taskRead (s : State) (ctx : Nat) (who : Reader) (pa : Nat) : Byte × Bool :=
  if poolHides s ctx pa then (0, false) else physRead s who pa

/-- The address of the first 128-byte block of a range at which a test fails, as the lowest byte that fails; the
attributes of R207 and R354 are uniform over such a block. -/
def firstBad (bad : Nat → Bool) : Nat → Nat → Nat → Option Nat
  | 0, _, _ => none
  | fuel + 1, va, stop =>
    if stop ≤ va then none
    else if bad va then some va
    else firstBad bad fuel ((va / 128 + 1) * 128) stop

/-- The lowest byte of [va, va + len) that an access may not reach (R268). -/
def rangeBad (s : State) (ctx asid own : Nat) (need : Need) (va len : Nat) : Option Nat :=
  firstBad (fun a =>
    if Config.helasAlias ≤ a && decide (a < Config.helasAlias + 2 ^ 47) then
      !need.helas || decide (2 ^ 41 ≤ (a - Config.helasAlias) % 2 ^ 44) || !s.right ctx Ctx.helas
    else match translate s ctx asid need a with
      | .bad => true
      | .absent _ => need.w && tcbForbidsAt s asid own a
      | .phys pa => need.w && tcbForbids s own pa) (len / 128 + 2) va (va + len)

/-- The absent pages of [va, va + len), each with the lowest address of the range on it (R211, R268). -/
def rangeAbsent (s : State) (ctx asid : Nat) (need : Need) : Nat → Nat → Nat → List Nat
  | 0, _, _ => []
  | fuel + 1, va, stop =>
    if stop ≤ va then []
    else match translate s ctx asid need va with
      | .absent _ => va :: rangeAbsent s ctx asid need fuel ((va / 65536 + 1) * 65536) stop
      | .phys _ | .bad => rangeAbsent s ctx asid need fuel ((va / 65536 + 1) * 65536) stop

/-- The bytes of [va, va + len) that an access may not reach: the lowest of each 64 KiB block (R268). -/
def rangeBads (s : State) (ctx asid own : Nat) (need : Need) : Nat → Nat → Nat → List Nat
  | 0, _, _ => []
  | fuel + 1, va, stop =>
    if stop ≤ va then []
    else
      let next := min stop ((va / 65536 + 1) * 65536)
      (rangeBad s ctx asid own need va (next - va)).toList ++ rangeBads s ctx asid own need fuel next stop

/-- One address for each place of a list of addresses: the lowest on a mapped page, and the lowest of a 64 KiB block where no
page is mapped (R268). -/
def lowestPerPlace (s : State) (asid : Nat) (vas : List Nat) : List Nat :=
  let place := fun (va : Nat) => match findPage s asid va with
    | some p => p.va
    | none => va / 65536 * 65536
  let places := vas.foldl (fun l va => Table.insertNat l (place va)) []
  places.map (fun b => (vas.filter (fun va => decide (place va = b))).foldl min (2 ^ 60))

/-- One address for each distinct absent page of a list of addresses: the lowest on it (R211, R212). -/
def lowestPerPage (s : State) (asid : Nat) (vas : List Nat) : List Nat :=
  let pages := vas.foldl (fun l va => match findPage s asid va with
    | some p => Table.insertNat l p.va
    | none => l) []
  pages.map (fun pv => (vas.filter (fun va => match findPage s asid va with
    | some p => decide (p.va = pv)
    | none => false)).foldl min (2 ^ 60))

end Sys2Proof.Machine
end

