-- ==== Sys2Proof/Machine/Ops.lean ====
section
/-! DEFINITION. The shared operations of the device: time and counters (R310 to R312), fault records (R212), the TCB image
(R165), ending groups, unwinding (R189), exhaustion (R39, R188), taking a trap (R36 to R38, R276) and returning from it
(R88, R277), and the issue of an instruction in the order of R40. -/

namespace Sys2Proof.Machine

/-! The issuing split. -/

/-- A split with its core, group and task. -/
structure View where
  sel   : Sel
  core  : Core
  group : Group
  split : Split
  task  : Task
  deriving DecidableEq, Repr

/-- The split at a place, whatever its state. -/
def State.viewAt (s : State) (sel : Sel) : Option View :=
  match s.group? sel.core sel.slot with
  | some g => match g.splits[sel.idx]?, Table.get? s.tasks g.task with
    | some sp, some t => some ⟨sel, s.core sel.core, g, sp, t⟩
    | _, _ => none
  | none => none

/-- Whether a split may issue as far as its own state goes: ready and not stopped for a save, its task running and not
being saved, its group not halted, its frames in the register file and not being spilled, no record standing on its spill
areas, its core in service (R130, R292, R293, R177, R315, R287, R126, R284). -/
def View.live (v : View) : Bool :=
  decide (v.split.state = .ready) && decide (v.split.stop = .no) && decide (v.task.state = .running) &&
  v.task.saving.isNone && !v.group.halted && !v.group.out && !v.group.leaving && !v.group.stall && !v.core.inReset

/-- A group with its registers as a cycle found them: the scalars, vectors, predicates, tiles, accumulators and special
registers, and its pennants; a stop or a missing spill area that an instruction of the cycle met does not hold the others
(R61, R126, R315). -/
def Group.asBefore (g b : Group) : Group :=
  { g with
    s := b.s, v := b.v, p := b.p, tiles := b.tiles, accs := b.accs
    sat := b.sat, mfr := b.mfr, fcr := b.fcr, tvb := b.tvb, tca := b.tca, tpc := b.tpc, tval := b.tval, mb := b.mb
    dual := b.dual, stale := b.stale, slip := b.slip, pennants := b.pennants, halted := b.halted
    stall := b.stall
    frames := g.frames.map (fun e => match Table.get? b.frames e.1 with
      | some f => (e.1, { e.2 with v := f.v, s := f.s })
      | none => e) }

/-- A split as it reads in a cycle that it shares: registers, pending writes and parked accesses as the cycle found them
(R60, R61). -/
def View.shared (v : View) (x : Together) : View :=
  { v with
    group := v.group.asBefore x.before
    core := { v.core with
      loads := x.loads, copies := x.copies, mats := x.mats
      groups := Table.set v.core.groups v.sel.slot x.before } }

/-- The selected split, if it is live; after an alarm with policy halt nothing issues (R339). -/
def State.view? (s : State) : Option View :=
  match s.cur with
  | some sel => match s.viewAt sel with
    | some w =>
      let v := match s.together with
        | some x => w.shared x
        | none => w
      if v.live && !s.hub.halted then some v else none
    | none => none
  | none => none

/-- The current frame of the split. -/
def View.fr (v : View) : Nat := v.split.frame
/-- The mask of the split. -/
def View.m (v : View) : W32 := v.split.mask
/-- `read_reg(S, n)` of the issuing split (R41). -/
def View.rs (v : View) (n : Nat) : W64 := v.group.sval v.fr n
/-- The lanes of vector register n as the issuing split reads them. -/
def View.rv (v : View) (n : Nat) : Lanes := v.group.lanes v.fr n
/-- The frame record of the split's frame. -/
def View.frame (v : View) : Frame := v.group.frame v.fr
/-- The number of the split's task. -/
def View.tid (v : View) : Nat := v.group.task
/-- The reader of the query page that the split is (R204). -/
def View.reader (v : View) : Reader := some (v.sel.core, v.sel.slot, v.fr)
/-- The identifiers of the split's pennant stack, top first, at most `n` (R302, R305). -/
def pennantTop (g : Group) (ptop n : Nat) : List (BitVec 24) :=
  (upto (min n ptop)).map (fun k => Table.getD g.pennants (ptop - 1 - k) 0)
/-- Whose operation this is. -/
def View.who (v : View) : Who :=
  ⟨v.sel.slot, v.core.ggenOf v.sel.slot, v.group.gid, v.tid, v.task.ctx, v.task.asid, lowLane v.m, v.m,
   pennantTop v.group v.split.ptop 4⟩

/-- The state with the group of a place changed. -/
def State.onGroup (s : State) (sel : Sel) (f : Group → Group) : State := s.modGroup sel.core sel.slot f
/-- The state with the split of a place changed. -/
def State.onSplit (s : State) (sel : Sel) (f : Split → Split) : State :=
  s.onGroup sel (fun g => { g with splits := changeAt g.splits sel.idx f })

/-! Time and counters. -/

/-- The core's own cycle count, `cyc` (R24, R26). -/
def State.cyc (s : State) (c : Nat) : Nat := s.tick - (s.core c).base

/-- Whether an operation belongs to the group that now holds its slot (R202). The task tells it from one that a saved group
left under a number that a core reset, or a full round of generations, has given again (R284, R297). -/
def Core.owns (k : Core) (w : Who) : Bool :=
  match Table.get? k.groups w.slot with
  | some g => decide (k.ggenOf w.slot = w.ggen) && decide (g.task = w.task)
  | none => false

/-- Whether an operation belongs to the group that now holds a slot. -/
def Core.ownsAt (k : Core) (slot : Nat) (w : Who) : Bool := decide (w.slot = slot) && k.owns w

/-- Whether two operations are of one group. -/
def Who.sameGroup (w x : Who) : Bool :=
  decide (w.slot = x.slot) && decide (w.ggen = x.ggen) && decide (w.task = x.task)

/-- The class of a parked access in the counters of R90: 0 loads, 1 stores. -/
def accessClass : Instr → Option Nat
  | .st _ _ _ | .vst _ _ _ | .vstc _ _ _ | .fput _ _ _ | .ffill _ _ _ => some 1
  | .ld _ _ _ | .lds _ _ _ | .vld _ _ _ | .vldc _ _ _ | .touch _ | .amo _ _ _ _ _ | .vamo _ _ _ _ | .cas _ _ _ _
  | .fld _ _ _ | .ftake _ _ _ => some 0
  | _ => none

/-- The class of what a parked split waits for (R90). -/
def waitClass : Wait → Option Nat
  | .faults _ a | .tarn a | .busy a _ => accessClass a.instr
  | .touch => some 0
  | .none | .fetch _ | .data | .push _ _ | .pop _ _ | .enq _ _ _ _ _ | .join _ _ | .wellspring _ | .frame
  | .waitc _ _ _ _ => none

/-- The splits of a group parked on an access of a class. -/
def parkedIn (g : Group) (cls : Nat) : Nat :=
  ((g.splits ++ g.spilled).filter (fun sp => decide (waitClass sp.wait = some cls))).length

/-- The four counters of a group: loads, stores, copies, matrix operations (R90). -/
def groupCounters (k : Core) (slot : Nat) (g : Group) : Nat × Nat × Nat × Nat :=
  let own := k.ownsAt slot
  ((k.loads.filter (fun o => own o.who)).length + parkedIn g 0,
   (k.stores.filter (fun o => own o.who)).length + parkedIn g 1,
   (k.copies.filter (fun o => own o.who)).length,
   (k.mats.filter (fun o => own o.who)).length)

/-- Whether the array works on a matrix operation: its pass has begun and has not ended (R255, R262). -/
def MatOp.runs (o : MatOp) : Bool := o.started && !o.drained && !o.absent

/-- Whether every split of a group is in state parked: a record on a spill area stands, or the group waits for its refill (R114,
R126, R287). What each split was doing stays in its entry, and it goes on with that afterwards. -/
def Group.held (g : Group) : Bool := g.stall || g.out

/-- An entry as its group shows it in memory: of a held group every split is in state parked (R114, R126). -/
def Group.asShown (g : Group) (sp : Split) : Split := if g.held then { sp with state := .parked } else sp

/-- The signals that are levels in the present cycle, for the crews of a context; the splits of a held group are all in state
parked (R126, R311). -/
def levelSignals (s : State) (c ctx : Nat) : BitVec 64 :=
  let k := s.core c
  let gs := k.groups.filter (fun e => decide (s.ctxOf c e.1 = ctx))
  let any := fun (n : Nat) (f : Nat × Group → Bool) => if gs.any f then 1#64 <<< n else 0
  let own := fun (w : Who) => decide (w.ctx = ctx)
  let flag := fun (n : Nat) (b : Bool) => if b then 1#64 <<< n else (0 : BitVec 64)
  flag 0 true |||
  any 5 (fun e => !e.2.held && k.active.any (fun a => decide (a.1 = e.1)) &&
    e.2.splits.any (fun sp => decide (sp.state = .ready) && decide (sp.lastIssue ≠ s.tick + 1))) |||
  any 12 (fun e => !e.2.held && (e.2.splits ++ e.2.spilled).any (fun sp => decide (sp.state = .frame))) |||
  any 16 (fun e => decide ((groupCounters k e.1 e.2).1 ≠ 0)) |||
  any 17 (fun e => decide ((groupCounters k e.1 e.2).2.1 ≠ 0)) |||
  any 18 (fun e => decide ((groupCounters k e.1 e.2).2.2.1 ≠ 0)) |||
  any 19 (fun e => decide ((groupCounters k e.1 e.2).2.2.2 ≠ 0)) |||
  flag 32 (k.mats.any (fun o => own o.who && o.runs)) ||| flag 33 (k.mats.any (fun o => own o.who && o.runs && o.dual)) |||
  flag 35 (k.copies.any (fun o => own o.who))

/-- The signals that show timing only: 15 and 20 to 23 (R311, log entry 12). -/
def timingMask : BitVec 64 := 0xF08000

/-- The signals of copy units: one 64-byte unit of a context in a cycle (R311). -/
def Core.unitSignals (k : Core) (ctx : Nat) : BitVec 64 :=
  if Table.getD k.unitsDue ctx 0 = 0 then 0 else 1#64 <<< 36

/-- The copy units whose cycle of signal 36 is still to come after this one. -/
def Core.unitsLeft (k : Core) : Table Nat := (k.unitsDue.map (fun e => (e.1, e.2 - 1))).filter (fun e => decide (e.2 ≠ 0))

/-- Field [hi:lo] of a derived-event word (R312). -/
def derivedField (w : W64) (hi lo : Nat) : Nat := W64.bits w hi lo

/-- x(c) of a derived-event word: the AND of the operands in use, each inverted where `inv` says; 0 with none (R312). -/
def derivedX (w : W64) (raw : BitVec 64) : Bool :=
  decide (derivedField w 27 24 ≠ 0) && (upto 4).all (fun i =>
    !((derivedField w 27 24).testBit i) ||
      (raw.getLsbD (derivedField w (6 * i + 5) (6 * i)) != (derivedField w 31 28).testBit i))

/-- The lowest derived-event word that is a histogram (R312). -/
def histogramWord (derived : List W64) : Option Nat :=
  findPos (fun w => decide (derivedField w 27 24 ≠ 0) && decide (derivedField w 33 32 = 3)) derived

/-- A counter with 1 added; it stops at 2^48 − 1 (R312). -/
def bumpCounter (c : BitVec 48) : BitVec 48 := if c = BitVec.allOnes 48 then c else c + 1

/-- The histogram counter of a run of length r: 8 + the number of edges not above r (R312). -/
def histogramBin (edges : List W16) (r : Nat) : Nat := 8 + (edges.filter (fun e => decide (e.toNat ≤ r))).length

/-- A run that ends is counted in its bin (R312). -/
def endRun (set : CtrSet) (r : Nat) : CtrSet :=
  if r = 0 then set else { set with counters := changeAt set.counters (histogramBin set.edges r) bumpCounter }

/-- A set after one cycle with given raw signals (R312). -/
def sampleSet (set : CtrSet) (raw : BitVec 64) : CtrSet :=
  let xs := set.derived.map (fun w => derivedX w raw)
  let runs' := (xs.zip set.runs).map (fun e => if e.1 then e.2 + 1 else 0)
  let events := ((set.derived.zip xs).zip (set.runs.zip runs')).map (fun e =>
    match derivedField e.1.1 33 32 with
    | 0 => e.1.2
    | 1 => e.1.2 && decide (e.2.1 = 0)
    | 2 => decide (derivedField e.1.1 27 24 ≠ 0) && decide (derivedField e.1.1 63 48 ≤ e.2.2)
    | _ => false)
  let hist := histogramWord set.derived
  let counters' := (set.counters.zip (upto 16)).map (fun e =>
    let sel := (set.selects.getD e.2 0).toNat
    if hist.isSome && decide (8 ≤ e.2) then e.1
    else if sel / 16 % 2 = 1 && events.getD (sel % 16) false then bumpCounter e.1 else e.1)
  let set' := { set with counters := counters', runs := runs' }
  match hist with
  | some h => if !(xs.getD h false) then endRun set' (set.runs.getD h 0) else set'
  | none => set'

/-- A core at the end of a cycle: loaded sets of open windows sample the cycle's signals (R311). -/
def State.endCore (s : State) (c : Nat) (k : Core) : Core :=
  { (s.settleHeld c k) with
    signals := []
    unitsDue := k.unitsLeft
    sets := k.sets.map (fun x =>
      match (Table.get? s.hub.ctxs x.1).bind Ctx.capture with
      | some _ => (x.1, sampleSet x.2 (Table.getD k.signals x.1 0 ||| levelSignals s c x.1 ||| k.unitSignals x.1 |||
          (Config.timingSignals c s.tick &&& timingMask)))
      | none => x) }

/-- The end of a cycle: the count of cycles advances (R9), and every core ends its cycle. -/
def State.advance (s : State) : State :=
  { s with tick := s.tick + 1, cores := s.cores.map (fun e => (e.1, s.endCore e.1 e.2)) }

/-- The end of an issue: its cycle ends, unless the core's other side issues in the same cycle (R131). -/
def State.endCycle (s : State) : State := if s.hold then s else s.advance

/-! Areas in the range that firmware keeps (R341). -/

/-- Bytes by address, as cells from a physical address. -/
def imageCells (pa : Nat) (bs : List Byte) : List (Nat × Byte) := ((upto bs.length).zip bs).map (fun e => (pa + e.1, e.2))

/-- Bytes that the device itself stores: a unit they cover whole is clean (R279). -/
def State.putBytes (s : State) (pa : Nat) (bs : List Byte) : State :=
  { s with mem := Memory.putAll s.mem (imageCells pa bs), poison := clearUnits s.poison (imageCells pa bs) }

/-- Where the save image of a task, an area of a core's group slot, or the fault ring lies in the range that firmware
keeps (R212, R341, log entry 17). -/
def areaPhys (n : Nat) : Nat := Config.reservedBase + 2 ^ 24 + Config.imageAddress n % 2 ^ 34 / 256 * 256

/-- The number of a group slot's split spill area (R115), for `areaPhys`. -/
def splitAreaOf (c slot : Nat) : Nat := 4 * (48 * c + slot)
/-- The number of a group slot's frame spill area (R287). -/
def frameAreaOf (c slot : Nat) : Nat := 4 * (48 * c + slot) + 1
/-- The number of a task's crew image (R294). -/
def imageOf (tid : Nat) : Nat := 4 * tid + 2
/-- The number of a group slot's pennant spill area (R303). -/
def pennantAreaOf (c slot : Nat) : Nat := 4 * (48 * c + slot) + 3
/-- The number of the fault ring (R212). -/
def ringArea : Nat := 4 * (48 * Config.cores) + 3

/-- An area stored from its start. -/
def State.storeArea (s : State) (n : Nat) (bs : List Byte) : State := s.putBytes (areaPhys n) bs

/-- The bytes of a split spill area (R115), which a move reads or writes whole; 0 for the others, whose moves say what they
touch. -/
def areaLength (n : Nat) : Nat := if n % 4 = 0 then 832 else 0

/-- Whether a 64-byte unit of a range of memory is poisoned (R279). -/
def State.poisonIn (s : State) (pa n : Nat) : Bool :=
  s.poison.any (fun u => decide (pa < 64 * u + 64) && decide (64 * u < pa + n))

/-- Whether `len` bytes of an area, from its byte `lo` on, can be reached, and if not why: poison there is as a closed page (R126,
R287, R303). -/
def State.areaMeets (s : State) (n lo len : Nat) : Option AreaState :=
  match Table.get? s.hub.areas n with
  | some a => some a
  | none => if s.poisonIn (areaPhys n + lo) len then some .closed else none

/-- Whether an area can be reached by a move of all that `areaLength` gives it. -/
def State.areaState (s : State) (n : Nat) : Option AreaState := s.areaMeets n 0 (areaLength n)

/-! Fault records (R212 to R214). -/

/-- A fault record in the ring (R212). -/
def recordBytes (r : FaultRec) : List Byte :=
  leBytes 8 (r.va % 2 ^ 56) ++
  leBytes 8 (r.kind + r.asid * 2 ^ 8 + r.core * 2 ^ 32 + r.slot * 2 ^ 48 + r.pennants.length * 2 ^ 56) ++
  leBytes 8 (r.ctx + r.lane * 2 ^ 32 + r.ggen.toNat * 2 ^ 40) ++ leBytes 8 r.mask.toNat ++
  (upto 4).flatMap (fun k => leBytes 4 (r.pennants.getD k 0).toNat) ++
  leBytes 8 r.cyc.toNat ++ leBytes 8 r.seq

/-- The places of the fault ring: at least one (log entry 11). -/
def ringPlaces : Nat := Config.faultRingPlaces + 1

/-- A record written to the ring, at the place after the one before it, with the next sequence number (R212, R214). -/
def State.writeRecord (s : State) (r : FaultRec) : State :=
  let r1 := { r with seq := s.hub.recSeq }
  (s.putBytes (areaPhys ringArea + 64 * (r1.seq % ringPlaces)) (recordBytes r1)).modHub (fun h => { h with
    ring := h.ring ++ [r1], recSeq := (h.recSeq + 1) % 2 ^ 32 })

/-- A record written to the ring, or kept until the ring has a place (R214). -/
def State.addRecord (s : State) (r : FaultRec) : State :=
  if s.hub.recWait = [] && decide (s.hub.ring.length < ringPlaces) then s.writeRecord r
  else s.modHub (fun h => { h with recWait := h.recWait ++ [r] })

/-- The incarnation of a task (R167). -/
def State.incOf (s : State) (tid : Nat) : Byte :=
  match Table.get? s.tasks tid with
  | some t => t.inc
  | none => 0

/-- The record of an access of a group (R212). -/
def recordOf (s : State) (c : Nat) (w : Who) (va kind op : Nat) : FaultRec :=
  ⟨va, kind, w.asid, c, w.slot, w.ctx, w.lane, w.ggen, w.mask, w.pennants, BitVec.ofNat 64 (s.cyc c), 0,
   op, w.task, w.gid, s.incOf w.task⟩

/-- One record for each address (R211). -/
def State.addRecords (s : State) (c : Nat) (w : Who) (kind op : Nat) (vas : List Nat) : State :=
  vas.foldl (fun st va => (st.addRecord (recordOf st c w va kind op)).signal c w.ctx 26) s

/-- A record of the hub: core 0x1FF, zeros in the group fields (R212); its count of cycles is a free value. -/
def hubRecord (s : State) (ctx asid va kind op : Nat) : FaultRec :=
  ⟨va, kind, asid, 0x1FF, 0, ctx, 0, 0, 0, [], Config.hubClock s.tick, 0, op, 0, 0, 0⟩

/-! Tasks and their TCBs. -/

/-- The state code of R166. -/
def TaskState.code : TaskState → Nat
  | .free => 0 | .armed => 1 | .ready => 2 | .running => 3 | .starved => 4 | .draining => 5 | .unwinding => 6
  | .done => 7 | .preempted => 8

/-- The handle of a task (R167). -/
def Task.handle (t : Task) : W64 := BitVec.ofNat 64 (t.va + t.inc.toNat)

/-- The first 128 bytes of a TCB (R165). -/
def tcbImage (t : Task) : List Byte :=
  leBytes 4 (t.state.code + t.prio * 2 ^ 4 + b2n t.park * 2 ^ 7 + b2n t.restart * 2 ^ 8 + b2n t.swcrew * 2 ^ 9 +
    b2n t.spt * 2 ^ 10 + t.depth * 2 ^ 16) ++
  leBytes 4 (t.groups + t.tiles * 2 ^ 4 + t.accs * 2 ^ 8 + t.egran * 2 ^ 12 + t.placeField * 2 ^ 16) ++
  leBytes 4 t.stages.toNat ++ leBytes 4 t.dep ++ leBytes 8 t.entry.toNat ++ leBytes 8 t.parentHandle.toNat ++
  leBytes 8 t.alw ++ leBytes 8 t.rsv ++ leBytes 8 (t.pend + t.jstat * 2 ^ 48) ++
  leBytes 8 (t.seq + t.inc.toNat * 2 ^ 16 + t.kids * 2 ^ 32) ++ leBytes 8 t.consumed ++ t.chanBytes ++
  leBytes 8 (t.xpc.toNat % 2 ^ 56 + t.xcause * 2 ^ 56 + t.xstat * 2 ^ 60) ++ leBytes 8 t.xval.toNat ++
  leBytes 8 t.pnnt.toNat ++ leBytes 8 0 ++ leBytes 8 0

/-- A task stored: the Wellspring's copy and its TCB in memory (R165). -/
def State.storeTask (s : State) (tid : Nat) (t : Task) : State :=
  let s1 := { s with tasks := Table.set s.tasks tid { t with written := t.alw } }
  match tcbPhys s1 t with
  | some pa => s1.putBytes pa (tcbImage t)
  | none => s1

/-- One operation of the Wellspring on a task: seq advances and the TCB is written back (R165, R172). -/
def State.taskOp (s : State) (tid : Nat) (f : Task → Task) : State :=
  match Table.get? s.tasks tid with
  | some t => s.storeTask tid { f t with seq := (t.seq + 1) % 2 ^ 16 }
  | none => s

/-- The units a task's alw holds: none for the marker of an unmetered task (R186). -/
def Task.units (t : Task) : Nat := if t.alw = Config.unmetered then 0 else t.alw

/-- A debit that fits (R31, R32). What the 48-bit consumed field holds after a sum of 2^48 or more the spec does not say:
the model keeps the sum modulo 2^48 (DESIGN CHOICE, log entry 19). -/
def Task.charge (t : Task) (c : Nat) : Task :=
  if t.alw = Config.unmetered then { t with consumed := (t.consumed + c) % 2 ^ 48 } else { t with alw := t.alw - c }
/-- A sum of units in a field that holds at most `top`: a larger sum is a free value (log entry 19). -/
def fitUnits (top x : Nat) : Nat := if x ≤ top then x else Config.overflowUnits x % (top + 1)
/-- Units credited: added to alw, or taken from consumed for an unmetered task (R181, R185). -/
def Task.credit (t : Task) (c : Nat) : Task :=
  if t.alw = Config.unmetered then { t with consumed := (t.consumed + 2 ^ 64 - c) % 2 ^ 48 }
  else { t with alw := fitUnits Config.maxMetered (t.alw + c) }
/-- Whether a debit does not fit (R31, R34). -/
def Task.short (t : Task) (c : Nat) : Bool := decide (t.alw ≠ Config.unmetered) && decide (t.alw < c)

/-- A pool slot becomes FREE: its task is gone and its incarnation advances (R166). -/
def State.freeSlot (s : State) (tid : Nat) : State :=
  match Table.get? s.tasks tid with
  | some t =>
    let s1 := s.storeTask tid { t with state := .free, inc := t.inc + 1 }
    { s1 with tasks := Table.erase s1.tasks tid, incs := Table.set s1.incs tid (t.inc + 1) }
  | none => s

/-- Whether a task descends from another, within the nesting limit (R171). -/
def descends (s : State) (anc : Nat) : Nat → Nat → Bool
  | 0, _ => false
  | fuel + 1, t => match (Table.get? s.tasks t).bind Task.parent with
    | some p => if p = anc then true else descends s anc fuel p
    | none => false

/-- The descendants of a task that have not ended (R186). -/
def descendants (s : State) (tid : Nat) : List Nat :=
  (s.tasks.filter (fun e => decide (e.2.state ≠ .done) && descends s tid 64 e.1)).map Prod.fst

/-- The crew of a task: its groups by slot. -/
def crewOf (s : State) (tid : Nat) : List (Nat × Group) :=
  match Table.get? s.tasks tid with
  | some t => (s.core t.place).groups.filter (fun e => decide (e.2.task = tid))
  | none => []

/-! Stores, markers and the end of a group. -/

/-- Every store of a core performed, in order of issue, and every marker completed: what a release waits for (R229,
R242, R243). -/
def State.drainStores (s : State) (c : Nat) : State :=
  let k := s.core c
  if k.stores = [] && k.markers = [] then s
  else
    let s1 := k.stores.foldl (fun st o => writeCells st o.cells) s
    s1.modCore c (fun x => { x with stores := [], markers := [] })

/-- A scalar granule freed: its generation advances (R29). -/
def Core.bumpGen (k : Core) (fr : Nat) : Core := { k with sgen := Table.set k.sgen fr (k.sgenOf fr + 1) }

/-- A group leaves its slot: its frames are freed and generations advance (R29, R202), its requests and places are
withdrawn, undelivered faults and poisoned returns are dropped with it (R258, R281). -/
def Core.dropGroup (k : Core) (slot : Nat) : Core :=
  match Table.get? k.groups slot with
  | none => k
  | some g =>
    let gen := k.ggenOf slot
    let own := k.ownsAt slot
    let k1 := if g.out then k else (Table.keys g.frames).foldl Core.bumpGen k
    { k1 with
      groups := Table.erase k1.groups slot
      ggen := Table.set k1.ggen slot (gen + 1)
      requests := k1.requests.filter (fun r => decide (r.slot ≠ slot))
      victims := k1.victims.filter (fun r => decide (r.slot ≠ slot))
      active := k1.active.filter (fun a => decide (a.1 ≠ slot))
      waiting := k1.waiting.filter (fun a => decide (a ≠ slot))
      loads := k1.loads.filter (fun o => !(own o.who && o.arrived))
      mats := k1.mats.filter (fun o => !(own o.who && o.drained)) }

/-- A task's group slots of groups that have ended are free again (R184). -/
def Core.releaseSlots (k : Core) (tid : Nat) : Core := { k with kept := k.kept.filter (fun e => decide (e.2 ≠ tid)) }

/-- A parked split of a channel removed from its lists (R138). -/
def Chan.withdraw (ch : Chan) (slot lane : Nat) : Chan :=
  { ch with pushers := ch.pushers.filter (fun p => decide (p ≠ (slot, lane)))
            poppers := ch.poppers.filter (fun p => decide (p ≠ (slot, lane))) }

/-- A split's place in the Tarn and on channels withdrawn (R189, R228). -/
def State.withdraw (s : State) (c slot : Nat) (lane tid : Nat) : State :=
  { s with
    tarn := s.tarn.filter (fun e => decide (e.user ≠ .split c slot lane))
    tasks := Table.modify s.tasks tid (fun t => { t with chans := Table.mapVals t.chans (fun ch => ch.withdraw slot lane) }) }

/-- What a core keeps of a group that ends: no write can count in it any more (R203), and its slot stays its task's (R184). -/
def Core.partGroup (k : Core) (slot tid gid : Nat) : Core :=
  let stays := fun (e : Nat × (Nat × Nat)) => decide (e.2 ≠ (tid, gid))
  { (k.dropGroup slot) with
    owners := k.owners.filter stays, lastIn := k.lastIn.filter stays, kept := Table.set k.kept slot tid }

/-- A core that knows no saved group of a task any more: no write can count in one (R203). -/
def Core.forgetSaved (k : Core) (tid : Nat) : Core :=
  let stays := fun (e : Nat × (Nat × Nat)) => decide (e.2.1 ≠ tid)
  { k with owners := k.owners.filter stays, lastIn := k.lastIn.filter stays }

/-- A group ends (R110). The crew's slots and the granules of its channels go with its last group (R184, R275). -/
def State.endGroup (s : State) (c slot : Nat) : State :=
  match s.group? c slot with
  | none => s
  | some g =>
    let s1 := (g.splits ++ g.spilled).foldl (fun st sp => st.withdraw c slot (lowLane sp.mask) g.task) s
    let s2 := s1.modCore c (fun k => k.partGroup slot g.task g.gid)
    if crewOf s2 g.task = [] then
      (s2.modTask g.task (fun t => { t with chans := [], chanGrans := [] })).modCore c (fun k => k.releaseSlots g.task)
    else s2

/-- Whether a split waits on a fault record of an access that an unwinding does not withdraw (R211, R228). -/
def keepsUnderUnwind (sp : Split) : Bool :=
  match sp.wait with
  | .faults _ a => match a.instr with
    | .st _ _ _ | .vst _ _ _ | .vstc _ _ _ | .amo _ _ _ _ _ | .cas _ _ _ _ | .vamo _ _ _ _ | .fput _ _ _
    | .ffill _ _ _ => true
    | _ => false
  | .none | .fetch _ | .touch | .tarn _ | .busy _ _ | .data | .push _ _ | .pop _ _ | .enq _ _ _ _ _ | .join _ _
  | .wellspring _ | .frame | .waitc _ _ _ _ => false

/-- The ASID of a task. -/
def State.asidOfTask (s : State) (tid : Nat) : Nat :=
  match Table.get? s.tasks tid with
  | some t => t.asid
  | none => 0

/-- A group stops under an unwinding: every split withdraws but those whose parked access is still to be presented, which
is not so on a dying ASID, whose translations are discarded (R337); a group left with none ends (R189, R211). -/
def State.stopGroup (s : State) (c slot : Nat) : State :=
  match s.group? c slot with
  | none => s
  | some g =>
    let all := g.splits ++ g.spilled
    let lost := s.hub.dying.contains (s.asidOfTask g.task)
    let gone := all.filter (fun sp => !(keepsUnderUnwind sp) || lost)
    let kept := all.filter (fun sp => keepsUnderUnwind sp && !lost)
    let s1 := gone.foldl (fun st sp => st.withdraw c slot (lowLane sp.mask) g.task) s
    if kept = [] then s1.endGroup c slot
    else (s1.modGroup c slot (fun x => { x with splits := kept, spilled := [] })).modCore c (fun k =>
      { k with requests := k.requests.filter (fun r => decide (r.slot ≠ slot)) })

/-- A task stops (R189 parts 1 to 4): its issued stores complete, its splits withdraw, its copies are cancelled, its
matrix operations are dropped, and its units join the sum of the unwinding's root (R186). -/
def State.stopTask (s : State) (root tid : Nat) : State :=
  match Table.get? s.tasks tid with
  | none => s
  | some t =>
    let c := t.place
    let s1 := s.drainStores c
    let s2 := (crewOf s1 tid).foldl (fun st e => st.stopGroup c e.1) s1
    let s3 := s2.modCore c (fun k => { (if t.saved = [] then k else k.forgetSaved tid) with
      mats := k.mats.filter (fun o => decide (o.who.task ≠ tid))
      copies := k.copies.map (fun o => if o.who.task = tid then { o with cancelled := true } else o) })
    let waits := t.state = .armed || t.state = .ready && !t.isRoot
    let s4 := s3.modTask root (fun r => { r with sum := r.sum + t.units + (if waits then t.pend else 0) })
    if waits then s4.freeSlot tid
    else s4.taskOp tid (fun x => { x with
      state := .unwinding, stopped := true, unwinder := some root, request := none, saving := none, saved := []
      tilerecs := (x.tilerecs.filter TileRec.closed).map (fun y => { y with ops := 0 }) })

/-- A task under another unwinding: one that waited to start again after its core's reset does not (R189, R284). -/
def Task.joinUnwind (root : Nat) (t : Task) : Task := { t with unwinder := some root, restarting := false }

/-- What an unwinding under way at a task `d` has collected: its sum, and the alw that a restart kept (R186, R196, R284). -/
def Task.carried (d : Nat) (t : Task) : Nat :=
  if t.unwinder = some d then t.sum + (if t.restarting then t.units else 0) else 0

/-- The units that the unwindings under way at some tasks have collected. -/
def State.carriedBy (s : State) (ds : List Nat) : Nat :=
  total (ds.map (fun d => match Table.get? s.tasks d with
    | some t => t.carried d
    | none => 0))

/-- A task enters UNWINDING with a status: it stops, and its descendants are ordered to (R166, R189). A task that an
unwinding above it has not reached yet joins that one, and one under way below joins this one, with what it has
collected. That a PREEMPTED task does so at once, its core having 64 resident tasks or not, is a DESIGN CHOICE (log entry
64). -/
def State.beginUnwind (s : State) (tid status : Nat) : State :=
  let ds := descendants s tid
  let root := match (Table.get? s.tasks tid).bind Task.unwinder with
    | some r => r
    | none => tid
  let fresh := match Table.get? s.tasks tid with
    | some t => t.unwinder.isNone
    | none => true
  let carried := s.carriedBy ds
  let s1 := s.modTask tid (fun t => { t with
    state := .unwinding, xstat := status, unwinder := some root, restarting := false })
  let s2 := ds.foldl (fun st d => st.modTask d (Task.joinUnwind root)) s1
  let s3 := s2.modTask root (fun t => { t with sum := (if fresh then 0 else t.sum) + carried })
  s3.stopTask root tid

/-- A task that has been ordered to stop under an unwinding stops: the children it has created since are ordered to, and an
unwinding under way at one of them joins this one with what it has collected (R186, R189, R196). -/
def State.stopOrdered (s : State) (root tid : Nat) : State :=
  let ds := descendants s tid
  let s1 := ds.foldl (fun st d => st.modTask d (Task.joinUnwind root)) s
  (s1.modTask root (fun x => { x with sum := x.sum + s.carriedBy ds })).stopTask root tid

/-- The root tasks that satisfy a test end with a status: those not yet unwinding begin to, the others take the status
(R283, R337). -/
def endRoots (test : Task → Bool) (status : Nat) (s : State) : State :=
  (s.tasks.filter (fun e => e.2.isRoot && test e.2 && decide (e.2.state ≠ .done))).foldl (fun st e =>
    match Table.get? st.tasks e.1 with
    | none => st
    | some t =>
      if t.state = .unwinding then st.modTask e.1 (fun x => { x with
        xstat := status, restarting := false, sum := x.sum + (if x.restarting then x.units else 0) })
      else st.beginUnwind e.1 status) s

/-- A context ends with status LOST (R126, R279, R287). -/
def loseContext (ctx : Nat) (s : State) : State := endRoots (fun t => decide (t.ctx = ctx)) 5 s

/-! Exhaustion and traps. -/

/-- Exhaustion: the cause, PC and cost are recorded and the policy acts (R39, R177, R188). Of a cost of 2^64 or more the
spec gives no xval: the model records it modulo 2^64 (DESIGN CHOICE, log entry 19). -/
def exhaust (v : View) (cost : Nat) (s : State) : State :=
  let record := fun (t : Task) => { t with xpc := v.split.pc, xcause := 1, xval := BitVec.ofNat 64 cost }
  let s1 := s.signal v.sel.core v.task.ctx 42
  if v.task.park then s1.taskOp v.tid (fun t => { record t with state := .starved })
  else (s1.modTask v.tid record).beginUnwind v.tid 4

/-- A task ends by trap (R38): LOST for causes 2, 3 and 4, CANCELLED for every other. -/
def endByTrap (v : View) (cause : Nat) (pc tval : W64) (s : State) : State :=
  (s.modTask v.tid (fun t => { t with xpc := pc, xcause := cause, xval := tval })).beginUnwind v.tid
    (if cause = 2 || cause = 3 || cause = 4 then 5 else 7)

/-- What happens to another split of the group when a handler is entered (R276). -/
def freeze (sp : Split) : Split :=
  match sp.state with
  | .ready | .frame => { sp with state := .frozen, wait := .none }
  | .meet | .parked | .waitc | .frozen => sp

/-- Bits [55:2] of an address, as `tpc` holds it (R24). -/
def pcField (x : W64) : W64 := x &&& 0xFFFFFFFFFFFFFC

/-- The group enters the handler at a split: the registers of R36, handler mode and the other splits of R276. -/
def Group.enterHandler (g : Group) (idx cause : Nat) (tpc tval : W64) : Group :=
  let target := g.tvb + BitVec.ofNat 64 (16 * cause)
  let self := fun (sp : Split) => { sp with
    pc := target, state := .ready, wait := .none, paid := none, inHandler := true, entry := some target, stop := .no }
  { g with
    tca := BitVec.ofNat 4 cause
    tpc := pcField tpc
    tval := tval
    handler := true
    splits := if g.handler then changeAt g.splits idx self
              else ((upto g.splits.length).zip g.splits).map (fun e => if e.1 = idx then self e.2 else freeze e.2)
    spilled := if g.handler then g.spilled else g.spilled.map freeze }

/-- A trap noted in the cycle that its split shares (R54). -/
def State.noteTrap (s : State) : State :=
  match s.together with
  | some x => { s with together := some { x with trapped := true } }
  | none => s

/-- TAKING A TRAP (R36 to R38, R42): with `tvb` = 0 or on a double trap the task ends; otherwise the group enters the
handler. `pc` is the trapping instruction's, `tpc` the one recorded. -/
def trapEntry (sel : Sel) (cause : Nat) (tpc tval : W64) (s : State) : State :=
  match s.viewAt sel with
  | none => s
  | some v =>
    let s0 := s.noteTrap
    if v.group.tvb = 0 || decide (v.split.entry = some v.split.pc) then endByTrap v cause v.split.pc tval s0
    else
      let s1 := if v.group.handler then s0
        else s0.modCore sel.core (fun k => { k with requests := k.requests.filter (fun r => decide (r.slot ≠ sel.slot)) })
      (s1.onGroup sel (fun g => g.enterHandler sel.idx cause tpc tval)).signal sel.core v.task.ctx 41

/-- What was debited already for the instruction a split stands at is given back (R35, R42). -/
def undoDebit (v : View) (s : State) : State :=
  match v.split.paid with
  | some a => (s.modTask v.tid (fun t => t.credit a)).onSplit v.sel (fun sp => { sp with paid := none })
  | none => s

/-- A trap at the instruction the split stands at; a debit made for it before it parked is reversed (R35, R36, R42). -/
def takeTrap (sel : Sel) (cause : Nat) (tval : W64) (s : State) : State :=
  match s.viewAt sel with
  | none => s
  | some v => trapEntry sel cause v.split.pc tval (undoDebit v s)

/-- The end of handler mode: every frozen split becomes ready (R277). -/
def Group.leaveHandler (g : Group) : Group :=
  let thaw := fun (sp : Split) =>
    { sp with inHandler := false, state := if sp.state = .frozen then .ready else sp.state }
  { g with handler := false, splits := g.splits.map thaw, spilled := g.spilled.map thaw }

/-- RETURNING FROM A TRAP: handler mode ends if the split belongs to the handler set; the PC becomes `tpc`, as the cycle
found it (R61, R88, R277). -/
def Group.returnFromTrap (g : Group) (idx : Nat) (tpc : W64) : Group :=
  let inSet := g.handler && (match g.splits[idx]? with
    | some sp => sp.inHandler
    | none => false)
  let g1 := { g with splits := changeAt g.splits idx (fun sp => { sp with pc := tpc }) }
  if inSet then g1.leaveHandler else g1

/-- The state a split takes when a wait ends: frozen for one outside the handler set in handler mode (R276). -/
def Group.wakeState (g : Group) (sp : Split) : SplitState :=
  if g.handler && !sp.inHandler then .frozen else .ready

/-! The issue of an instruction. -/

/-- What an instruction does once its debit is made. -/
inductive Act where
  /-- it completes, and the PC becomes PC + 4 -/
  | next (s : State)
  /-- it completes, and the PC is given -/
  | goto (pc : W64) (s : State)
  /-- it has issued, and has placed its split itself -/
  | placed (s : State)
  /-- it raises a trap, and its debit is reversed -/
  | trap (cause : Nat) (tval : W64)
  /-- it executes and then raises a trap: TRAP and BRK -/
  | trapAfter (cause : Nat) (tval : W64)

/-- Whether a pending write targets a register, as the group's split in frame `fr` names it (R60, R75). -/
def refMatches (k : Core) (fr : Nat) (opFrame : Nat) (gen : BitVec 8) (dst r : RegRef) : Bool :=
  decide (dst = r) && (!r.frameLocal || (decide (opFrame = fr) && decide (k.sgenOf fr = gen)))

/-- The registers that a parked split will write when its wait ends (R60). -/
def parkedDests : Wait → List RegRef
  | .faults _ a | .tarn a | .busy a _ => destsOf a.instr 0
  | .pop _ d => [.v d]
  | .enq d _ _ _ _ | .join d _ | .wellspring d => [.s d]
  | .none | .fetch _ | .touch | .data | .push _ _ | .frame | .waitc _ _ _ _ => []

/-- Whether a matrix operation has a write of a register pending (R60, R254). -/
def MatOp.writes (k : Core) (fr : Nat) (o : MatOp) (r : RegRef) : Bool :=
  match o.kind, r with
  | .tld, .t n => decide (n = o.target)
  | .tld, .p n => decide (n = 15)
  | .mm, .a n q | .mmm, .a n q | .aclr, .a n q => decide (n = o.target) && o.quarters.getLsbD q
  | .aput, .a n _ => decide (n = o.target)
  | .aget, .v n => decide (o.target ≤ n) && decide (n < o.target + 8) && refMatches k fr o.frame o.gen r r
  | _, _ => false

/-- Whether a register has a write pending (R60): loads with their p15 bits (which a poisoned return leaves, R281), copy
tokens, matrix operations, and the results of parked splits. s0 never has. -/
def pendingReg (k : Core) (slot fr : Nat) (r : RegRef) : Bool :=
  let own := k.ownsAt slot
  if r = .s 0 then false
  else
    k.loads.any (fun o => own o.who && ((match o.dst with
      | some d => refMatches k fr o.frame o.gen d r
      | none => false) || (decide (r = .p 15) && !o.arrived && decide (o.set ||| o.clear ≠ 0)))) ||
    k.copies.any (fun o => own o.who && refMatches k fr o.frame o.gen (.s o.token) r) ||
    k.mats.any (fun o => own o.who && !o.drained && o.writes k fr r) ||
    (match Table.get? k.groups slot with
     | some g => (g.splits ++ g.spilled).any (fun sp => (parkedDests sp.wait).any (fun d =>
        decide (d = r) && (!r.frameLocal || decide (sp.frame = fr))))
     | none => false)

/-- The registers that an FGROW adds to the frame and so writes (R60, R83). -/
def grownRegs (v : View) : Instr → List RegRef
  | .fgrow k => if v.frame.grans.length + k ≤ 15 then (upto (8 * k)).map (fun j => .v (8 * v.frame.grans.length + j)) else []
  | _ => []

/-- Every register the scoreboard looks at for an instruction (R60). -/
def registersOf (v : View) (i : Instr) : List RegRef :=
  (sourcesOf i v.m (match i with
    | .vshfl _ _ b => v.rv b
    | _ => [])).map Prod.fst ++ destsOf i v.m ++ grownRegs v i

/-- Whether the scoreboard holds an instruction (R60, R254). -/
def scoreboardHolds (v : View) (i : Instr) : Bool := (registersOf v i).any (pendingReg v.core v.sel.slot v.fr)

/-- Whether an instruction makes memory requests. -/
def asksMemory : Instr → Bool
  | .ld _ _ _ | .lds _ _ _ | .st _ _ _ | .vld _ _ _ | .vst _ _ _ | .vldc _ _ _ | .vstc _ _ _ | .amo _ _ _ _ _
  | .vamo _ _ _ _ | .cas _ _ _ _ | .fld _ _ _ | .ftake _ _ _ | .fput _ _ _ | .ffill _ _ _ | .enq _ _ _ => true
  | _ => false

/-- Whether a split's access waits in the Tarn, an ENQ's among them. -/
def inTarn (sp : Split) : Bool :=
  match sp.wait with
  | .tarn _ | .enq _ _ _ _ _ => true
  | .none | .faults _ _ | .fetch _ | .touch | .busy _ _ | .data | .push _ _ | .pop _ _ | .join _ _
  | .wellspring _ | .frame | .waitc _ _ _ _ => false

/-- The memory requests of a core that are outstanding (R4): loads on their way, stores not performed, and accesses in the
Tarn. That a load or store of any number of lanes counts as one request is a DESIGN CHOICE (log entry 9). -/
def Core.outstanding (k : Core) : Nat :=
  (k.loads.filter (fun o => !o.arrived)).length + k.stores.length +
  total (k.groups.map (fun e => ((e.2.splits ++ e.2.spilled).filter inTarn).length))

/-- Whether a memory instruction waits because its core has 8,192 requests outstanding (R4, log entry 9). -/
def requestsFull (k : Core) (i : Instr) : Bool := asksMemory i && decide (Config.requests ≤ k.outstanding)

/-- Whether an instruction does not issue yet: the scoreboard holds it, or its core, as it now stands, has no room for its
requests. -/
def heldBack (k : Core) (v : View) (i : Instr) : Bool := scoreboardHolds v i || requestsFull k i

/-- Positions 4 and 5 of R40: the crew shape and the frame (R22). -/
def shapeTrap (v : View) (i : Instr) : Option Nat :=
  if !(withinShape i v.task.tiles v.task.accs) then some 0
  else if !(withinFrame i v.frame.grans.length) then some 13
  else none

/-- The instruction word, as `tval` gives it (R40). -/
def wordOf (i : Instr) : W64 := BitVec.ofNat 64 (encode i)

/-- Whether the split is the last live one of its group (R258, R281). -/
def View.lastSplit (v : View) : Bool := decide (v.group.splits.length + v.group.spilled.length = 1)

/-- Whether a WAITC with a limit below a counter, or a DONE by the last live split, delivers what is undelivered (R258,
R281). `matrix` chooses the matrix counter, else the loads counter. -/
def delivers (v : View) (i : Instr) (matrix : Bool) : Bool :=
  let n := groupCounters v.core v.sel.slot v.group
  match i with
  | .waitc l _ _ x => if matrix then decide (x < n.2.2.2) else decide (l < n.1)
  | .done => v.lastSplit
  | _ => false

/-- Whether an instruction would wait on a faulted quarter (R258). -/
def waitsOnQuarter (v : View) (i : Instr) (f : MatFault) : Bool :=
  match i with
  | .mm d _ _ | .mmm d _ _ | .aclr d => decide (d = f.acc) && (quartersOf v.m).getLsbD f.quarter
  | .aget _ a => decide (a = f.acc)
  | .aput d _ => decide (d = f.acc)
  | _ => false

/-- The matrix fault an instruction delivers, lowest accumulator and quarter first (R258). -/
def matrixDelivery (v : View) (i : Instr) : Option MatFault :=
  v.group.mfaults.find? (fun f => waitsOnQuarter v i f || delivers v i true)

/-- A delivered matrix fault leaves the group, and its operation leaves the counter with its last fault (R258). -/
def State.deliverMatrix (s : State) (sel : Sel) (f : MatFault) : State :=
  let s1 := s.onGroup sel (fun g => { g with mfaults := g.mfaults.filter (fun x => decide (x ≠ f)) })
  let left := match s1.group? sel.core sel.slot with
    | some g => g.mfaults.any (fun x => decide (x.serial = f.serial))
    | none => false
  if left then s1
  else s1.modCore sel.core (fun k => { k with mats := k.mats.filter (fun o => decide (o.serial ≠ f.serial)) })

/-- The poisoned return an instruction delivers, the first arrived first (R281). -/
def poisonDelivery (v : View) (i : Instr) : Option LoadOp :=
  let own := v.core.ownsAt v.sel.slot
  v.core.loads.find? (fun o => own o.who && o.arrived && o.poison.isSome && (match o.dst with
    | some d =>
      if d = .s 0 then maskHas v.m o.who.lane || delivers v i false
      else (registersOf v i).any (fun r => refMatches v.core v.fr o.frame o.gen d r) || delivers v i false
    | none => delivers v i false))

/-- The debit of an instruction (R33), from its operands. -/
def costOf (v : View) (i : Instr) : Nat :=
  let lanes := laneCount v.m
  match i with
  | .mulh _ _ _ | .mulhu _ _ _ | .vrcp _ _ | .vrsq _ _ | .vexp2 _ _ | .vlog2 _ _ | .ret | .join _ => 2
  | .fld _ _ _ | .ftake _ _ _ | .fput _ _ _ | .ffill _ _ _ | .enq _ _ _ => 2
  | .div _ _ _ | .divu _ _ _ | .rem _ _ _ | .remu _ _ _ | .vdiv _ _ _ | .vdivu _ _ _ | .vrem _ _ _
  | .vremu _ _ _ => 4
  | .call n _ | .callr n _ => 4 + ceil8 n
  | .fgrow k => 4 + k
  | .grant _ _ b => 4 + (v.rs b).toNat
  | .mm _ _ _ | .mmm _ _ _ => 4 * (quarterList (quartersOf v.m)).length
  | .spawn _ _ b =>
    let amt := (v.rs b).toNat
    if v.task.alw = Config.unmetered then (if amt = Config.unmetered then 8 else 8 + min amt Config.maxMetered)
    else 8 + amt
  | .ld w _ _ | .lds w _ _ | .st w _ _ => 1 + ceil64 (Width.bytes w)
  | .vld w _ _ | .vst w _ _ | .vldc w _ _ | .vstc w _ _ => 1 + ceil64 (Width.bytes w * lanes)
  | .tld _ _ => 25
  | .amo _ w _ _ _ | .cas w _ _ _ => 2 + ceil64 (Width.bytes w)
  | .vamo _ _ _ _ => 2 + ceil64 (4 * lanes)
  | .cpy d _ _ => 2 + ceil64 (v.rs d).toNat
  | .cpy2 _ a => 2 + ceil64 ((v.rs (a + 2)).toNat * (v.rs (a + 3)).toNat)
  | _ => 1

/-- What the issue of an instruction debits, or what was debited for it before its split parked (R31, R35). -/
def View.debited (v : View) (i : Instr) : Nat := v.split.paid.getD (costOf v i)

/-- The first poisoned source, in field order (R143). -/
def firstPoison (v : View) (i : Instr) : Option RegRef :=
  ((poisonSources i v.m (match i with
    | .vshfl _ _ b => v.rv b
    | _ => [])).find? (v.group.poisonedSource v.fr)).map Prod.fst

/-- The counter signals of an issue: the side it issues on, and the match identifiers that equal the split's top pennant
(R311). -/
def issueSignals (v : View) : BitVec 64 :=
  (1#64 <<< (1 + v.sel.slot % 2)) |||
  (match Table.get? v.core.sets v.task.ctx, pennantTop v.group v.split.ptop 1 with
   | some set, [top] => (upto 8).foldl (fun (m : BitVec 64) k =>
      if (set.matchIds.getD k 0).toNat = top.toNat then m ||| (1#64 <<< (48 + k)) else m) 0
   | _, _ => 0)

/-- The issuing group as an issue leaves it: what its split records (R37, R132). -/
def View.book (v : View) (s : State) (g : Group) : Group :=
  { g with
    splits := changeAt g.splits v.sel.idx (fun sp => { sp with lastIssue := s.tick + 1, entry := none, paid := none }) }

/-- The debit and the bookkeeping of an issue (R31, R37, R132). -/
def chargeIssue (v : View) (cost : Nat) (s : State) : State :=
  let s1 := if v.split.paid.isSome then s else s.modTask v.tid (fun t => t.charge cost)
  (s1.onGroup v.sel (v.book s)).raise v.sel.core v.task.ctx (issueSignals v)

/-- The PC of the selected split set (R18). -/
def setPc (sel : Sel) (pc : W64) (s : State) : State := s.onSplit sel (fun sp => { sp with pc := pc })

/-- An instruction from its allowance check on: positions 6 and 7 of R40, the debit, its effect (R31, R35, R39, R42,
R143). -/
def issueFrom (i : Instr) (body : View → State → Act) (v : View) (s : State) : State :=
  let cost := costOf v i
  if v.split.paid.isNone && v.task.short cost then exhaust v cost s
  else match firstPoison v i with
    | some r => takeTrap v.sel 2 (sourceTval r) s
    | none =>
      let s1 := chargeIssue v cost s
      match body v s1 with
      | .next s2 => setPc v.sel (v.split.pc + 4) s2
      | .goto pc s2 => setPc v.sel pc s2
      | .placed s2 => s2
      | .trap cause tval => takeTrap v.sel cause tval s
      | .trapAfter cause tval => trapEntry v.sel cause (v.split.pc + 4) tval s1

/-- An instruction at its issue: positions 4 and 5 of R40, the deliveries of R258 and R281, the scoreboard, and then
`go`, which may still wait. -/
def issueAt (i : Instr) (go : View → State → State) (v : View) (s : State) : State :=
  match shapeTrap v i with
  | some cause => takeTrap v.sel cause (wordOf i) s
  | none => match matrixDelivery v i with
    | some f => takeTrap v.sel f.cause f.tval (s.deliverMatrix v.sel f)
    | none => match poisonDelivery v i with
      | some o => takeTrap v.sel 2 (o.poison.getD 0)
          (s.modCore v.sel.core (fun k => { k with loads := k.loads.erase o }))
      | none => if heldBack (s.core v.sel.core) v i then s else go v s

/-- The outcome type of `exec`. -/
abbrev Result := Host.Outcome State Fault Refusal

/-- Scalars, by number, that an instruction writes and that another of its cycle has written (R61). -/
def lostScalars (i : Instr) (v : View) (x : Together) : List Nat :=
  (destsOf i v.m).filterMap (fun r => match r with
    | .s n => if x.wrote.contains (n, if r.frameLocal then v.fr else 0) then some n else none
    | .v _ | .p _ | .t _ | .a _ _ => none)

/-- A special register or an entry of the pennant stack as another group value holds it (R61, R304). -/
def Group.copySpecial (g b : Group) (sr : Nat) : Group :=
  match sr with
  | 2 => { g with sat := b.sat }
  | 3 => { g with mfr := b.mfr }
  | 4 => { g with fcr := b.fcr }
  | 5 => { g with tvb := b.tvb }
  | 7 => { g with tpc := b.tpc }
  | 8 => { g with tval := b.tval }
  | 14 => { g with mb := b.mb }
  | 15 => { g with dual := b.dual }
  | 16 => { g with stale := b.stale }
  | 17 => { g with slip := b.slip }
  | _ => g

/-- Whether the split of a view has issued in the cycle of a state. An instruction that waits, or that exhausts its task's
allowance, has not (R31, R81, R176, R265). -/
def hasIssued (v : View) (t : State) : Bool :=
  match t.viewAt v.sel with
  | some w => decide (w.split.lastIssue = t.tick + 1)
  | none => false

/-- The elements of an accumulator, or of a tile all of its bytes, that a matrix operation writes (R251, R261, R263, R264). -/
def MatOp.elements (o : MatOp) : BitVec 256 :=
  match o.kind with
  | .mm | .mmm | .aclr => (quarterList o.quarters).foldl (fun b q => b ||| (BitVec.ofNat 256 (2 ^ 64 - 1) <<< (64 * q))) 0
  | .aput => (upto 8).foldl (fun b r => b ||| (o.who.mask.setWidth 256 <<< (32 * r))) 0
  | .tld => BitVec.allOnes 256
  | .aget => 0

/-- The elements of what one matrix operation writes that another writes too: both a tile, or both an accumulator (R61). -/
def MatOp.overlap (o x : MatOp) : BitVec 256 :=
  if (decide (o.kind = .tld) == decide (x.kind = .tld)) && decide (o.target = x.target) then o.elements &&& x.elements else 0

/-- A memory access with its scalar result discarded. -/
def Access.unwritten (a : Access) : Access :=
  { a with instr := match a.instr with
      | .fld w _ b => .fld w 0 b
      | .ftake w _ b => .ftake w 0 b
      | .amo op w o _ b => .amo op w o 0 b
      | .cas w o _ b => .cas w o 0 b
      | .spawn _ b x => .spawn 0 b x
      | i => i }

/-- A wait whose result is a scalar of a list, with that result discarded (R61). -/
def Wait.unwritten (lost : List Nat) (w : Wait) : Wait :=
  if (parkedDests w).all (fun d => match d with
    | .s n => !(lost.contains n)
    | .v _ | .p _ | .t _ | .a _ _ => true) then w
  else match w with
    | .faults n a => .faults n a.unwritten
    | .tarn a => .tarn a.unwritten
    | .busy a at' => .busy a.unwritten at'
    | .enq _ b i dl t => .enq 0 b i dl t
    | .join _ at' => .join 0 at'
    | .wellspring _ => .wellspring 0
    | x => x

/-- The special register an instruction writes: MTS its own, MFMT `mfr` (R61, R85, R259). -/
def specialOf : Instr → Option Nat
  | .mts sr _ => some sr
  | .mfmt _ => some 3
  | _ => none

/-- The scalar writes of an instruction that a lower lane's write of the same cycle outlasts, dropped: those made, those of
its loads and copies, and those of its split's wait and of the Wellspring's answer to it (R61). -/
def State.dropScalars (lost : List Nat) (v : View) (g0 : Group) (s t : State) : State :=
  let k0 := s.core v.sel.core
  let t1 := (t.onGroup v.sel (fun g => { (lost.foldl (fun y n => y.putS v.fr n (g0.readS v.fr n)) g) with
      splits := (lost.foldl (fun y n => y.putS v.fr n (g0.readS v.fr n)) g).splits.map (fun sp =>
        if sp.mask = v.m then { sp with wait := sp.wait.unwritten lost } else sp) })).modCore v.sel.core (fun k => { k with
    loads := k.loads.take k0.loads.length ++ (k.loads.drop k0.loads.length).map (fun o => match o.dst with
      | some (.s n) => if lost.contains n then { o with dst := none } else o
      | _ => o)
    copies := k.copies.take k0.copies.length ++ (k.copies.drop k0.copies.length).map (fun o =>
      if lost.contains o.token then { o with token := 0 } else o) })
  { t1 with msgs := t1.msgs.take s.msgs.length ++ (t1.msgs.drop s.msgs.length).map (fun m => match m.reply with
      | some (c, g, gen, l, d) => if lost.contains d then { m with reply := some (c, g, gen, l, 0) } else m
      | none => m) }

/-- The matrix operation of an instruction leaves alone what one of a lower lane of its cycle writes of the same tile or
accumulator (R61). `found` numbers the core's operations that the cycle found. -/
def State.dropElements (v : View) (found : List MatOp) (s t : State) : State :=
  let before := (s.core v.sel.core).mats
  let mine := before.filter (fun o => !(found.any (fun y => decide (y.serial = o.serial))))
  if mine = [] then t
  else t.modCore v.sel.core (fun k => { k with mats := k.mats.map (fun o =>
    if before.any (fun y => decide (y.serial = o.serial)) then o
    else { o with lost := mine.foldl (fun b y => b ||| o.overlap y) 0 }) })

/-- The register writes of an instruction in a cycle that its split shares: where one of a lower lane has written the same
scalar, special register, tile or accumulator element, that one's value stays, and a write that lands later is dropped
(R61). `sat` is left to the end of the cycle (R95). `s` is the state before the instruction, `t` the one after. -/
def State.keepFirst (i : Instr) (v : View) (x : Together) (s t : State) : State :=
  match s.group? v.sel.core v.sel.slot with
  | none => t
  | some g0 =>
    let lost := lostScalars i v x
    let t0 := State.dropElements v x.mats s t
    let t1 := if lost = [] then t0 else State.dropScalars lost v g0 s t0
    match specialOf i with
    | some sr => if sr = 2 || x.specials.contains sr then t1.onGroup v.sel (fun g => g.copySpecial g0 sr) else t1
    | none => t1

/-- The cycle of a split with an instruction's writes added. -/
def Together.add (x : Together) (i : Instr) (v : View) : Together :=
  { x with
    wrote := x.wrote ++ (destsOf i v.m).filterMap (fun r => match r with
      | .s n => if n = 0 then none else some (n, if r.frameLocal then v.fr else 0)
      | .v _ | .p _ | .t _ | .a _ _ => none)
    specials := x.specials ++ (specialOf i).toList
    entries := match i with
      | .enter _ => x.entries ++ [v.split.ptop]
      | _ => x.entries
    clears := match i with
      | .mts 2 a => some (x.clears.getD false || (v.rs a).getLsbD 0)
      | _ => x.clears }

/-- The end of an instruction's issue: alone, its cycle ends; in a cycle that its split shares, its writes are settled
against those before it, and the cycle goes on (R61). -/
def State.endIssue (i : Instr) (v : View) (s t : State) : State :=
  match s.together, t.together with
  | none, _ => t.endCycle
  | some _, none => t
  | some x, some y =>
    if y.trapped then t
    else if hasIssued v t then { (State.keepFirst i v x s t) with together := some (Together.add y i v) }
    else t

/-- One issue of the selected split. -/
def issueWith (i : Instr) (go : View → State → State) (s : State) : Result :=
  match s.view? with
  | none => .fault .noSplit
  | some v => .next (State.endIssue i v s (issueAt i go v s))

/-- One issue of an instruction that waits for nothing but the scoreboard. -/
def issue (i : Instr) (body : View → State → Act) (s : State) : Result := issueWith i (issueFrom i body) s

/-- A step without an encoding: the next state where its condition holds. -/
def event (e : Option State) : Result :=
  match e with
  | some s => .next s
  | none => .fault .notEnabled

end Sys2Proof.Machine
end

