-- ==== Sys2Proof/Machine/Splits.lean ====
section
/-! DEFINITION. The split table: origins (R116), divergence (R117), merging at MEET (R118 to R120), fusion (R121), spill,
refill and rotation (R122 to R125), exit (R110),
frames that lose their last claim (R127), and the split spill area (R114, R115, R126). -/

namespace Sys2Proof.Machine

/-- Every live entry, resident then spilled (R116). -/
def Group.entries (g : Group) : List Split := g.splits ++ g.spilled

/-- The number of members of an origin: entries and live origins (R116). -/
def Group.members (g : Group) (o : Nat) : Nat :=
  (g.entries.filter (fun sp => decide (sp.origin = o))).length +
  (g.origins.filter (fun e => decide (e.2 = o))).length

/-- The parent of an origin; origin 0 is its own root (R115). -/
def Group.parentOf (g : Group) (o : Nat) : Nat := Table.getD g.origins o 0

/-- An origin freed, its members handed to its parent (R116). -/
def Group.freeOrigin (g : Group) (o : Nat) : Group :=
  let p := g.parentOf o
  let f := fun (sp : Split) => if sp.origin = o then { sp with origin := p } else sp
  { g with
    splits := g.splits.map f
    spilled := g.spilled.map f
    origins := Table.mapVals (Table.erase g.origins o) (fun q => if q = o then p else q) }

/-- Dissolution and freeing, repeated until every origin other than 0 has two members (R116). -/
def Group.settle : Nat → Group → Group
  | 0, g => g
  | n + 1, g => match g.origins.find? (fun e => decide (g.members e.1 < 2)) with
    | some e => Group.settle n (g.freeOrigin e.1)
    | none => g

/-- An origin and its ancestors (R116). -/
def Group.lineage (g : Group) : Nat → Nat → List Nat
  | 0, _ => [0]
  | n + 1, o => if o = 0 then [0] else o :: g.lineage n (g.parentOf o)

/-- The nearest common ancestor of two origins (R116). -/
def Group.common (g : Group) (a b : Nat) : Nat :=
  ((g.lineage 32 a).find? (fun o => (g.lineage 32 b).contains o)).getD 0

/-- Whether an entry is a split of an origin: its own or a descendant's (R116). -/
def Group.ofOrigin (g : Group) (o : Nat) (sp : Split) : Bool := (g.lineage 32 sp.origin).contains o

/-- The cycles a resident entry at MEET has left (R120). That they pass also while the group is held, by a record on a spill area
or until its refill, is a DESIGN CHOICE (log entry 70). -/
def Split.left (sp : Split) (now : Nat) : Nat := sp.mrem - (now - sp.mfrom)

/-- An entry as it is spilled: its count stops (R120, R123). -/
def Split.stow (sp : Split) (now : Nat) : Split :=
  if sp.state = .meet then { sp with mrem := sp.left now, mfrom := now } else sp

/-- An entry as it becomes resident: its count goes on (R120, R124). -/
def Split.unstow (sp : Split) (now : Nat) : Split := { sp with mfrom := now, lastIssue := 0 }

/-- The oldest resident entry spilled to the tail (R123). -/
def Group.spillOldest (g : Group) (now : Nat) : Group :=
  match g.splits with
  | sp :: rest => { g with
      splits := rest, spilled := g.spilled ++ [sp.stow now], opps := if g.spilled = [] then 0 else g.opps }
  | [] => g

/-- Resident entries spilled, the oldest first, until at most `room` are left (R123). -/
def Group.spillDown (room now : Nat) : Nat → Group → Group
  | 0, g => g
  | n + 1, g => if room < g.splits.length then Group.spillDown room now n (g.spillOldest now) else g

/-- A divergent BRV: the entry at `idx` is removed and N and T are added, a ninth entry being spilled first (R117, R122,
R123). -/
def Group.diverge (g : Group) (idx now : Nat) (sp : Split) (taken : W32) (target : W64) : Group :=
  let o := (lowestFree (0 :: Table.keys g.origins) 1 31).getD 0
  let g1 := { g with splits := dropAt g.splits idx }
  let g2 := g1.spillDown 6 now 32
  let child := { sp with origin := o, state := SplitState.ready, lastIssue := 0, entry := none, paid := none }
  let n := { child with mask := sp.mask &&& ~~~taken, pc := sp.pc + 4 }
  let t := { child with mask := sp.mask &&& taken, pc := target }
  { g2 with splits := g2.splits ++ [n, t], origins := Table.set g2.origins o sp.origin }.settle 32

/-- Whether `sp` has arrived where `w` waits: at the same MEET, in the same frame, and on the same side of the handler
set (R118, R277). -/
def arrived (w sp : Split) : Bool :=
  decide (sp.state = .meet) && decide (sp.meet = w.meet) && decide (sp.frame = w.frame) &&
  (sp.inHandler == w.inHandler)

/-- The condition of a waiting split: every split of its origin has arrived (R118). -/
def Group.meets (g : Group) (w : Split) : Bool :=
  decide (w.state = .meet) && g.entries.all (fun sp => !(g.ofOrigin w.origin sp) || arrived w sp)

/-- The waiting split whose origin is widest among those whose condition holds. -/
def Group.meeting (g : Group) : Option Split :=
  (g.entries.filter g.meets).foldl (fun best w => match best with
    | none => some w
    | some b => if (g.entries.filter (g.ofOrigin b.origin)).length < (g.entries.filter (g.ofOrigin w.origin)).length
        then some w else best) none

/-- The fused entry of a merge: the mask of all, the PC after the MEET, the ptop of the lowest lane (R119, R302). That it has
not issued since it was created (R132) is a DESIGN CHOICE (log entry 55). -/
def fuse (g : Group) (w : Split) (parts : List Split) : Split :=
  let mask := parts.foldl (fun m sp => m ||| sp.mask) 0
  let low := (parts.find? (fun sp => maskHas sp.mask (lowLane mask))).getD w
  { w with
    mask := mask, pc := w.meet + 4, state := g.wakeState w, meet := 0, mrem := 0, mfrom := 0, ptop := low.ptop
    lastIssue := 0, entry := none, paid := none, wait := .none, stop := .no }

/-- A list with the first element that satisfies a test replaced and the other such elements removed. -/
def replaceFirst {α : Type} (f : α → Bool) (x : α) : List α → List α
  | [] => []
  | y :: ys => if f y then x :: ys.filter (fun z => !(f z)) else y :: replaceFirst f x ys

/-- The merge at a MEET (R119): the fused entry takes the place of the oldest resident part, or stays spilled. -/
def Group.merge (g : Group) (w : Split) : Group :=
  let part := fun sp => g.ofOrigin w.origin sp
  let x := fuse g w (g.entries.filter part)
  if g.splits.any part then
    { g with splits := replaceFirst part x g.splits, spilled := g.spilled.filter (fun sp => !(part sp)) }.settle 32
  else { g with spilled := replaceFirst part x g.spilled }.settle 32

/-- The claims on a frame: entries that name it and frames whose link names it (R127). -/
def Group.claims (g : Group) (fr : Nat) : Nat :=
  (g.entries.filter (fun sp => decide (sp.frame = fr))).length +
  (g.frames.filter (fun e => decide (e.2.link = some fr))).length

/-- The frames popped from `fr` down to `stop`, each while it has no claim (R127): the granules freed. -/
def Group.popFrames (g : Group) : Nat → Nat → Nat → Group × List Nat
  | 0, _, _ => (g, [])
  | fuel + 1, fr, stop =>
    if fr = stop || decide (g.claims fr ≠ 0) then (g, [])
    else
      let link := (g.frame fr).link.getD stop
      let r := Group.popFrames { g with frames := Table.erase g.frames fr } fuel link stop
      (r.1, fr :: r.2)

/-- The state code of R114. -/
def SplitState.code : SplitState → Nat
  | .ready => 0 | .meet => 1 | .frame => 2 | .parked => 3 | .waitc => 4 | .frozen => 5

/-- A split entry (R114), its frame field as given. -/
def entryBytes (sp : Split) (frame mrem : Nat) : List Byte :=
  let atMeet := decide (sp.state = .meet)
  leBytes 8 (sp.pc.toNat % 2 ^ 56) ++
  leBytes 8 (sp.mask.toNat + frame * 2 ^ 32 + sp.origin * 2 ^ 48 + sp.state.code * 2 ^ 56) ++
  leBytes 8 (if atMeet then sp.meet.toNat % 2 ^ 56 else 0) ++
  leBytes 8 ((if atMeet then mrem * 2 ^ 32 else 0) + sp.ptop * 2 ^ 48)

/-- The origin table, one byte for each of 32 origins (R115). -/
def originBytes (g : Group) : List Byte :=
  (upto 32).map (fun o => if o = 0 then 0x80 else match Table.get? g.origins o with
    | some p => BitVec.ofNat 8 (0x80 + p)
    | none => 0)

/-- The split spill area (R115). -/
def splitAreaBytes (g : Group) : List Byte :=
  (upto 24).flatMap (fun place =>
    let k := (place + 24 - g.head) % 24
    match g.spilled[k]? with
    | some sp => entryBytes (g.asShown sp) sp.frame sp.mrem
    | none => List.replicate 32 0) ++
  originBytes g ++ leBytes 1 g.head ++ leBytes 1 g.spilled.length ++ List.replicate 30 0

/-- The split spill area of a slot stored as its group now has it (R115). -/
def State.storeSplitArea (s : State) (c slot : Nat) : State :=
  match s.group? c slot with
  | some g => s.storeArea (splitAreaOf c slot) (splitAreaBytes g)
  | none => s

/-- Whether the split spill area of a slot shares no byte with one of another group that has spilled entries. -/
def aloneArea (s : State) (c slot : Nat) : Bool :=
  let at' := areaPhys (splitAreaOf c slot)
  s.cores.all (fun e => e.2.groups.all (fun x =>
    let other := areaPhys (splitAreaOf e.1 x.1)
    (decide (e.1 = c) && decide (x.1 = slot)) || decide (x.2.spilled = []) || decide (other + 832 ≤ at') ||
      decide (at' + 832 ≤ other)))

/-- Whether the split spill area of a group with spilled entries is not as its table is: a spilled entry has been frozen,
thawed or woken, has taken another frame, or has come with its group into another slot (R115, R129, R276, R277, R297). An
area on an absent page is written once the page has come (R126), and of areas that share bytes none is (log entry 17). -/
def staleArea (s : State) (c slot : Nat) (g : Group) : Bool :=
  decide (g.spilled ≠ []) && decide (s.areaState (splitAreaOf c slot) = none) && aloneArea s c slot &&
  (imageCells (areaPhys (splitAreaOf c slot)) (splitAreaBytes g)).any (fun e => decide (Memory.get s.mem e.1 ≠ e.2))

/-- The next split spill area that is not as its group's table is, stored anew (R115). -/
def areaTurn (s : State) : Option State :=
  s.cores.findSome? (fun e => (e.2.groups.find? (fun x => staleArea s e.1 x.1 x.2)).map (fun x => s.storeSplitArea e.1 x.1))

/-- The split spill area brought up to date after a change of a table that had spilled entries (R115). -/
def State.syncArea (c slot : Nat) (before : Group) (s : State) : State :=
  if before.spilled = [] then s else s.storeSplitArea c slot

/-- What a move meets at its area: it is made, or waits with a record while the group parks until the reply, or the context ends
LOST (R126, R287, R303). -/
def State.meetArea (s : State) (met : Option AreaState) (c slot area kind : Nat) (w : Who) (go : State → State) : State :=
  match met with
  | none => go s
  | some .absent => (s.modGroup c slot (fun g => { g with stall := true })).addRecords c w kind area [areaPhys area]
  | some .closed => loseContext w.ctx s

/-- A move between a core and an area of a group slot that reads or writes all of it (R126, R287). -/
def State.areaMove (s : State) (c slot area kind : Nat) (w : Who) (go : State → State) : State :=
  s.meetArea (s.areaState area) c slot area kind w go

/-- An instruction that moves `len` bytes of an area of its group's, from byte `lo` on: on an absent page the group parks, and the
instruction, which has been debited `cost`, goes on when the page has come (R31, R126, R303). -/
def withArea (v : View) (area lo len cost : Nat) (go : State → Act) (s : State) : Act :=
  match s.areaMeets area lo len with
  | none => go s
  | some .absent => .placed ((s.meetArea (some .absent) v.sel.core v.sel.slot area 5 v.who id).onSplit v.sel (fun sp => { sp with
      paid := some cost }))
  | some .closed => .placed (s.meetArea (some .closed) v.sel.core v.sel.slot area 5 v.who id)

/-- Who a group is for a move of its own, as its first entry stands (R212). -/
def groupWho (s : State) (c slot : Nat) (g : Group) : Who :=
  let sp := g.entries.head?
  let t := Table.get? s.tasks g.task
  ⟨slot, (s.core c).ggenOf slot, g.gid, g.task, (t.map Task.ctx).getD 0, (t.map Task.asid).getD 0,
   (sp.map (fun x => lowLane x.mask)).getD 0, (sp.map Split.mask).getD 0,
   (sp.map (fun x => pennantTop g x.ptop 4)).getD []⟩

/-- What splits have before they merge or fuse is before what the fused split does: every release marker of one of them
orders the stores that the fused split issues from now on, on whichever of its lanes (R240, R243). -/
def State.joinOrders (c slot : Nat) (mask : W32) (s : State) : State :=
  let k := s.core c
  let of := fun (m : Marker) => k.ownsAt slot m.who &&
    (decide (m.who.mask &&& mask ≠ 0) || m.cover.any (fun e => decide (e.1 &&& mask ≠ 0)))
  if k.markers.any of then
    s.modCore c (fun x => { x with markers := x.markers.map (fun m =>
      if of m then { m with cover := m.cover ++ [(mask, s.tick)] } else m) })
  else s

/-- The lanes of the splits of an origin: the mask of their fused entry (R119). -/
def Group.originMask (g : Group) (w : Split) : W32 :=
  (g.entries.filter (fun sp => g.ofOrigin w.origin sp)).foldl (fun m sp => m ||| sp.mask) 0

/-- Every merge of a group's waiting splits whose condition holds, the widest first, each with its counter signal (R119,
R311); one event may fulfil the conditions of several origins. -/
def State.mergeMeets (c slot : Nat) : Nat → State → State
  | 0, s => s
  | n + 1, s => match s.group? c slot with
    | none => s
    | some g => match g.meeting with
      | none => s
      | some w => State.mergeMeets c slot n ((((s.putGroup c slot (g.merge w)).syncArea c slot g).joinOrders c slot
          (g.originMask w)).signal c (s.ctxOf c slot) 8)

/-- The entry at an index leaves (R110): DONE. Origins settle (R116), a frame whose last claim the entry held is freed
(R127), and when the last member of the handler set leaves, handler mode ends (R277). The granules freed come with it. -/
def Group.removeSplit (g : Group) (idx : Nat) : Group × List Nat :=
  let g1 := ({ g with splits := dropAt g.splits idx }).settle 32
  let r := match g.splits[idx]? with
    | some sp => if g1.entries = [] then (g1, []) else g1.popFrames 256 sp.frame Config.scalarGranules
    | none => (g1, [])
  (if r.1.handler && r.1.entries.all (fun sp => !sp.inHandler) then r.1.leaveHandler else r.1, r.2)

/-- Whether two resident entries fuse under R121: ready, at one PC, in one frame, alike in the handler set (R277). -/
def canFuse (a b : Split) : Bool :=
  decide (a.state = .ready) && decide (b.state = .ready) && decide (a.pc = b.pc) && decide (a.frame = b.frame) &&
  (a.inHandler == b.inHandler)

/-- What two fused entries have debited for the instruction they stand at. -/
def fusePaid : Option Nat → Option Nat → Option Nat
  | some x, some y => some (x + y)
  | some x, none => some x
  | none, y => y

/-- Where a fused entry has stopped for a pre-emption: where both have, else nowhere (log entry 55). -/
def fuseStop (a b : SafeStop) : SafeStop :=
  if a = b then a else if a = .no || b = .no then .no else .yield

/-- Two resident entries fused at the place of the older (R121). Which of their latest trap entries counts for a double trap
(R37) and which last issue orders the fused entry (R132) the spec does not say: the model keeps the older entry's (DESIGN
CHOICE, log entry 55). -/
def Group.fusePair (g : Group) (i j : Nat) (a b : Split) : Group :=
  let low := if lowLane a.mask < lowLane b.mask then a else b
  let x := { a with
    mask := a.mask ||| b.mask, ptop := low.ptop, origin := g.common a.origin b.origin, missing := a.missing || b.missing
    paid := fusePaid a.paid b.paid, stop := fuseStop a.stop b.stop }
  ({ g with splits := changeAt (dropAt g.splits j) i (fun _ => x) }).settle 32

/-- The most recently spilled entry brought back to the old end of the list; the next may come in the next cycle (R124). -/
def Group.refill (g : Group) (now : Nat) : Group :=
  match g.spilled.getLast? with
  | some sp => { g with
      splits := sp.unstow now :: g.splits, spilled := g.spilled.dropLast, opps := 0, refillAt := now + 1 }
  | none => g

/-- The entry at the head rotates in, and the oldest resident entry that was there goes to the tail (R125). -/
def Group.rotate (g : Group) (now : Nat) : Group :=
  match g.spilled, g.splits with
  | h :: hs, sp :: rest => { g with
      splits := h.unstow now :: rest
      spilled := hs ++ [sp.stow now]
      head := (g.head + 1) % 24
      opps := 0 }
  | _, _ => g

/-- An entry that leaves state meet alone at its bound (R120). -/
def Group.leftMeet (g : Group) (sp : Split) : Split :=
  { sp with state := g.wakeState sp, pc := sp.meet + 4, meet := 0, mrem := 0, mfrom := 0 }

/-- A split leaves state meet alone at its bound (R120). -/
def Group.expire (g : Group) (idx : Nat) : Group := { g with splits := changeAt g.splits idx g.leftMeet }

/-- As `Group.expire`, for an entry that the cycle of its MEET has spilled. -/
def Group.expireSpilled (g : Group) (idx : Nat) : Group := { g with spilled := changeAt g.spilled idx g.leftMeet }

end Sys2Proof.Machine
end

