-- ==== Sys2Proof/Machine/Image.lean ====
section
/-! DEFINITION. How the device lays state out in memory: saved registers (R205, R206), frames (R296), group
blocks and the crew image (R294, R295). -/

namespace Sys2Proof.Machine

/-- The format of a vector register record (R206). -/
inductive RecForm where
  | raw | equal | delta8 | delta16 | poisoned
  deriving DecidableEq, Repr

/-- δL of R206: lane L less lane 0, as a signed number. -/
def laneDelta (l : Lanes) (k : Nat) : Int := (laneAt l k - laneAt l 0).toInt

/-- The choice of R206. -/
def recForm (r : VReg) : RecForm :=
  let all := fun (f : Int → Bool) => (upto 32).all (fun k => f (laneDelta r.lanes k))
  if r.poison ≠ 0 then .poisoned
  else if all (fun d => decide (d = 0)) then .equal
  else if all (fun d => decide (-128 ≤ d) && decide (d ≤ 127)) then .delta8
  else if all (fun d => decide (-32768 ≤ d) && decide (d ≤ 32767)) then .delta16
  else .raw

/-- The 4-byte lanes of a register. -/
def rawLanes (f : Nat → W32) : List Byte := (upto 32).flatMap (fun k => leBytes 4 (f k).toNat)

/-- A saved vector register (R205). -/
def vectorRecord (r : VReg) : List Byte :=
  let base := leBytes 4 (laneAt r.lanes 0).toNat
  let deltas := fun (n : Nat) => ((upto 32).drop 1).flatMap (fun k =>
    leBytes n (BitVec.ofInt (8 * n) (laneDelta r.lanes k)).toNat)
  match recForm r with
  | .raw => leBytes 1 0 ++ rawLanes (laneAt r.lanes)
  | .equal => leBytes 1 1 ++ base
  | .delta8 => leBytes 1 2 ++ base ++ deltas 1
  | .delta16 => leBytes 1 3 ++ base ++ deltas 2
  | .poisoned => leBytes 1 0x80 ++ leBytes 4 r.poison.toNat ++
      rawLanes (fun k => if maskHas r.poison k then 0 else laneAt r.lanes k)

/-- A frame placed in the order of the frame list: ascending depth, then ascending scalar granule (R296). -/
def insertFrame (e : Nat × Frame) : List (Nat × Frame) → List (Nat × Frame)
  | [] => [e]
  | x :: xs =>
    if e.2.depth < x.2.depth || (decide (e.2.depth = x.2.depth) && decide (e.1 < x.1)) then e :: x :: xs
    else x :: insertFrame e xs

/-- The frame list of a group (R296). -/
def frameList (g : Group) : List (Nat × Frame) := g.frames.foldl (fun l e => insertFrame e l) []

/-- The index of a frame in the frame list. -/
def frameIndex (g : Group) (fr : Nat) : Nat := (findPos (fun e => decide (e.1 = fr)) (frameList g)).getD 0

/-- The poison of scalars lo to lo + n − 1, as a number. -/
def scalarPoison (t : Table SReg) (lo n : Nat) : Nat :=
  total ((upto n).map (fun k => if (Table.getD t (lo + k) SReg.zero).poison then 2 ^ k else 0))

/-- A frame of the list with its registers (R296); `gen` is the generation of its slot after the save. -/
def frameBytes (g : Group) (gen : BitVec 8) (e : Nat × Frame) : List Byte :=
  let f := e.2
  let link := match f.link with
    | some l => frameIndex g l
    | none => 0x7FF
  leBytes 8 (f.retPc.toNat % 2 ^ 56) ++
  leBytes 8 (link + f.grans.length * 2 ^ 12 + f.depth * 2 ^ 16 + f.markGen.toNat * 2 ^ 24) ++
  leBytes 8 (scalarPoison f.s 32 32) ++ leBytes 8 (e.1 + gen.toNat * 2 ^ 16) ++
  (upto (8 * f.grans.length)).flatMap (fun n => vectorRecord (Table.getD f.v n VReg.zero)) ++
  (upto 32).flatMap (fun k => leBytes 8 (Table.getD f.s (32 + k) SReg.zero).val.toNat)

/-- A saved MMM or a matrix operation that waits on faults (R295): its PC, accumulator and quarters, the B address, its
formats, and the rows of each quarter. The order of the four dwords is the model's (log entry 20). -/
def matBytes (o : MatOp) : List Byte :=
  leBytes 8 (o.pc.toNat % 2 ^ 56) ++ leBytes 8 (o.target + o.quarters.toNat * 2 ^ 8) ++ leBytes 8 o.bva.toNat ++
  leBytes 8 (o.mfr.toNat + b2n o.dual * 2 ^ 16) ++
  (quarterList o.quarters).flatMap (fun q => ((o.rows.drop (4 * q)).take 4).flatMap id)

/-- What a group block says beside the group itself (R295). -/
structure BlockInfo where
  forced : Bool
  slot   : Nat
  ggen   : BitVec 8
  core   : Nat
  ctrs   : Nat × Nat × Nat × Nat
  mats   : List MatOp
  /-- the cycle at which the counts of MEET stand (R120) -/
  now    : Nat
  /-- the generation of each frame's slot after the save -/
  gens   : Nat → BitVec 8

/-- The entry index of the handler split + 1 (R295): the oldest member of the handler set. -/
def handlerIndex (g : Group) : Nat :=
  if g.handler then ((findPos Split.inHandler g.entries).map (· + 1)).getD 0 else 0

/-- The depth of a group's pennant stack: the highest ptop of its splits (R302). -/
def pennantDepth (g : Group) : Nat := (g.entries.map Split.ptop).foldl max 0

/-- A group block (R295). -/
def groupBlock (g : Group) (b : BlockInfo) : List Byte :=
  let waits := b.mats.filter (fun o => decide (o.kind = .mmm) && !o.drained)
  let pdep := pennantDepth g
  let head :=
    leBytes 8 (g.entries.length + handlerIndex g * 2 ^ 8 + b2n b.forced * 2 ^ 16 + pdep * 2 ^ 32) ++
    leBytes 8 (g.mfr.toNat + g.fcr.toNat * 2 ^ 16 + b2n g.sat * 2 ^ 18 + b2n g.dual * 2 ^ 19 + g.mb.toNat * 2 ^ 32) ++
    leBytes 8 g.tvb.toNat ++ leBytes 8 g.tca.toNat ++ leBytes 8 g.tpc.toNat ++ leBytes 8 g.tval.toNat ++
    leBytes 8 (g.stale.toNat + g.slip.toNat * 2 ^ 32) ++
    leBytes 8 (b.ctrs.1 % 2 ^ 16 + b.ctrs.2.1 % 2 ^ 16 * 2 ^ 16 + b.ctrs.2.2.1 % 2 ^ 16 * 2 ^ 32 +
      b.ctrs.2.2.2 % 2 ^ 16 * 2 ^ 48) ++
    leBytes 8 (scalarPoison g.s 0 32 +
      total ((upto 16).map (fun k => if (g.readP k).poison then 2 ^ (32 + k) else 0))) ++
    leBytes 8 (g.mfaults.length + g.frames.length * 2 ^ 32 + waits.length * 2 ^ 24) ++
    leBytes 8 (b.ggen.toNat + b.slot * 2 ^ 16 + b.core * 2 ^ 32) ++ List.replicate 40 0
  head ++
  g.entries.flatMap (fun sp => entryBytes (g.asShown sp) (frameIndex g sp.frame)
    (if g.splits.any (fun x => decide (x = sp)) then sp.left b.now else sp.mrem)) ++
  originBytes g ++
  (upto pdep).flatMap (fun k => leBytes 4 (Table.getD g.pennants k 0).toNat) ++
  g.mfaults.flatMap (fun f => leBytes 8 f.tval.toNat ++ leBytes 1 f.cause ++ List.replicate 7 0) ++
  waits.flatMap matBytes ++
  (upto 16).flatMap (fun k => leBytes 4 (g.pval k).toNat) ++
  ((upto 32).drop 1).flatMap (fun k => leBytes 8 (Table.getD g.s k SReg.zero).val.toNat) ++
  (upto 8).flatMap (fun k => vectorRecord (Table.getD g.v (120 + k) VReg.zero)) ++
  g.tiles.flatMap (fun e => leBytes 4 e.2.poison.toNat ++ e.2.bytes) ++
  g.accs.flatMap (fun e => leBytes 1 e.2.poison.toNat ++ List.replicate 3 0 ++ e.2.vals.flatMap (fun x => leBytes 4 x.toNat)) ++
  (frameList g).flatMap (fun e => frameBytes g (b.gens e.1) e)

/-- The crew image (R294): its header, the full channel slots in channel and ring order, and the group blocks in the
order of the groups. `resume` gives the resume bits. -/
def crewImage (handle : W64) (chans : Table Chan) (blocks : List (List Byte)) (resume : Nat) : List Byte :=
  let slots := chans.flatMap (fun e => e.2.full.flatMap vectorRecord)
  let cfull := total (chans.map (fun e => total ((upto e.2.full.length).map (fun k =>
    2 ^ (8 * e.1 + (e.2.popPos + k) % e.2.depth)))))
  let cpos := (upto 16).flatMap (fun c => match Table.get? chans c with
    | some x => leBytes 1 (x.pushPos + x.popPos * 8)
    | none => leBytes 1 0)
  let first := 256 + slots.length
  let offs := blocks.foldl (fun (r : List Nat × Nat) b => (r.1 ++ [r.2], r.2 + b.length)) ([], first)
  leBytes 8 (1 + (blocks.length - 1) * 2 ^ 8 + offs.2 * 2 ^ 32) ++ leBytes 8 handle.toNat ++ leBytes 16 cfull ++ cpos ++
  List.replicate 16 0 ++ leBytes 64 resume ++
  (upto 16).flatMap (fun k => leBytes 8 (offs.1.getD k 0)) ++ slots ++ blocks.flatMap id

/-- The generation of a frame's slot after a save or spill. -/
def genAfter (gens : Table (BitVec 8)) (fr : Nat) : BitVec 8 := Table.getD gens fr 0

/-- The block of a saved group (R295). -/
def SavedGroup.block (x : SavedGroup) : List Byte :=
  groupBlock x.group ⟨x.forced, x.slot, x.ggen, x.core, x.ctrs, x.mats, 0, genAfter x.gens⟩

/-- The resume bits of an image: bit 32g + e, for an entry whose mask holds the lane of a reply (R294, R298). -/
def resumeBits (saved : List SavedGroup) : Nat :=
  total (((upto saved.length).zip saved).map (fun x =>
    total (((upto x.2.group.entries.length).zip x.2.group.entries).map (fun e =>
      if x.2.resume.any (maskHas e.2.mask) then 2 ^ (32 * x.1 + e.1) else 0))))

/-- The image of a saved task (R294). -/
def Task.imageBytes (t : Task) : List Byte :=
  crewImage t.handle t.chans (t.saved.map SavedGroup.block) (resumeBits t.saved)

/-- The image of a task stored, where it is saved (R294). -/
def State.storeImage (s : State) (tid : Nat) : State :=
  match Table.get? s.tasks tid with
  | none => s
  | some t => if t.saved = [] then s else s.storeArea (imageOf tid) t.imageBytes

/-- The next image that is to be stored anew, since a dropped write was counted in one of its groups (R203). -/
def imageTurn (s : State) : Option State :=
  (s.tasks.find? (fun e => e.2.saved.any SavedGroup.dirty)).map (fun e =>
    (s.modTask e.1 (fun t => { t with saved := t.saved.map (fun x => { x with dirty := false }) })).storeImage e.1)

/-- The frame layout of the frame spill area: the frame list of R296. -/
def frameAreaBytes (g : Group) (gens : Table (BitVec 8)) : List Byte :=
  (frameList g).flatMap (fun e => frameBytes g (genAfter gens e.1) e)

/-- The frame spill area of a victim stored as its group now stands (R287). -/
def State.storeFrameArea (s : State) (c slot : Nat) : State :=
  match s.group? c slot, (s.core c).victims.find? (fun x => decide (x.slot = slot)) with
  | some g, some x => if g.out then s.storeArea (frameAreaOf c slot) (frameAreaBytes g x.gens) else s
  | _, _ => s

/-! What a restore checks of an image (R297). -/

/-- Where the format bytes of vector records that follow one another stand, from an offset on (R205). -/
def formatOffsets : Nat → List VReg → List Nat
  | _, [] => []
  | o, r :: rs => o :: formatOffsets (o + (vectorRecord r).length) rs

/-- The length of vector records that follow one another. -/
def recordsLength (rs : List VReg) : Nat := total (rs.map (fun r => (vectorRecord r).length))

/-- The vector registers of a frame that an image holds (R296). -/
def Frame.saved (f : Frame) : List VReg := (upto (8 * f.grans.length)).map (fun n => Table.getD f.v n VReg.zero)

/-- Where the format bytes of frames that follow one another stand (R296). -/
def frameFormats : Nat → List (Nat × Frame) → List Nat
  | _, [] => []
  | o, e :: es => formatOffsets (o + 32) e.2.saved ++ frameFormats (o + 32 + recordsLength e.2.saved + 256) es

/-- Where the format bytes of a group block at an offset stand (R295). -/
def SavedGroup.formats (x : SavedGroup) (o : Nat) : List Nat :=
  let g := x.group
  let waits := x.mats.filter (fun y => decide (y.kind = .mmm) && !y.drained)
  let globals := (upto 8).map (fun k => Table.getD g.v (120 + k) VReg.zero)
  let vectors := o + 128 + 32 * g.entries.length + 32 + 4 * pennantDepth g + 16 * g.mfaults.length +
    total (waits.map (fun y => (matBytes y).length)) + 64 + 248
  formatOffsets vectors globals ++
    frameFormats (vectors + recordsLength globals + 1540 * g.tiles.length + 1028 * g.accs.length) (frameList g)

/-- Where the state codes of a group block's split entries stand (R114, R295). -/
def SavedGroup.codes (x : SavedGroup) (o : Nat) : List Nat := (upto x.group.entries.length).map (fun e => o + 128 + 32 * e + 15)

/-- The offsets of group blocks that follow one another, each with its group. -/
def blocksFrom : Nat → List SavedGroup → List (Nat × SavedGroup)
  | _, [] => []
  | o, x :: xs => (o, x) :: blocksFrom (o + x.block.length) xs

/-- Whether the image of a task, as memory holds it, has only state codes of R114 and format bytes of R205. -/
def imageSound (s : State) (tid : Nat) (t : Task) : Bool :=
  let byte := fun o => (Memory.get s.mem (areaPhys (imageOf tid) + o)).toNat
  let slots := t.chans.flatMap (fun e => e.2.full)
  let blocks := blocksFrom (256 + recordsLength slots) t.saved
  blocks.all (fun b => (b.2.codes b.1).all (fun o => decide (byte o % 8 < 6))) &&
  (formatOffsets 256 slots ++ blocks.flatMap (fun b => b.2.formats b.1)).all (fun o =>
    decide (byte o < 4) || decide (byte o = 0x80))

end Sys2Proof.Machine
end

