-- ==== Sys2Proof/Machine/Scalar.lean ====
section
/-! DEFINITION. The scalar arithmetic, logic, compare, select and immediate instructions (R62 to R69). -/

namespace Sys2Proof.Machine

/-- An instruction whose effect is one scalar, computed from the sources as read at issue (R59, R60). -/
def scalarBody (d : Nat) (x : View → W64) (v : View) (s : State) : Act :=
  .next (s.onGroup v.sel (fun g => g.writeS v.fr d (x v)))

/-- The quotient and remainder of the signed divide, truncated toward zero, −2^63 by −1 wrapping (R63). -/
def signedQuot (x y : W64) : W64 := trunc64 (x.toInt.tdiv y.toInt)
/-- The remainder of the signed divide, with the sign of the dividend (R63). -/
def signedRem (x y : W64) : W64 := trunc64 (x.toInt.tmod y.toInt)
/-- The unsigned quotient (R63). -/
def unsignedQuot (x y : W64) : W64 := BitVec.ofNat 64 (x.toNat / y.toNat)
/-- The unsigned remainder (R63). -/
def unsignedRem (x y : W64) : W64 := BitVec.ofNat 64 (x.toNat % y.toNat)

/-- A divide form: a divisor of zero traps with cause 8 (R63, R40 position 12). -/
def divideBody (d a b : Nat) (f : W64 → W64 → W64) (v : View) (s : State) : Act :=
  if v.rs b = 0 then .trap 8 0 else scalarBody d (fun v => f (v.rs a) (v.rs b)) v s

/-- `s(b)` as a shift amount: its low six bits (R62). -/
def shiftAmount (y : W64) : Nat := y.toNat % 64

/-- The product of two values, 128 bits exact, shifted to its high half (R62). -/
def highProduct (x y : Int) : W64 := trunc64 ((x * y).fdiv (2 ^ 64))

/-- A rotation to the left (R62). -/
def rotate64 (x : W64) (n : Nat) : W64 := (x <<< n) ||| (x >>> (64 - n))

/-- ADD: the sum, wrapping (R62). -/
def execAdd (d a b : Nat) (s : State) : Result := issue (.add d a b) (scalarBody d (fun v => v.rs a + v.rs b)) s

/-- SUB: the difference, wrapping (R62). -/
def execSub (d a b : Nat) (s : State) : Result := issue (.sub d a b) (scalarBody d (fun v => v.rs a - v.rs b)) s

/-- MUL: the low half of the product (R62). -/
def execMul (d a b : Nat) (s : State) : Result := issue (.mul d a b) (scalarBody d (fun v => v.rs a * v.rs b)) s

/-- MULH: the high half of the signed product (R62). -/
def execMulh (d a b : Nat) (s : State) : Result := issue (.mulh d a b) (scalarBody d (fun v => highProduct (v.rs a).toInt (v.rs b).toInt)) s

/-- MULHU: the high half of the unsigned product (R62). -/
def execMulhu (d a b : Nat) (s : State) : Result := issue (.mulhu d a b) (scalarBody d (fun v => highProduct (v.rs a).toNat (v.rs b).toNat)) s

/-- MIN: the signed smaller (R62). -/
def execMin (d a b : Nat) (s : State) : Result := issue (.min d a b) (scalarBody d (fun v => if (v.rs b).toInt < (v.rs a).toInt then v.rs b else v.rs a)) s

/-- MAX: the signed larger (R62). -/
def execMax (d a b : Nat) (s : State) : Result := issue (.max d a b) (scalarBody d (fun v => if (v.rs a).toInt < (v.rs b).toInt then v.rs b else v.rs a)) s

/-- MINU: the unsigned smaller (R62). -/
def execMinu (d a b : Nat) (s : State) : Result := issue (.minu d a b) (scalarBody d (fun v => if (v.rs b).toNat < (v.rs a).toNat then v.rs b else v.rs a)) s

/-- MAXU: the unsigned larger (R62). -/
def execMaxu (d a b : Nat) (s : State) : Result := issue (.maxu d a b) (scalarBody d (fun v => if (v.rs a).toNat < (v.rs b).toNat then v.rs b else v.rs a)) s

/-- DIV: the signed quotient (R63). -/
def execDiv (d a b : Nat) (s : State) : Result := issue (.div d a b) (divideBody d a b signedQuot) s

/-- DIVU: the unsigned quotient (R63). -/
def execDivu (d a b : Nat) (s : State) : Result := issue (.divu d a b) (divideBody d a b unsignedQuot) s

/-- REM: the signed remainder (R63). -/
def execRem (d a b : Nat) (s : State) : Result := issue (.rem d a b) (divideBody d a b signedRem) s

/-- REMU: the unsigned remainder (R63). -/
def execRemu (d a b : Nat) (s : State) : Result := issue (.remu d a b) (divideBody d a b unsignedRem) s

/-- AND (R62). -/
def execAnd (d a b : Nat) (s : State) : Result := issue (.and d a b) (scalarBody d (fun v => v.rs a &&& v.rs b)) s

/-- OR (R62). -/
def execOr (d a b : Nat) (s : State) : Result := issue (.or d a b) (scalarBody d (fun v => v.rs a ||| v.rs b)) s

/-- XOR (R62). -/
def execXor (d a b : Nat) (s : State) : Result := issue (.xor d a b) (scalarBody d (fun v => v.rs a ^^^ v.rs b)) s

/-- ANDN: X and not Y (R62). -/
def execAndn (d a b : Nat) (s : State) : Result := issue (.andn d a b) (scalarBody d (fun v => v.rs a &&& ~~~(v.rs b))) s

/-- SHL: a left shift (R62). -/
def execShl (d a b : Nat) (s : State) : Result := issue (.shl d a b) (scalarBody d (fun v => v.rs a <<< shiftAmount (v.rs b))) s

/-- SHR: a right shift with zero fill (R62). -/
def execShr (d a b : Nat) (s : State) : Result := issue (.shr d a b) (scalarBody d (fun v => v.rs a >>> shiftAmount (v.rs b))) s

/-- SAR: a right shift with sign fill (R62). -/
def execSar (d a b : Nat) (s : State) : Result := issue (.sar d a b) (scalarBody d (fun v => (v.rs a).sshiftRight (shiftAmount (v.rs b)))) s

/-- ROL: a left rotation (R62). -/
def execRol (d a b : Nat) (s : State) : Result := issue (.rol d a b) (scalarBody d (fun v => rotate64 (v.rs a) (shiftAmount (v.rs b)))) s

/-- CLZ: the zero bits above the highest 1 bit, 64 for 0 (R62). -/
def execClz (d a : Nat) (s : State) : Result := issue (.clz d a) (scalarBody d (fun v => BitVec.ofNat 64 (countLeadingZeros (v.rs a)))) s

/-- POPC: the number of 1 bits (R62). -/
def execPopc (d a : Nat) (s : State) : Result := issue (.popc d a) (scalarBody d (fun v => BitVec.ofNat 64 (countOnes (v.rs a)))) s

/-- MOV (R62). -/
def execMov (d a : Nat) (s : State) : Result := issue (.mov d a) (scalarBody d (fun v => v.rs a)) s

/-- CMP: 1 when the condition holds, else 0 (R64). -/
def execCmp (cc : Cond) (d a b : Nat) (s : State) : Result :=
  issue (.cmp cc d a b) (scalarBody d (fun v => if condHolds cc (v.rs a) (v.rs b) then 1 else 0)) s

/-- SEL: s(a) when the selector is not zero, else s(b) (R65). -/
def execSel (d a b sel : Nat) (s : State) : Result :=
  issue (.sel d a b sel) (scalarBody d (fun v => if v.rs sel ≠ 0 then v.rs a else v.rs b)) s

/-- ADDI: the immediate is extended with its sign (R66). -/
def execAddi (d a : Nat) (imm : BitVec 11) (s : State) : Result :=
  issue (.addi d a imm) (scalarBody d (fun v => v.rs a + imm.signExtend 64)) s

/-- ANDI: the immediate is extended with its sign (R66). -/
def execAndi (d a : Nat) (imm : BitVec 11) (s : State) : Result :=
  issue (.andi d a imm) (scalarBody d (fun v => v.rs a &&& imm.signExtend 64)) s

/-- ORI: the immediate is extended with its sign (R66). -/
def execOri (d a : Nat) (imm : BitVec 11) (s : State) : Result :=
  issue (.ori d a imm) (scalarBody d (fun v => v.rs a ||| imm.signExtend 64)) s

/-- XORI: the immediate is extended with its sign (R66). -/
def execXori (d a : Nat) (imm : BitVec 11) (s : State) : Result :=
  issue (.xori d a imm) (scalarBody d (fun v => v.rs a ^^^ imm.signExtend 64)) s

/-- SHLI (R67). -/
def execShli (d a n : Nat) (s : State) : Result := issue (.shli d a n) (scalarBody d (fun v => v.rs a <<< n)) s

/-- SHRI (R67). -/
def execShri (d a n : Nat) (s : State) : Result := issue (.shri d a n) (scalarBody d (fun v => v.rs a >>> n)) s

/-- SARI (R67). -/
def execSari (d a n : Nat) (s : State) : Result := issue (.sari d a n) (scalarBody d (fun v => (v.rs a).sshiftRight n)) s

/-- LI: the immediate extended with its sign (R68). -/
def execLi (d : Nat) (imm : BitVec 18) (s : State) : Result :=
  issue (.li d imm) (scalarBody d (fun _ => imm.signExtend 64)) s

/-- LIH: 18 bits shifted in from the right (R69). -/
def execLih (d : Nat) (imm : BitVec 18) (s : State) : Result :=
  issue (.lih d imm) (scalarBody d (fun v => (v.rs d <<< 18) + imm.setWidth 64)) s

end Sys2Proof.Machine
end

