-- ==== Sys2Proof/Machine/Control.lean ====
section
/-! DEFINITION. Branches and jumps (R76, R77, R163), calls, returns and frames (R78 to R84, R127, R128), frame requests and
their grant (R81, R288), and MEET (R118 to R120, R164). -/

namespace Sys2Proof.Machine

/-- BZ: taken when the scalar is zero (R76). -/
def execBz (idx : Nat) (off : BitVec 19) (s : State) : Result :=
  issue (.bz idx off) (fun v st => if v.rs idx = 0 then .goto (wordTarget v.split.pc off) st else .next st) s

/-- BNZ: taken when the scalar is not zero (R76). -/
def execBnz (idx : Nat) (off : BitVec 19) (s : State) : Result :=
  issue (.bnz idx off) (fun v st => if v.rs idx ≠ 0 then .goto (wordTarget v.split.pc off) st else .next st) s

/-- JMP (R76). -/
def execJmp (off : BitVec 19) (s : State) : Result :=
  issue (.jmp off) (fun v st => .goto (wordTarget v.split.pc off) st) s

/-- A divergence: the new entries, with the spill that a ninth resident entry needs (R117, R123). -/
def brvSplit (v : View) (taken : W32) (target : W64) (s : State) : State :=
  let s1 := s.onGroup v.sel (fun g => g.diverge v.sel.idx (s.cyc v.sel.core) v.split taken target)
  let s2 := s1.signal v.sel.core v.task.ctx 7
  if v.group.splits.length < 8 then s2.syncArea v.sel.core v.sel.slot v.group
  else (s2.signal v.sel.core v.task.ctx 10).storeSplitArea v.sel.core v.sel.slot

/-- BRV: the vote of R117. Where the spill area it needs is on an absent page, the group parks, and the BRV, which has been
debited, diverges when the spill can be made (R31, R126). -/
def brvBody (idx : Nat) (off : BitVec 19) (v : View) (s : State) : Act :=
  let taken := v.m &&& v.group.pval idx
  let target := wordTarget v.split.pc off
  if taken = v.m then .goto target s
  else if taken = 0 then .next s
  else if v.group.splits.length < 8 then .placed (brvSplit v taken target s)
  else withArea v (splitAreaOf v.sel.core v.sel.slot) 0 832 1 (fun st => .placed (brvSplit v taken target st)) s

/-- BRV (R117, R163). -/
def execBrv (idx : Nat) (off : BitVec 19) (s : State) : Result := issue (.brv idx off) (brvBody idx off) s

/-- The checks of a jump to a register value: alignment, then range (R19, R77, R80). -/
def jumpTrap (t : W64) : Option Nat :=
  if t &&& 3 ≠ 0 then some 7 else if t >>> 56 ≠ 0 then some 6 else none

/-- JR (R77). -/
def execJr (a : Nat) (s : State) : Result :=
  issue (.jr a) (fun v st => match jumpTrap (v.rs a) with
    | some cause => .trap cause (v.rs a)
    | none => .goto (v.rs a) st) s

/-! Frames. -/

/-- The vector granules of a core that frames and channels hold (R27, R137). -/
def usedGrans (s : State) (c : Nat) : List Nat :=
  ((s.core c).groups.flatMap (fun e => if e.2.out then [] else e.2.frames.flatMap (fun f => f.2.grans))) ++
  (s.tasks.flatMap (fun e => if e.2.place = c then e.2.chanGrans else []))

/-- `n` free vector granules of a core, if it has them (R78). -/
def takeGrans (s : State) (c n : Nat) : Option (List Nat) :=
  let used := usedGrans s c
  if used.length + n ≤ Config.vectorGranules then
    some (((upto Config.vectorGranules).filter (fun k => !(used.contains k))).take n)
  else none

/-- The scalar granules that frames of a core hold. -/
def usedScalars (s : State) (c : Nat) : List Nat :=
  (s.core c).groups.flatMap (fun e => if e.2.out then [] else Table.keys e.2.frames)

/-- The lowest-numbered free scalar granule (R78). -/
def takeScalar (s : State) (c : Nat) : Option Nat := lowestFree (usedScalars s c) 0 Config.scalarGranules

/-- What an instruction asks of the core's frame storage before it issues: vector granules, and whether a scalar
granule (R80, R83). A form that will trap asks for nothing. -/
def frameDemand (v : View) (i : Instr) : Option (Nat × Bool) :=
  match i with
  | .call n _ => if v.frame.depth = 255 then none else some (ceil8 n, true)
  | .callr n a => if v.frame.depth = 255 || (jumpTrap (v.rs a)).isSome then none else some (ceil8 n, true)
  | .fgrow k => if v.frame.grans.length + k ≤ 15 then some (k, false) else none
  | _ => none

/-- Whether a demand fits now. -/
def demandFits (s : State) (c grans : Nat) (scalar : Bool) : Bool :=
  (takeGrans s c grans).isSome && (!scalar || (takeScalar s c).isSome)

/-- Whether a request stands before another: it came in an earlier cycle, or in the same one from a lower group slot, or from
a split of a lower lane (R81). -/
def FrameReq.earlier (a b : FrameReq) : Bool :=
  decide (a.arrived < b.arrived) || (decide (a.arrived = b.arrived) &&
    (decide (a.slot < b.slot) || (decide (a.slot = b.slot) && decide (a.lane < b.lane))))

/-- A request put into its place in the order of R81. -/
def insertRequest (r : FrameReq) : List FrameReq → List FrameReq
  | [] => [r]
  | x :: xs => if r.earlier x then r :: x :: xs else x :: insertRequest r xs

/-- A frame request joins the core's queue, and its split waits in state frame (R81, R114). -/
def requestFrame (i : Instr) (v : View) (d : Nat × Bool) (s : State) : State :=
  let now := s.cyc v.sel.core
  (s.modCore v.sel.core (fun k => { k with
    lastGrant := if k.requests = [] then now else k.lastGrant
    requests := insertRequest ⟨v.sel.slot, lowLane v.m, i, d.1, d.2, now⟩ k.requests })).onSplit v.sel
      (fun sp => { sp with state := .frame, wait := .frame })

/-- Whether an instruction's allowance check and the poison of its sources leave it to its effect (R31, R143). -/
def wouldIssue (v : View) (i : Instr) : Bool :=
  !(v.split.paid.isNone && v.task.short (costOf v i)) && (firstPoison v i).isNone

/-- Whether a demand fits beside what the cycle's other side asks before it (R81). -/
def fitsBehind (s : State) (c : Nat) (d : Nat × Bool) : Bool :=
  let all := d :: s.ahead
  decide ((usedGrans s c).length + total (all.map Prod.fst) ≤ Config.vectorGranules) &&
  decide ((usedScalars s c).length + (all.filter Prod.snd).length ≤ Config.scalarGranules)

/-- Whether no request stands before a new one. In a cycle that both sides of the core share, one of that cycle from a higher
group slot stands behind it (R81). -/
def nextInOrder (v : View) (s : State) : Bool :=
  decide (v.core.requests = []) ||
  (s.hold && v.core.requests.all (fun r => decide (r.arrived = s.cyc v.sel.core) && decide (v.sel.slot < r.slot)))

/-- An instruction that may have to wait for granules (R81): behind every earlier request, and until its demand fits. In a cycle
that both sides of the core share the requests of the other side that stand before it are served before it too. -/
def issueOrRequest (i : Instr) (body : View → State → Act) (v : View) (s : State) : State :=
  match frameDemand v i with
  | some d =>
    if nextInOrder v s && demandFits s v.sel.core d.1 d.2 && (!s.hold || fitsBehind s v.sel.core d) then issueFrom i body v s
    else requestFrame i v d s
  | none => issueFrom i body v s

/-- The marker of a frame (R28). -/
def markerOf (gen : BitVec 8) (depth : Nat) : W64 := BitVec.ofNat 64 (gen.toNat * 256 + depth)

/-- `frame_alloc`: the callee's frame in the lowest free scalar granule, zero but for the marker in s63 (R27, R78 to
R80). -/
def allocFrame (v : View) (fr : Nat) (grans : List Nat) (s : State) : State :=
  let gen := v.core.sgenOf fr
  let depth := v.frame.depth + 1
  let f : Frame := ⟨grans, v.split.pc + 4, some v.fr, depth, gen, [], [(63, ⟨markerOf gen depth, false⟩)]⟩
  ((s.onGroup v.sel (fun g => g.putFrame fr f)).onSplit v.sel (fun sp => { sp with frame := fr })).modCore v.sel.core
    (fun k => { k with owners := Table.set k.owners fr (v.tid, v.group.gid) })

/-- The call itself, once its checks have passed and its granules are there (R80). -/
def callBody (demand : Nat) (t : W64) (v : View) (s : State) : Act :=
  match takeScalar s v.sel.core, takeGrans s v.sel.core (ceil8 demand) with
  | some fr, some gs => .goto t (allocFrame v fr gs s)
  | _, _ => .placed s

/-- CALL's effect (R80). -/
def callDirect (demand : Nat) (off : BitVec 18) (v : View) (s : State) : Act :=
  if v.frame.depth = 255 then .trap 13 (wordOf (.call demand off))
  else callBody demand (wordTarget v.split.pc off) v s

/-- CALLR's effect (R80). -/
def callIndirect (demand a : Nat) (v : View) (s : State) : Act :=
  match jumpTrap (v.rs a) with
  | some cause => .trap cause (v.rs a)
  | none => if v.frame.depth = 255 then .trap 13 (wordOf (.callr demand a)) else callBody demand (v.rs a) v s

/-- CALL (R80, R81). -/
def execCall (demand : Nat) (off : BitVec 18) (s : State) : Result :=
  issueWith (.call demand off) (issueOrRequest (.call demand off) (callDirect demand off)) s

/-- CALLR (R80, R81). -/
def execCallr (demand a : Nat) (s : State) : Result :=
  issueWith (.callr demand a) (issueOrRequest (.callr demand a) (callIndirect demand a)) s

/-- The split moved to a frame below its own; every frame that loses its last claim is freed, and its generation
advances (R82, R84, R127, R29). -/
def leaveFrames (v : View) (dest : Nat) (s : State) : State :=
  let s1 := s.onSplit v.sel (fun sp => { sp with frame := dest })
  match s1.group? v.sel.core v.sel.slot with
  | none => s1
  | some g =>
    let r := g.popFrames 256 v.fr dest
    (s1.putGroup v.sel.core v.sel.slot r.1).modCore v.sel.core (fun k => r.2.foldl Core.bumpGen k)

/-- RET after its debit (R82). -/
def retBody (v : View) (s : State) : Act :=
  match v.frame.link with
  | none => .trap 13 (wordOf .ret)
  | some caller => .goto v.frame.retPc (leaveFrames v caller s)

/-- RET (R82). -/
def execRet (s : State) : Result := issue .ret retBody s

/-- The granule of the frame at a depth of the chain that a frame stands in. -/
def Group.atDepth (g : Group) (depth : Nat) : Nat → Nat → Option Nat
  | 0, _ => none
  | fuel + 1, fr =>
    if (g.frame fr).depth = depth then some fr
    else match (g.frame fr).link with
      | some l => Group.atDepth g depth fuel l
      | none => none

/-- UNWIND after its debit (R84). -/
def unwindBody (a : Nat) (v : View) (s : State) : Act :=
  let m := v.rs a
  let k := W64.bits m 7 0
  let depth := v.frame.depth
  let bad := Act.trap 13 (wordOf (.unwind a))
  if m >>> 16 ≠ 0 || decide (depth < k) then bad
  else match v.group.atDepth k 257 v.fr with
    | none => bad
    | some fr =>
      if decide (0 < k) && decide ((v.group.frame fr).markGen.toNat ≠ W64.bits m 15 8) then bad
      else if k = depth then .next s
      else match v.group.atDepth (k + 1) 257 v.fr with
        | none => bad
        | some up => .goto (v.group.frame up).retPc (leaveFrames v fr s)

/-- UNWIND (R84). -/
def execUnwind (a : Nat) (s : State) : Result := issue (.unwind a) (unwindBody a) s

/-- FGROW after its debit: granules added, their registers zero (R83). -/
def fgrowBody (k : Nat) (v : View) (s : State) : Act :=
  let g := v.frame.grans.length
  if 15 < g + k then .trap 13 (wordOf (.fgrow k))
  else match takeGrans s v.sel.core k with
    | some gs => .next (s.onGroup v.sel (fun x => x.putFrame v.fr { x.frame v.fr with
        grans := (x.frame v.fr).grans ++ gs
        v := (x.frame v.fr).v.filter (fun e => decide (e.1 < 8 * g)) }))
    | none => .placed s

/-- FGROW (R83, R81). -/
def execFgrow (k : Nat) (s : State) : Result :=
  issueWith (.fgrow k) (issueOrRequest (.fgrow k) (fgrowBody k)) s

/-- FSHRINK after its debit: granules released from the top; the generation advances when none is left (R83, R29). -/
def fshrinkBody (k : Nat) (v : View) (s : State) : Act :=
  let g := v.frame.grans.length
  if g < k then .trap 13 (wordOf (.fshrink k))
  else
    let s1 := s.onGroup v.sel (fun x => x.putFrame v.fr { x.frame v.fr with
      grans := (x.frame v.fr).grans.take (g - k)
      v := (x.frame v.fr).v.filter (fun e => decide (e.1 < 8 * (g - k))) })
    .next (if g = k then s1.modCore v.sel.core (fun c => c.bumpGen v.fr) else s1)

/-- FSHRINK (R83). -/
def execFshrink (k : Nat) (s : State) : Result := issue (.fshrink k) (fshrinkBody k) s

/-- MEET after its debit: the split waits, from the next cycle on, merges, or with a bound of 0 goes on alone (R118 to
R120). In a cycle that several splits share, the bound of 0 ends with the cycle, so that what they do meets first. -/
def meetBody (v : View) (s : State) : Act :=
  let s1 := s.onSplit v.sel (fun sp => { sp with
    state := .meet, meet := v.split.pc, mrem := v.group.mb.toNat, mfrom := s.cyc v.sel.core + 1 })
  match s1.group? v.sel.core v.sel.slot with
  | none => .placed s1
  | some g => match g.meeting with
    | some _ => .placed (s1.mergeMeets v.sel.core v.sel.slot 32)
    | none =>
      if v.group.mb = 0 && s.together.isNone then
        .placed ((s1.putGroup v.sel.core v.sel.slot (g.expire v.sel.idx)).signal v.sel.core v.task.ctx 9)
      else .placed s1

/-- MEET (R118, R164). -/
def execMeet (s : State) : Result := issue .meet meetBody s

/-- The place of a split in its group's resident list, by its lowest lane. -/
def Group.byLane (g : Group) (lane : Nat) : Option Nat := findPos (fun sp => decide (lowLane sp.mask = lane)) g.splits

/-- What a victim's refill needs: vector and scalar granules, of its frames together with its withdrawn requests
(R288). -/
def refillNeeds (s : State) (c : Nat) (x : Victim) : Nat × Nat :=
  match s.group? c x.slot with
  | none => (0, 0)
  | some g => (total (g.frames.map (fun f => f.2.grans.length)) + total (x.requests.map FrameReq.grans),
      g.frames.length + (x.requests.filter FrameReq.scalar).length)

/-- Whether a victim's refill fits now (R288). -/
def refillFits (s : State) (c : Nat) (x : Victim) : Bool :=
  let n := refillNeeds s c x
  decide ((usedGrans s c).length + n.1 ≤ Config.vectorGranules) &&
  decide ((usedScalars s c).length + n.2 ≤ Config.scalarGranules)

/-- Whether a victim's frames have left the register file, so that it waits for its refill (R287). -/
def Victim.isOut (x : Victim) (k : Core) : Bool :=
  match Table.get? k.groups x.slot with
  | some g => g.out
  | none => false

/-- Whether an escape refill stands before a frame request that arrived at a cycle (R288): one that fits, or one that has
waited 65,536 cycles. -/
def refillBlocks (s : State) (c arrived : Nat) : Bool :=
  (s.core c).victims.any (fun x => x.isOut (s.core c) && decide (x.arrived < arrived) &&
    (decide (x.since + Config.refillWait ≤ s.cyc c) || refillFits s c x))

/-- What the request at the head of a core's queue comes to where its demand fits: the split that made it, and the state in
which it issues (R81). That the request of a split whose entry has been spilled is not granted, and holds the queue, until
the entry is resident again is a DESIGN CHOICE (log entry 60). -/
def grantHead (c : Nat) (s : State) : Option (FrameReq × View × State) :=
  match (s.core c).requests with
  | [] => none
  | r :: rest =>
    if refillBlocks s c r.arrived || !(demandFits s c r.grans r.scalar) then none
    else match (s.group? c r.slot).bind (fun g => g.byLane r.lane) with
      | none => none
      | some idx =>
        let sel : Sel := ⟨c, r.slot, idx⟩
        let s1 := (s.modCore c (fun k => { k with requests := rest, lastGrant := s.cyc c })).onSplit sel
          (fun sp => { sp with state := .ready, wait := .none })
        (s1.viewAt sel).map (fun v => (r, v, s1))

/-- The instruction of a granted request, from its allowance check on (R80, R81, R83). -/
def runGranted (i : Instr) (v : View) (s : State) : State :=
  match i with
  | .call n off => issueFrom (.call n off) (callDirect n off) v s
  | .callr n a => issueFrom (.callr n a) (callIndirect n a) v s
  | .fgrow k => issueFrom (.fgrow k) (fgrowBody k) v s
  | _ => s

/-- FRAME_GRANT: the request at the head of a core's queue granted (R81). Its instruction issues as any other does: what its
split delivers comes first (R258, R281), and a register that has become pending while it waited holds it (R60). -/
def frameGrant (c : Nat) (s : State) : Option State :=
  match grantHead c s with
  | none => none
  | some (r, v, s1) =>
    let delivers := (shapeTrap v r.instr).isSome || (matrixDelivery v r.instr).isSome || (poisonDelivery v r.instr).isSome
    if v.live && !s.hub.halted && (delivers || !(heldBack (s1.core c) v r.instr)) then
      some (issueAt r.instr (runGranted r.instr) v s1)
    else none

/-- The requests of a cycle that both sides of a core share granted at its end in their order, as far as they fit by then: each
instruction makes its allowance check now, and reads the registers as the cycle found them (R61, R81). -/
def grantShared (c : Nat) (s0 : State) : Nat → State → State
  | 0, s => s
  | n + 1, s => match grantHead c s with
    | none => s
    | some (r, v, s1) =>
      if r.arrived = s.cyc c && v.live && !s.hub.halted then
        let w := match s0.group? c r.slot with
          | some g => { v with group := v.group.asBefore g }
          | none => v
        grantShared c s0 n (runGranted r.instr w s1)
      else s

/-- FRAME_GRANT (R81). -/
def execFrameGrant (core : Nat) (s : State) : Result := event (frameGrant core s)

end Sys2Proof.Machine
end

