-- ==== Sys2Proof/Machine/Vector.lean ====
section
/-! DEFINITION. The vector and predicate instructions (R140 to R162, R148, R149). -/

namespace Sys2Proof.Machine

/-- The rounding mode an instruction issues with (R86, R98). -/
def View.mode (v : View) : RMode := RMode.of v.group.fcr

/-- An instruction whose effect is the active lanes of one vector register (R141). -/
def vectorBody (d : Nat) (f : View → Nat → W32) (v : View) (s : State) : Act :=
  .next (s.onGroup v.sel (fun g => g.writeV v.fr d v.m (f v)))

/-- The same for an instruction that may clip: `sat` is set when an active lane does (R95). -/
def clippingBody (d : Nat) (f : View → Nat → W32 × Bool) (v : View) (s : State) : Act :=
  let clipped := (lanesOf v.m).any (fun k => (f v k).2)
  let s1 := s.onGroup v.sel (fun g => (g.writeV v.fr d v.m (fun k => (f v k).1)).clip clipped)
  .next (if clipped then s1.signal v.sel.core v.task.ctx 40 else s1)

/-- Lane k of vector register n. -/
def View.lane (v : View) (n k : Nat) : W32 := laneAt (v.rv n) k

/-- A lane operation by type: the integer form, or the floating-point form on bit patterns (R144). -/
def byType (t : VType) (i u : W32 → W32 → W32) (f : Fmt → Nat → Nat → Nat) (x y : W32) : W32 :=
  match t with
  | .i32 => i x y
  | .u32 => u x y
  | .f32 | .bf16 | .f16 => BitVec.ofNat 32 (f (fmtOf t) (typeBits t x) (typeBits t y))

/-- VADD on two lanes (R144). -/
def laneAdd (mode : RMode) (t : VType) : W32 → W32 → W32 := byType t (· + ·) (· + ·) (fun f => fAdd f mode)
/-- VSUB on two lanes (R144). -/
def laneSub (mode : RMode) (t : VType) : W32 → W32 → W32 := byType t (· - ·) (· - ·) (fun f => fSub f mode)
/-- VMUL on two lanes (R144). -/
def laneMul (mode : RMode) (t : VType) : W32 → W32 → W32 := byType t (· * ·) (· * ·) (fun f => fMul f mode)
/-- VMIN on two lanes (R144, R97). -/
def laneMin (t : VType) : W32 → W32 → W32 :=
  byType t (fun x y => if y.toInt < x.toInt then y else x) (fun x y => if y.toNat < x.toNat then y else x)
    (fun f => fMinMax f false)
/-- VMAX on two lanes (R144, R97). -/
def laneMax (t : VType) : W32 → W32 → W32 :=
  byType t (fun x y => if x.toInt < y.toInt then y else x) (fun x y => if x.toNat < y.toNat then y else x)
    (fun f => fMinMax f true)
/-- VFMA on three lanes (R144, R104). -/
def laneFma (mode : RMode) (t : VType) (x y c : W32) : W32 :=
  BitVec.ofNat 32 (fFma (fmtOf t) mode (typeBits t x) (typeBits t y) (typeBits t c))
/-- VABS on a lane (R145). -/
def laneAbs (t : VType) (x : W32) : W32 :=
  match t with
  | .i32 | .u32 => BitVec.ofNat 32 x.toInt.natAbs
  | .f32 | .bf16 | .f16 => BitVec.ofNat 32 (fAbsNeg (fmtOf t) false (typeBits t x))
/-- VNEG on a lane (R145). -/
def laneNeg (t : VType) (x : W32) : W32 :=
  match t with
  | .i32 | .u32 => -x
  | .f32 | .bf16 | .f16 => BitVec.ofNat 32 (fAbsNeg (fmtOf t) true (typeBits t x))

/-- A lane as a shift amount: its low five bits (R146). -/
def laneShift (y : W32) : Nat := y.toNat % 32
/-- Element k of a lane, signed (R93). -/
def signed16 (x : W32) (k : Nat) : Int := (x.extractLsb' (16 * k) 16).toInt
/-- VSRR.i32 on a lane (R147). -/
def laneRoundShift (x y : W32) : W32 := trunc32 (shrRound x.toInt (laneShift y))
/-- VSRR.i16x2 on a lane: each element by bits [16k+3:16k] of the amount (R147). -/
def laneRoundShift16 (x y : W32) : W32 :=
  let e := fun k => BitVec.ofInt 16 (shrRound (signed16 x k) ((y.extractLsb' (16 * k) 4).toNat))
  pack16 (e 0) (e 1)
/-- VDOT2.i16 on a lane: one clip of the exact sum (R148). -/
def laneDot2 (c x y : W32) : W32 × Bool :=
  let r := satS 32 (c.toInt + signed16 x 0 * signed16 y 0 + signed16 x 1 * signed16 y 1)
  (trunc32 r.1, r.2)
/-- VADD2.i16 on a lane: each element clips (R148). -/
def laneAdd2 (x y : W32) : W32 × Bool :=
  let e := fun k => satS 16 (signed16 x k + signed16 y k)
  (pack16 (BitVec.ofInt 16 (e 0).1) (BitVec.ofInt 16 (e 1).1), (e 0).2 || (e 1).2)

/-- A lane divide form: a zero divisor in an active lane traps with cause 8 (R150). -/
def laneDivideBody (d a b : Nat) (f : W32 → W32 → W32) (v : View) (s : State) : Act :=
  if (lanesOf v.m).any (fun k => decide (v.lane b k = 0)) then .trap 8 0
  else vectorBody d (fun v k => f (v.lane a k) (v.lane b k)) v s

/-- An instruction whose effect is the active bits of one predicate (R141). -/
def predicateBody (d : Nat) (f : View → W32) (v : View) (s : State) : Act :=
  .next (s.onGroup v.sel (fun g => g.writeP d v.m (f v)))

/-- Element i of the 64 of VSLIDE's result (R158). -/
def slideElem (down : Bool) (k : Nat) (a b : Lanes) (i : Nat) : W16 :=
  if down then (if i + k ≤ 63 then elem16 a (i + k) else elem16 b (i + k - 64))
  else if k ≤ i then elem16 a (i - k) else elem16 b (64 - k + i)

/-- One step of a reduction (R159). -/
def redStep (mode : RMode) (op : RedOp) (t : VType) (r x : W32) : W32 :=
  match op with
  | .add => laneAdd mode t r x
  | .min => laneMin t r x
  | .max => laneMax t r x

/-- A value as a reduction writes it: a NaN becomes canonical, any other value keeps its bits (R159). -/
def redCanon (t : VType) (r : W32) : W32 :=
  match t with
  | .f32 => if fDecode fp32 r.toNat = .nan then BitVec.ofNat 32 (fNan fp32) else r
  | .i32 | .u32 | .bf16 | .f16 => r

/-- The values a reduction reaches after each of its lanes, in order (R159, R160). -/
def redRuns (mode : RMode) (op : RedOp) (t : VType) (src : Lanes) : List Nat → Option W32 → List (Nat × W32)
  | [], _ => []
  | k :: ks, none => (k, laneAt src k) :: redRuns mode op t src ks (some (laneAt src k))
  | k :: ks, some r =>
    let r' := redStep mode op t r (laneAt src k)
    (k, r') :: redRuns mode op t src ks (some r')

/-- The reduction of the active lanes (R159); a split always has one (R113). -/
def reduceLanes (mode : RMode) (op : RedOp) (t : VType) (src : Lanes) (m : W32) : W32 :=
  match (redRuns mode op t src (lanesOf m) none).getLast? with
  | some e => redCanon t e.2
  | none => 0

/-- VADD (R144). -/
def execVadd (t : VType) (d a b : Nat) (s : State) : Result :=
  issue (.vadd t d a b) (vectorBody d (fun v k => laneAdd v.mode t (v.lane a k) (v.lane b k))) s

/-- VSUB (R144). -/
def execVsub (t : VType) (d a b : Nat) (s : State) : Result :=
  issue (.vsub t d a b) (vectorBody d (fun v k => laneSub v.mode t (v.lane a k) (v.lane b k))) s

/-- VMUL (R144). -/
def execVmul (t : VType) (d a b : Nat) (s : State) : Result :=
  issue (.vmul t d a b) (vectorBody d (fun v k => laneMul v.mode t (v.lane a k) (v.lane b k))) s

/-- VFMA: one rounding (R144, R104). -/
def execVfma (t : VType) (d a b : Nat) (s : State) : Result :=
  issue (.vfma t d a b) (vectorBody d (fun v k => laneFma v.mode t (v.lane a k) (v.lane b k) (v.lane d k))) s

/-- VMIN (R144, R97). -/
def execVmin (t : VType) (d a b : Nat) (s : State) : Result :=
  issue (.vmin t d a b) (vectorBody d (fun v k => laneMin t (v.lane a k) (v.lane b k))) s

/-- VMAX (R144, R97). -/
def execVmax (t : VType) (d a b : Nat) (s : State) : Result :=
  issue (.vmax t d a b) (vectorBody d (fun v k => laneMax t (v.lane a k) (v.lane b k))) s

/-- VABS (R145). -/
def execVabs (t : VType) (d a : Nat) (s : State) : Result :=
  issue (.vabs t d a) (vectorBody d (fun v k => laneAbs t (v.lane a k))) s

/-- VNEG (R145). -/
def execVneg (t : VType) (d a : Nat) (s : State) : Result :=
  issue (.vneg t d a) (vectorBody d (fun v k => laneNeg t (v.lane a k))) s

/-- VAND (R146). -/
def execVand (d a b : Nat) (s : State) : Result :=
  issue (.vand d a b) (vectorBody d (fun v k => v.lane a k &&& v.lane b k)) s

/-- VOR (R146). -/
def execVor (d a b : Nat) (s : State) : Result :=
  issue (.vor d a b) (vectorBody d (fun v k => v.lane a k ||| v.lane b k)) s

/-- VXOR (R146). -/
def execVxor (d a b : Nat) (s : State) : Result :=
  issue (.vxor d a b) (vectorBody d (fun v k => v.lane a k ^^^ v.lane b k)) s

/-- VSHL (R146). -/
def execVshl (d a b : Nat) (s : State) : Result :=
  issue (.vshl d a b) (vectorBody d (fun v k => v.lane a k <<< laneShift (v.lane b k))) s

/-- VSHR (R146). -/
def execVshr (d a b : Nat) (s : State) : Result :=
  issue (.vshr d a b) (vectorBody d (fun v k => v.lane a k >>> laneShift (v.lane b k))) s

/-- VSAR (R146). -/
def execVsar (d a b : Nat) (s : State) : Result :=
  issue (.vsar d a b) (vectorBody d (fun v k => (v.lane a k).sshiftRight (laneShift (v.lane b k)))) s

/-- VSRR.i32 (R147). -/
def execVsrrI32 (d a b : Nat) (s : State) : Result :=
  issue (.vsrrI32 d a b) (vectorBody d (fun v k => laneRoundShift (v.lane a k) (v.lane b k))) s

/-- VSRR.i16x2 (R147). -/
def execVsrrI16x2 (d a b : Nat) (s : State) : Result :=
  issue (.vsrrI16x2 d a b) (vectorBody d (fun v k => laneRoundShift16 (v.lane a k) (v.lane b k))) s

/-- VDOT2.i16 (R148). -/
def execVdot2I16 (d a b : Nat) (s : State) : Result :=
  issue (.vdot2I16 d a b) (clippingBody d (fun v k => laneDot2 (v.lane d k) (v.lane a k) (v.lane b k))) s

/-- VADD2.i16 (R148). -/
def execVadd2I16 (d a b : Nat) (s : State) : Result :=
  issue (.vadd2I16 d a b) (clippingBody d (fun v k => laneAdd2 (v.lane a k) (v.lane b k))) s

/-- VCVT (R151, R99). -/
def execVcvt (dt st : VType) (d a : Nat) (s : State) : Result :=
  issue (.vcvt dt st d a) (clippingBody d (fun v k => convert v.mode dt st (v.lane a k))) s

/-- VRCP (R152, R153). -/
def execVrcp (d a : Nat) (s : State) : Result :=
  issue (.vrcp d a) (vectorBody d (fun v k => BitVec.ofNat 32 (fRcp v.mode (v.lane a k).toNat))) s

/-- VRSQ (R152, R153). -/
def execVrsq (d a : Nat) (s : State) : Result :=
  issue (.vrsq d a) (vectorBody d (fun v k => BitVec.ofNat 32 (fRsq v.mode (v.lane a k).toNat))) s

/-- VEXP2 (R152, R153). -/
def execVexp2 (d a : Nat) (s : State) : Result :=
  issue (.vexp2 d a) (vectorBody d (fun v k => BitVec.ofNat 32 (fExp2 v.mode (v.lane a k).toNat))) s

/-- VLOG2 (R152, R153). -/
def execVlog2 (d a : Nat) (s : State) : Result :=
  issue (.vlog2 d a) (vectorBody d (fun v k => BitVec.ofNat 32 (fLog2 v.mode (v.lane a k).toNat))) s

/-- VDIV (R150, R63). -/
def execVdiv (d a b : Nat) (s : State) : Result :=
  issue (.vdiv d a b) (laneDivideBody d a b (fun x y => trunc32 (x.toInt.tdiv y.toInt))) s

/-- VDIVU (R150, R63). -/
def execVdivu (d a b : Nat) (s : State) : Result :=
  issue (.vdivu d a b) (laneDivideBody d a b (fun x y => BitVec.ofNat 32 (x.toNat / y.toNat))) s

/-- VREM (R150, R63). -/
def execVrem (d a b : Nat) (s : State) : Result :=
  issue (.vrem d a b) (laneDivideBody d a b (fun x y => trunc32 (x.toInt.tmod y.toInt))) s

/-- VREMU (R150, R63). -/
def execVremu (d a b : Nat) (s : State) : Result :=
  issue (.vremu d a b) (laneDivideBody d a b (fun x y => BitVec.ofNat 32 (x.toNat % y.toNat))) s

/-- VCMP (R154). -/
def execVcmp (cc : VCond) (t : VType) (p a b : Nat) (s : State) : Result :=
  issue (.vcmp cc t p a b) (predicateBody p (fun v => ofBits (fun k => vcondHolds cc t (v.lane a k) (v.lane b k)))) s

/-- VSEL (R155). -/
def execVsel (d a b p : Nat) (s : State) : Result :=
  issue (.vsel d a b p) (vectorBody d (fun v k => if maskHas (v.group.pval p) k then v.lane a k else v.lane b k)) s

/-- VMOV (R156). -/
def execVmov (d a : Nat) (s : State) : Result :=
  issue (.vmov d a) (vectorBody d (fun v k => v.lane a k)) s

/-- VBCAST (R156). -/
def execVbcast (d a : Nat) (s : State) : Result :=
  issue (.vbcast d a) (vectorBody d (fun v _ => (v.rs a).setWidth 32)) s

/-- VLANE: the lane, active or not (R156). -/
def execVlane (d a lane : Nat) (s : State) : Result :=
  issue (.vlane d a lane) (scalarBody d (fun v => (v.lane a lane).setWidth 64)) s

/-- VSLIDE (R158). -/
def execVslide (down : Bool) (k d a b : Nat) (s : State) : Result :=
  issue (.vslide down k d a b) (vectorBody d (fun v l =>
    pack16 (slideElem down k (v.rv a) (v.rv b) (2 * l)) (slideElem down k (v.rv a) (v.rv b) (2 * l + 1)))) s

/-- VSHFL: the selected lane, active or not (R157). -/
def execVshfl (d a b : Nat) (s : State) : Result :=
  issue (.vshfl d a b) (vectorBody d (fun v k => v.lane a ((v.lane b k).toNat % 32))) s

/-- VRED (R159). -/
def execVred (op : RedOp) (t : VType) (d a : Nat) (s : State) : Result :=
  issue (.vred op t d a) (scalarBody d (fun v =>
    let r := reduceLanes v.mode op t (v.rv a) v.m
    if t = .i32 then r.signExtend 64 else r.setWidth 64)) s

/-- VSCAN (R160). -/
def execVscan (op : RedOp) (t : VType) (d a : Nat) (s : State) : Result :=
  issue (.vscan op t d a) (vectorBody d (fun v k =>
    redCanon t (Table.getD (redRuns v.mode op t (v.rv a) (lanesOf v.m) none) k 0))) s

/-- PAND (R161). -/
def execPand (d a b : Nat) (s : State) : Result :=
  issue (.pand d a b) (predicateBody d (fun v => v.group.pval a &&& v.group.pval b)) s

/-- POR (R161). -/
def execPor (d a b : Nat) (s : State) : Result :=
  issue (.por d a b) (predicateBody d (fun v => v.group.pval a ||| v.group.pval b)) s

/-- PXOR (R161). -/
def execPxor (d a b : Nat) (s : State) : Result :=
  issue (.pxor d a b) (predicateBody d (fun v => v.group.pval a ^^^ v.group.pval b)) s

/-- PNOT (R161). -/
def execPnot (d a : Nat) (s : State) : Result :=
  issue (.pnot d a) (predicateBody d (fun v => ~~~(v.group.pval a))) s

/-- PCNT: the active lanes whose bit is 1 (R162). -/
def execPcnt (d a : Nat) (s : State) : Result :=
  issue (.pcnt d a) (scalarBody d (fun v => BitVec.ofNat 64 (laneCount (v.m &&& v.group.pval a)))) s

end Sys2Proof.Machine
end

