-- ==== Sys2Proof/Machine/FullEmpty.lean ====
section
/-! DEFINITION. Full/empty words and the Tarn (R224 to R228, R238), with the waits of ENQ (R273) and of the hub's packets
(R330) on them; and the waking of parked splits. -/

namespace Sys2Proof.Machine

/-- Every entry of a group with a lowest lane, resident or spilled, changed. -/
def Group.onLane (g : Group) (lane : Nat) (f : Split → Split) : Group :=
  let h := fun (sp : Split) => if lowLane sp.mask = lane then f sp else sp
  { g with splits := g.splits.map h, spilled := g.spilled.map h }

/-- The entry of a group with a lowest lane. -/
def Group.atLane (g : Group) (lane : Nat) : Option Split := g.entries.find? (fun sp => decide (lowLane sp.mask = lane))

/-- A parked split goes on at the next instruction: ready, or frozen while a handler runs (R276). -/
def Group.resume (g : Group) (lane : Nat) : Group :=
  g.onLane lane (fun sp => { sp with state := g.wakeState sp, wait := .none, pc := sp.pc + 4 })

/-- A parked split whose wait ends before its instruction is complete issues it again, without a second debit: `cost` is what
its issue debited (R31, R35, R276). -/
def Group.again (g : Group) (lane cost : Nat) : Group :=
  g.onLane lane (fun sp => { sp with state := g.wakeState sp, wait := .none, paid := some cost })

/-- A split's wait replaced; it stays parked. -/
def Group.parkLane (g : Group) (lane : Nat) (w : Wait) : Group :=
  g.onLane lane (fun sp => { sp with state := .parked, wait := w })

/-- Whether the word at a physical address is full (R224). -/
def isFull (s : State) (pa : Nat) : Bool := s.full.contains (pa / 8)
/-- A word's state set (R224). -/
def setFull (s : State) (pa : Nat) (b : Bool) : State :=
  { s with full := if b then Table.insertNat s.full (pa / 8) else Table.removeNat s.full (pa / 8) }

/-- The data of a word written, 8 bytes (R225). -/
def writeWord (s : State) (pa : Nat) (x : W64) : State := writeCells s (cellsOf pa 8 x.toNat)

/-- The die that homes a physical address (R198). -/
def homeDie (pa : Nat) : Nat := pa / 2 ^ 39

/-- The die of a core (R3). -/
def coreDie (c : Nat) : Nat := c / 96

/-- The counter signals of an access of a core to a physical address: to another die, to host memory (R311). -/
def crossing (c pa : Nat) : BitVec 64 :=
  if isMere pa then (if coreDie (mereCore pa) ≠ coreDie c then 1#64 <<< 24 else 0)
  else if Config.hostBase ≤ pa then 1#64 <<< 25
  else if homeDie pa ≠ coreDie c then 1#64 <<< 24 else 0

/-- The signals of the places that an access of a core reaches raised (R311). -/
def State.crossed (s : State) (c ctx : Nat) (pas : List Nat) : State :=
  s.raise c ctx (pas.foldl (fun b pa => b ||| crossing c pa) 0)

/-- Whether the Tarn of a word's home die has an entry free (R227). -/
def tarnRoom (s : State) (pa : Nat) : Bool :=
  decide ((s.tarn.filter (fun e => decide (homeDie e.pa = homeDie pa))).length < Config.tarnEntries)

/-- A read of a full word on its way to s(d), holding its split until it lands (R225, R226, R281). -/
def takeReturn (s : State) (w : Who) (d frame : Nat) (gen : BitVec 8) (pa : Nat) (va : W64) : LoadOp :=
  ⟨w, some (.s d), frame, gen, [(w.lane, BitVec.ofNat 64 (physNat s none pa 8))], 0, 0,
   if physPoison s none pa 8 then some va else none, false, some w.lane⟩

/-- Who a parked split is, for the operations its access makes. -/
def whoOfLane (s : State) (c slot lane : Nat) : Option Who :=
  match s.group? c slot with
  | none => none
  | some g => match g.atLane lane, Table.get? s.tasks g.task with
    | some sp, some t => some ⟨slot, (s.core c).ggenOf slot, g.gid, g.task, t.ctx, t.asid, lane, sp.mask,
        pennantTop g sp.ptop 4⟩
    | _, _ => none

/-- The result of a synchronous instruction written, and its split resumed; where the group's frames are out, their image
takes it (R181, R183, R185, R273, R287). -/
def answerSplit (s : State) (c slot lane d : Nat) (x : W64) : State :=
  (s.modGroup c slot (fun g => match g.atLane lane with
    | some sp => (g.writeS sp.frame d x).resume lane
    | none => g)).storeFrameArea c slot

/-- Whether a group belongs to a crew whose save has begun (R293). -/
def State.savingAt (s : State) (c slot : Nat) : Bool :=
  match (s.group? c slot).bind (fun g => Table.get? s.tasks g.task) with
  | some t => t.saving.isSome
  | none => false

/-- Physical places of an ENQ's queue (R273): tail word, ring base and slot count, from the control block. -/
structure RingView where
  tail  : Nat
  base  : Nat
  slots : Nat
  deriving DecidableEq, Repr

/-- The physical address of a byte a context may read, where it is resident. -/
def physOf (s : State) (ctx asid va : Nat) (need : Need) : Option Nat :=
  match translate s ctx asid need va with
  | .phys pa => some pa
  | .absent _ | .bad => none

/-- A dword at a virtual address; 0 where it cannot be reached. -/
def dwordAt (s : State) (ctx asid va : Nat) : Nat :=
  match physOf s ctx asid va Need.load with
  | some pa => physNat s none pa 8
  | none => 0

/-- The ring of a queue control block (R273, R327). -/
def ringOf (s : State) (ctx asid block : Nat) : Option RingView :=
  match physOf s ctx asid (block + 16) Need.load with
  | some t => some ⟨t, dwordAt s ctx asid block % 2 ^ 56, 2 ^ (dwordAt s ctx asid (block + 8) % 32)⟩
  | none => none

/-- The 64 bytes at a virtual address as a split reads them, each with its poison (R204, R354). -/
def bytes64 (s : State) (ctx asid : Nat) (reader : Reader) (va : Nat) : List (Byte × Bool) :=
  (upto 64).map (fun k => match physOf s ctx asid (va + k) Need.load with
    | some pa => taskRead s ctx reader pa
    | none => (0, false))

/-- The poisoned return of an ENQ's tail word, for the ENQ itself to take as cause 2 (R225, R273, R281). The unit of the tail
word holds the ring base and the slot count too, so that a poisoned block is met here (DEDUCED, log entry 24). -/
def tailReturn (s : State) (c : Nat) (w : Who) (frame : Nat) (va : W64) : LoadOp :=
  ⟨w, some (.s 0), frame, (s.core c).sgenOf frame, [], 0, 0, some va, true, none⟩

/-- The last cell of each address. -/
def lastCells (cells : List (Nat × Byte × Bool)) : List (Nat × Byte × Bool) :=
  cells.foldr (fun c acc => if acc.any (fun x => decide (x.1 = c.1)) then acc else c :: acc) []

/-- A write whose data may be poisoned, of a copy, a packet or another device: whole units written clean are clean, poisoned
bytes poison their units, and the Mere views take their bytes; of several cells of one address the last stays (R268, R269,
R279, R301). What goes to a core in reset does nothing (R285). -/
def writeCopied (s : State) (all : List (Nat × Byte × Bool)) : State :=
  let cells := lastCells all
  let flat := cells.map (fun c => (c.1, c.2.1))
  let bad := fun pa => cells.any (fun c => decide (c.1 / 64 = pa / 64) && c.2.2)
  let plain := openCells s (flat.filter (fun c => !(isMere c.1)))
  let mere := cells.filter (fun c => isMere c.1)
  let taints := fun (c : Nat × Byte × Bool) => c.2.2 && !(discards s c.1) &&
    (!(isMere c.1) || decide (mereAt (mereOffset c.1) = .scratch)) && (bad c.1 || !(covers flat c.1 64))
  let poison := (all.filter taints).foldl (fun p c => Table.insertNat p (c.1 / 64))
    (clearUnits s.poison (flat.filter (fun c => !(discards s c.1))))
  let s1 := { s with mem := Memory.putAll s.mem plain, poison := poison }
  mere.foldl (fun st c => mereWrite st c.1 c.2.1 (covers flat c.1 (mereGrain c.1) && !(bad c.1)) c.2.2)
    (mereDrop s1 (mere.map Prod.fst))

/-- The kind of the fault records of an access (R213). -/
def accessKind : Instr → Nat
  | .amo _ _ _ _ _ | .cas _ _ _ _ | .vamo _ _ _ _ => 1
  | .fld _ _ _ | .ftake _ _ _ | .fput _ _ _ | .ffill _ _ _ | .enq _ _ _ => 2
  | .touch _ => 4
  | .spawn _ _ _ => 9
  | _ => 0

/-- A split parked on fault records (R211). -/
def parkOnFaults (s : State) (c slot lane : Nat) (w : Who) (a : Access) (vas : List Nat) : State :=
  (s.addRecords c w (accessKind a.instr) 0 vas).modGroup c slot (fun g => g.parkLane lane (.faults vas.length a))

/-- What ENQ needs of its control block and ring: mailbox pages (R273). That it needs R and W of them is a DESIGN CHOICE (log
entry 59). -/
def enqNeed : Need := ⟨true, true, true, false, false⟩

/-- The absent pages ENQ needs: the control block, its image and the slot its tail names (R211, R273). -/
def enqAbsent (s : State) (w : Who) (block image : W64) : List Nat :=
  let size := dwordAt s w.ctx w.asid (block.toNat + 8) % 32
  let base := dwordAt s w.ctx w.asid block.toNat % 2 ^ 56
  let tail := dwordAt s w.ctx w.asid (block.toNat + 16)
  let one := fun (need : Need) (va : Nat) => match translate s w.ctx w.asid need va with
    | .absent _ => [va]
    | .phys _ | .bad => []
  match one enqNeed block.toNat ++ one Need.load image.toNat with
  | [] => one enqNeed (base + 64 * (tail % 2 ^ size))
  | l => lowestPerPage s w.asid l

/-- ENQ as an access that can be presented again: its operands and deadline (R211, R227, R273). -/
def enqAccess (s : State) (c slot lane d : Nat) (block image : W64) (deadline : Nat) : Access :=
  let fr := match (s.group? c slot).bind (fun g => g.atLane lane) with
    | some sp => sp.frame
    | none => 0
  ⟨.enq d 0 0, 64, [⟨lane, block, image, BitVec.ofNat 64 deadline⟩], fr, (s.core c).sgenOf fr, 2⟩

/-- An ENQ waits on its tail word or its slot word in the Tarn, or, where the Tarn is full, is presented again later (R227,
R273). -/
def enqPark (s : State) (c slot lane d : Nat) (block image : W64) (deadline : Nat) (onTail : Bool) (pa : Nat) : State :=
  if tarnRoom s pa then
    let s1 := s.modGroup c slot (fun g => g.parkLane lane (.enq d block image deadline onTail))
    ({ s1 with tarn := s1.tarn ++ [⟨pa, .split c slot lane⟩] } : State).signal c (s.ctxOf c slot) 28
  else
    (s.modGroup c slot (fun g => g.parkLane lane
      (.busy (enqAccess s c slot lane d block image deadline) (s.cyc c + Config.tarnRetry)))).signal c (s.ctxOf c slot) 29

/-- The status FULL of R15. -/
def statusFull : W64 := 2

/-- One turn of ENQ's loop, its tail word being full (R273): the packet is placed, with its poison, or the split parks on
the slot word; where a page it needs is absent, or no longer open to it, it puts the tail back and parks on a record, or is
presented again. A poisoned tail word is taken all the same, and the split takes cause 2 (R225). The words whose state
changed are returned. -/
def enqTurn (s : State) (c slot lane d : Nat) (block image : W64) (deadline : Nat) : State × List Nat :=
  match whoOfLane s c slot lane with
  | none => (s, [])
  | some w =>
    let again := s.modGroup c slot (fun g => g.again lane 2)
    let tails := ((ringOf s w.ctx w.asid block.toNat).map RingView.tail).toList
    match enqAbsent s w block image with
    | va :: vas =>
      (parkOnFaults s c slot lane w (enqAccess s c slot lane d block image deadline) (va :: vas), tails)
    | [] => match ringOf s w.ctx w.asid block.toNat with
      | none => (again, tails)
      | some r =>
        let fr := (((s.group? c slot).bind (fun g => g.atLane lane)).map Split.frame).getD 0
        let t := physNat s none r.tail 8
        if physPoison s none r.tail 8 then
          (((setFull s r.tail false).modCore c (fun k => { k with loads := k.loads ++ [tailReturn s c w fr (block + 16)] })).modGroup
            c slot (fun g => g.again lane 2), [r.tail])
        else match physOf s w.ctx w.asid (r.base + 64 * (t % r.slots)) Need.fill with
        | none => (again, tails)
        | some sw =>
          if isFull s sw then (enqPark s c slot lane d block image deadline false sw, [r.tail])
          else
            let from' := (physOf s w.ctx w.asid image.toNat Need.load).toList
            let image := (upto 64).zip (bytes64 s w.ctx w.asid (some (c, slot, fr)) image.toNat)
            let s1 := writeCopied (s.crossed c w.ctx (sw :: from')) (image.map (fun e => (sw + e.1, e.2)))
            let s2 := writeWord (setFull s1 sw true) r.tail (BitVec.ofNat 64 (t + 1))
            (answerSplit s2 c slot lane d 0, [sw, r.tail])

/-- What a parked split's access does if its word now lets it proceed (R226). An ENQ whose slot word has become empty goes on with
its loop, as the next to come to the tail word (R273). -/
def trySplit (s : State) (pa c slot lane : Nat) : Option (State × List Nat) :=
  match whoOfLane s c slot lane, (s.group? c slot).bind (fun g => g.atLane lane) with
  | some w, some sp =>
    let reads := fun (a : Access) (d : Nat) =>
      let va := (a.reqs.headD ⟨0, 0, 0, 0⟩).va
      (s.modCore c (fun k => { k with loads := k.loads ++ [takeReturn s w d a.frame a.gen pa va] })).modGroup c slot
        (fun g => g.parkLane lane .data)
    match sp.wait with
    | .tarn a => match a.instr with
      | .fld _ d _ => if isFull s pa then some (reads a d, []) else none
      | .ftake _ d _ => if isFull s pa then some (setFull (reads a d) pa false, [pa]) else none
      | .fput _ _ _ =>
        if isFull s pa then none
        else
          let x := (a.reqs.headD ⟨0, 0, 0, 0⟩).x
          some ((setFull (writeWord s pa x) pa true).modGroup c slot (fun g => g.resume lane), [pa])
      | _ => none
    | .enq d block image dl true => if isFull s pa then some (enqTurn s c slot lane d block image dl) else none
    | .enq d block image dl false =>
      if isFull s pa then none
      else match ringOf s w.ctx w.asid block.toNat with
        | none => none
        | some r =>
          if isFull s r.tail && !(tarnRoom s r.tail) then some (enqTurn s c slot lane d block image dl)
          else some (enqPark s c slot lane d block image dl true r.tail, [r.tail])
    | .none | .faults _ _ | .fetch _ | .touch | .busy _ _ | .data | .push _ _ | .pop _ _ | .join _ _ | .wellspring _
    | .frame | .waitc _ _ _ _ => none
  | _, _ => none

/-- A hub operation changed. -/
def Hub.onOp (h : Hub) (id : Nat) (f : HubOp → HubOp) : Hub :=
  { h with ops := h.ops.map (fun o => if o.id = id then f o else o) }

/-- The completion of a packet, due to be written (R329, R355): status and result. -/
def HubOp.due (o : HubOp) (status result : Nat) : HubOp := { o with wait := .word status result false }

/-- An operation that waits for a Wellspring or its task due, if it still waits (R187, R330). -/
def HubOp.answer (o : HubOp) (status result : Nat) : HubOp :=
  if o.wait = .wellspring then o.due status result else o

/-- What a WAITWORD or FILLWORD packet does if its word now lets it proceed (R330). -/
def tryHub (s : State) (pa op : Nat) : Option (State × List Nat) :=
  match s.hub.ops.find? (fun o => decide (o.id = op)) with
  | none => none
  | some o =>
    match o.wait with
    | .waitword _ take _ =>
      if isFull s pa then
        let s1 := s.modHub (fun h => h.onOp op (fun o => o.due 0 (physNat s none pa 8 % 2 ^ 48)))
        some (if take then (setFull s1 pa false, [pa]) else (s1, []))
      else none
    | .fillword _ value force _ =>
      if isFull s pa && !force then none
      else some (setFull (writeWord (s.modHub (fun h => h.onOp op (fun o => o.due 0 0))) pa value) pa true, [pa])
    | .copy _ _ _ _ | .fence | .word _ _ _ | .wellspring => none

/-- What a Tarn entry does if its word now lets it proceed. -/
def tryEntry (s : State) (e : TarnEntry) : Option (State × List Nat) :=
  match e.user with
  | .split c slot lane => trySplit s e.pa c slot lane
  | .hub op => tryHub s e.pa op

/-- One pass over the entries of a word, in order of parking: each that can proceed is applied at once and leaves
(R226). -/
def walkPass : List TarnEntry → State → List Nat → Bool → State × List Nat × Bool
  | [], s, words, any => (s, words, any)
  | e :: es, s, words, any =>
    match tryEntry { s with tarn := s.tarn.erase e } e with
    | some r => walkPass es r.1 (words ++ r.2) true
    | none => walkPass es s words any

/-- The walks that a set of changed words starts, passes repeating until one applies no entry (R226). -/
def walkWords : Nat → List Nat → State → State
  | 0, _, s => s
  | _ + 1, [], s => s
  | n + 1, pa :: rest, s =>
    let mine := s.tarn.filter (fun e => decide (e.pa = pa))
    let r := walkPass mine s [] false
    if r.2.2 then walkWords n (rest ++ r.2.1 ++ [pa]) r.1 else walkWords n rest s

/-- The walk after words have changed state. Every applied entry leaves the list or parks on another word, so that the
count of turns suffices: an ENQ parks anew at most as often as slot words are emptied. -/
def walk (words : List Nat) (s : State) : State :=
  if s.tarn = [] then s else walkWords (8 * (s.tarn.length + words.length + 1) ^ 2) words s

/-- A word that firmware itself writes, as a completion word: no field's access closes it (R11, R329, log entry 54). -/
def firmwareWord (s : State) (pa : Nat) (x : W64) : State := writeRaw s (cellsOf pa 8 x.toNat)

/-- A mailbox word that firmware writes full, as FFILL does (R225, R329). -/
def fillWord (s : State) (pa : Nat) (x : W64) : State := walk [pa] (setFull (firmwareWord s pa x) pa true)

end Sys2Proof.Machine
end

