-- ==== Sys2Proof/Machine/LoadStore.lean ====
section
/-! DEFINITION. Memory instructions: loads and stores (R70 to R75, R210 to R218), TOUCH (R219), atomics (R220 to R223),
full/empty accesses (R225), FENCE (R229), and the steps that return loads and perform stores (R75, R203, R234, R243). -/

namespace Sys2Proof.Machine

/-- The bytes each lane of an access moves. -/
def accessBytes : Instr → Nat
  | .ld w _ _ | .lds w _ _ | .st w _ _ | .vld w _ _ | .vst w _ _ | .vldc w _ _ | .vstc w _ _ | .amo _ w _ _ _
  | .cas w _ _ _ => Width.bytes w
  | .vamo _ _ _ _ => 4
  | .fld _ _ _ | .ftake _ _ _ | .fput _ _ _ | .ffill _ _ _ => 8
  | _ => 1

/-- What an access needs of its pages (R71, R199, R219, R220, R225). -/
def accessNeed : Instr → Need
  | .st _ _ _ | .vst _ _ _ | .vstc _ _ _ => Need.store
  | .amo _ _ _ _ _ | .cas _ _ _ _ | .vamo _ _ _ _ => Need.atomic
  | .fld _ _ _ | .ftake _ _ _ => Need.take
  | .fput _ _ _ | .ffill _ _ _ => Need.fill
  | .touch _ => Need.touch
  | _ => Need.load

/-- Whether an access writes memory, and so is bound by the Access column of R165 (R354). -/
def accessWrites : Instr → Bool
  | .st _ _ _ | .vst _ _ _ | .vstc _ _ _ | .amo _ _ _ _ _ | .cas _ _ _ _ | .vamo _ _ _ _ | .fput _ _ _
  | .ffill _ _ _ => true
  | _ => false

/-- The requests of an access, its operands read at issue (R59, R140, R216, R217). -/
def requestsOf (v : View) (i : Instr) : List LaneReq :=
  let one := fun (a : Nat) (x y : W64) => [(⟨lowLane v.m, v.rs a, x, y⟩ : LaneReq)]
  let each := fun (f : Nat → W64) (d : Nat) =>
    (lanesOf v.m).map (fun k => (⟨k, f k, (v.lane d k).setWidth 64, 0⟩ : LaneReq))
  let at' := fun (a d k : Nat) => v.rs a + (v.lane (d + 1) k).signExtend 64
  match i with
  | .ld _ _ a | .lds _ _ a | .fld _ _ a | .ftake _ _ a | .touch a => one a 0 0
  | .st _ d a | .amo _ _ _ d a | .fput _ d a | .ffill _ d a => one a (v.rs d) 0
  | .cas _ _ d a => one a (v.rs d) (v.rs (d + 1))
  | .vld w d a | .vst w d a => each (fun k => v.rs a + BitVec.ofNat 64 (Width.bytes w * k)) d
  | .vldc _ d a | .vstc _ d a => each (at' a d) d
  | .vamo _ _ d a => each (at' a d) d
  | _ => []

/-- An access as it issues. -/
def accessOf (v : View) (i : Instr) : Access :=
  ⟨i, accessBytes i, requestsOf v i, v.fr, v.core.sgenOf v.fr, v.debited i⟩

/-- Alignment and protection, each position for every lane before the next, the lowest lane failing first (R71, R215,
R220, R225, R354). -/
def accessTrap (s : State) (w : Who) (a : Access) : Option (Nat × W64) :=
  match a.reqs.find? (fun r => decide (r.va.toNat % a.n ≠ 0)) with
  | some r => some (7, r.va)
  | none =>
    match a.reqs.find? (fun r => match translate s w.ctx w.asid (accessNeed a.instr) r.va.toNat with
      | .bad => true
      | .absent _ => accessWrites a.instr && tcbForbidsAt s w.asid w.task r.va.toNat
      | .phys pa => accessWrites a.instr && tcbForbids s w.task pa) with
    | some r => some (6, r.va)
    | none => none

/-- The physical address of a request, where its page is resident. -/
def reqPhys (s : State) (w : Who) (a : Access) (r : LaneReq) : Option Nat :=
  physOf s w.ctx w.asid r.va.toNat (accessNeed a.instr)

/-- The lowest address of an access on each absent page it needs (R211, R212). -/
def accessAbsent (s : State) (w : Who) (a : Access) : List Nat :=
  lowestPerPage s w.asid ((a.reqs.filter (fun r => (reqPhys s w a r).isNone)).map (fun r => r.va.toNat))

/-- Whether an access of a group meets bytes of one of the group's stores that is not performed yet (R235). That bytes are
compared by their physical addresses, so that two views of one register are two places, is a DESIGN CHOICE (log entry 69). -/
def meetsOwnStore (k : Core) (w : Who) (pas : List Nat) (n : Nat) : Bool :=
  k.stores.any (fun o => o.who.sameGroup w &&
    o.cells.any (fun c => pas.any (fun pa => decide (pa ≤ c.1) && decide (c.1 < pa + n))))

/-- The destination of a load-class access. -/
def loadDest : Instr → Option RegRef
  | .ld _ d _ | .lds _ d _ | .fld _ d _ | .ftake _ d _ | .amo _ _ _ d _ | .cas _ _ d _ => some (.s d)
  | .vld _ d _ | .vldc _ d _ | .vamo _ _ d _ => some (.v d)
  | _ => none

/-- A load's value by width and extension (R70, R215). -/
def loadValue (i : Instr) (n x : Nat) : W64 :=
  match i with
  | .lds _ _ _ => sextBytes n x
  | _ => zextBytes n x

/-- The bytes of a request as a task's load finds them, and whether any is poisoned (R354). -/
def requestRead (s : State) (w : Who) (reader : Reader) (pa n : Nat) : Nat × Bool :=
  let bs := (upto n).map (fun k => taskRead s w.ctx reader (pa + k))
  (leNat (bs.map Prod.fst), bs.any Prod.snd)

/-- How an access ends when it is presented. -/
inductive Shown where
  | trap (cause : Nat) (tval : W64)
  /-- no part of it is performed; a record for each of these addresses (R211) -/
  | absent (vas : List Nat)
  /-- performed, or on its way; its split goes on -/
  | done (s : State)
  /-- its split is held (R226, R227) -/
  | held (s : State) (w : Wait)

/-- A load presented (R70, R72, R210, R216, R217): its values are read, and return later. An absent page gives zero and
clears p15; a scalar load speaks for every active lane. -/
def showLoad (s : State) (c : Nat) (w : Who) (frame : Nat) (a : Access) : Shown :=
  let s0 := if meetsOwnStore (s.core c) w (a.reqs.filterMap (reqPhys s w a)) a.n then s.drainStores c else s
  let got : List (LaneReq × W64 × Bool × Bool) := a.reqs.map (fun r => match reqPhys s0 w a r with
    | some pa =>
      let x := requestRead s0 w (some (c, w.slot, frame)) pa a.n
      (r, loadValue a.instr a.n x.1, true, x.2)
    | none => (r, 0, false, false))
  let scalar := match loadDest a.instr with
    | some (.s _) => true
    | _ => false
  let bits := fun (present : Bool) =>
    if scalar then (if got.any (fun g => g.2.2.1 == present) then w.mask else 0)
    else ofBits (fun k => got.any (fun g => decide (g.1.lane = k) && g.2.2.1 == present))
  let bad := (got.find? (fun g => g.2.2.2)).map (fun g => g.1.va)
  let vals := got.map (fun g => (g.1.lane, g.2.1))
  let op : LoadOp := ⟨w, loadDest a.instr, a.frame, a.gen, vals, bits true, bits false, bad, false, none⟩
  let s1 := s0.modCore c (fun k => { k with loads := k.loads ++ [op] })
  .done (if got.any (fun g => !g.2.2.1) then s1.signal c w.ctx 27 else s1)

/-- The bytes a store-class access writes, in ascending order of lane, so that the higher lane's bytes remain (R217). -/
def storeCells (s : State) (w : Who) (a : Access) : List (Nat × Byte) :=
  a.reqs.flatMap (fun r => match reqPhys s w a r with
    | some pa => cellsOf pa a.n r.x.toNat
    | none => [])

/-- A store presented, every page it needs resident (R211, R234), its writes of tiles noted (R255). The lanes of one VST or VSTC are not ordered among
themselves (R232): the model performs all their bytes at one moment (DESIGN CHOICE, log entry 47). -/
def showStore (s : State) (c : Nat) (w : Who) (a : Access) : Shown :=
  .done ((s.modCore c (fun k => { k with stores := k.stores ++ [(⟨w, storeCells s w a, k.epoch, s.tick⟩ : StoreOp)] })).noteTiles
    (fun lo n => (storeCells s w a).any (fun x => decide (lo ≤ x.1) && decide (x.1 < lo + n))))

/-- The operation of an atomic on an old value: the new value, if it writes (R221, R222, R223). -/
def atomicNew (i : Instr) (n : Nat) (old : Nat) (r : LaneReq) : Option Nat :=
  match i with
  | .amo op _ _ _ _ => some (amoNew op n old (r.x.toNat % 2 ^ (8 * n)))
  | .vamo op _ _ _ => some (amoNew op n old (r.x.toNat % 2 ^ (8 * n)))
  | .cas _ _ _ _ => if old = r.x.toNat % 2 ^ (8 * n) then some (r.y.toNat % 2 ^ (8 * n)) else none
  | _ => none

/-- An element placed before the first whose rank is higher. -/
def insertRanked (rank : LaneReq → Nat) (r : LaneReq) : List LaneReq → List LaneReq
  | [] => [r]
  | x :: xs => if rank r < rank x then r :: x :: xs else x :: insertRanked rank r xs

/-- The order in which the lanes of an atomic apply their steps: free where two lanes name one address (R223). -/
def atomicOrder (fresh : Nat) (rs : List LaneReq) : List LaneReq :=
  if (rs.map LaneReq.va).dedup.length = rs.length then rs
  else rs.foldl (fun l r => insertRanked (fun x => Config.vamoRank fresh x.lane) r l) []

/-- The steps of an atomic, lane by lane: memory after, and each lane's old value or the address of its poison (R220,
R223, R281). -/
def atomicSteps (w : Who) (a : Access) : List LaneReq → State → List (Nat × W64 × Option W64) →
    State × List (Nat × W64 × Option W64)
  | [], s, acc => (s, acc)
  | r :: rs, s, acc =>
    match reqPhys s w a r with
    | none => atomicSteps w a rs s acc
    | some pa =>
      if physPoison s none pa a.n then atomicSteps w a rs s (acc ++ [(r.lane, 0, some r.va)])
      else
        let old := physNat s none pa a.n
        let s' := match atomicNew a.instr a.n old r with
          | some x => writeCells s (cellsOf pa a.n x)
          | none => s
        atomicSteps w a rs s' (acc ++ [(r.lane, zextBytes a.n old, none)])

/-- An atomic presented: a release and an acquire, performed in one step; its old values return later (R220 to R223). -/
def showAtomic (s : State) (c : Nat) (w : Who) (a : Access) : Shown :=
  let s0 := s.drainStores c
  let r := atomicSteps w a (atomicOrder s0.fresh a.reqs) { s0 with fresh := s0.fresh + 1 } []
  let bad := a.reqs.findSome? (fun q => (r.2.find? (fun e => decide (e.1 = q.lane))).bind (fun e => e.2.2))
  let op : LoadOp := ⟨w, loadDest a.instr, a.frame, a.gen, r.2.map (fun e => (e.1, e.2.1)), 0, 0, bad, false, none⟩
  .done (r.1.modCore c (fun k => { k with loads := k.loads ++ [op] }))

/-- An access that cannot proceed parks in the Tarn, or takes BUSY (R226, R227). -/
def parkInTarn (s : State) (c : Nat) (w : Who) (pa : Nat) (a : Access) : Shown :=
  if tarnRoom s pa then
    let s1 : State := { s with tarn := s.tarn ++ [⟨pa, .split c w.slot w.lane⟩] }
    .held (s1.signal c w.ctx 28) (.tarn a)
  else .held (s.signal c w.ctx 29) (.busy a (s.cyc c + Config.tarnRetry))

/-- A full/empty access presented at its word's home agent (R225, R226); FPUT and FFILL release, so the core's stores
are performed first (R236, R242). -/
def showWord (s : State) (c : Nat) (w : Who) (a : Access) : Shown :=
  match a.reqs with
  | [] => .done s
  | r :: _ => match reqPhys s w a r with
    | none => .done s
    | some pa =>
      let s0 := s.drainStores c
      let take := fun (d : Nat) (empties : Bool) =>
        let s1 := s0.modCore c (fun k => { k with loads := k.loads ++ [takeReturn s0 w d a.frame a.gen pa r.va] })
        Shown.held (if empties then walk [pa] (setFull s1 pa false) else s1) .data
      match a.instr with
      | .fld _ d _ => if isFull s0 pa then take d false else parkInTarn s0 c w pa a
      | .ftake _ d _ => if isFull s0 pa then take d true else parkInTarn s0 c w pa a
      | .fput _ _ _ => if isFull s0 pa then parkInTarn s0 c w pa a else .done (fillWord s0 pa r.x)
      | _ => .done (fillWord s0 pa r.x)

/-- An access presented: the checks of R71 in the order of R40, absent pages (R210, R211, R219), then its effect. -/
def present (s : State) (c : Nat) (w : Who) (frame : Nat) (a : Access) : Shown :=
  match accessTrap s w a with
  | some t => .trap t.1 t.2
  | none => presentOpen (s.crossed c w.ctx (a.reqs.filterMap (reqPhys s w a)))
where
  /-- The access once its checks have passed. -/
  presentOpen (s : State) : Shown :=
    match loadDest a.instr, accessWrites a.instr, a.instr with
    | _, _, .touch _ => match accessAbsent s w a with
      | [] => .done s
      | va :: _ =>
        let s1 := s.addRecords c w 4 0 [va]
        if s1.hub.recWait = [] then .done s1 else .held s1 .touch
    | _, _, .fld _ _ _ | _, _, .ftake _ _ _ | _, _, .fput _ _ _ | _, _, .ffill _ _ _ =>
      if accessAbsent s w a = [] then showWord s c w a else .absent (accessAbsent s w a)
    | some _, true, _ => if accessAbsent s w a = [] then showAtomic s c w a else .absent (accessAbsent s w a)
    | some _, false, _ => showLoad s c w frame a
    | none, _, _ => if accessAbsent s w a = [] then showStore s c w a else .absent (accessAbsent s w a)

/-- A memory instruction after its debit (R31, R211, R226). -/
def accessBody (i : Instr) (v : View) (s : State) : Act :=
  let a := accessOf v i
  let w := v.who
  let c := v.sel.core
  match present s c w v.fr a with
  | .trap cause tval => .trap cause tval
  | .absent vas => .placed (parkOnFaults s c v.sel.slot (lowLane v.m) w a vas)
  | .done s1 => .next s1
  | .held s1 x => .placed (s1.modGroup c v.sel.slot (fun g => g.parkLane (lowLane v.m) x))

/-- LD: zero-extended (R70 to R75). -/
def execLd (w : Width) (d a : Nat) (s : State) : Result := issue (.ld w d a) (accessBody (.ld w d a)) s
/-- LDS: sign-extended (R70 to R75). -/
def execLds (w : Width) (d a : Nat) (s : State) : Result := issue (.lds w d a) (accessBody (.lds w d a)) s
/-- ST (R70 to R74, R211). -/
def execSt (w : Width) (d a : Nat) (s : State) : Result := issue (.st w d a) (accessBody (.st w d a)) s
/-- AMO (R220, R221). -/
def execAmo (op : AmoOp) (w : Width) (sc : Scope) (d a : Nat) (s : State) : Result :=
  issue (.amo op w sc d a) (accessBody (.amo op w sc d a)) s
/-- CAS (R220, R222). -/
def execCas (w : Width) (sc : Scope) (d a : Nat) (s : State) : Result :=
  issue (.cas w sc d a) (accessBody (.cas w sc d a)) s
/-- VAMO (R220, R223). -/
def execVamo (op : AmoOp) (sc : Scope) (d a : Nat) (s : State) : Result :=
  issue (.vamo op sc d a) (accessBody (.vamo op sc d a)) s
/-- FLD (R225, R226). -/
def execFld (sc : Scope) (d a : Nat) (s : State) : Result := issue (.fld sc d a) (accessBody (.fld sc d a)) s
/-- FTAKE (R225, R226). -/
def execFtake (sc : Scope) (d a : Nat) (s : State) : Result := issue (.ftake sc d a) (accessBody (.ftake sc d a)) s
/-- FPUT (R225, R226). -/
def execFput (sc : Scope) (d a : Nat) (s : State) : Result := issue (.fput sc d a) (accessBody (.fput sc d a)) s
/-- FFILL (R225, R226). -/
def execFfill (sc : Scope) (d a : Nat) (s : State) : Result := issue (.ffill sc d a) (accessBody (.ffill sc d a)) s
/-- VLD (R215, R216). -/
def execVld (w : Width) (d a : Nat) (s : State) : Result := issue (.vld w d a) (accessBody (.vld w d a)) s
/-- VST (R215, R216). -/
def execVst (w : Width) (d a : Nat) (s : State) : Result := issue (.vst w d a) (accessBody (.vst w d a)) s
/-- VLDC (R215, R217). -/
def execVldc (w : Width) (d a : Nat) (s : State) : Result := issue (.vldc w d a) (accessBody (.vldc w d a)) s
/-- VSTC (R215, R217). -/
def execVstc (w : Width) (d a : Nat) (s : State) : Result := issue (.vstc w d a) (accessBody (.vstc w d a)) s
/-- TOUCH (R219). -/
def execTouch (a : Nat) (s : State) : Result := issue (.touch a) (accessBody (.touch a)) s

/-- FENCE after its debit (R229, R243, R244): a release at .grp or .core waits for the core's stores; one at .die or
wider sends a marker, and the stores that follow wait for it. Loads read memory when they issue, so that an acquire
has nothing to hold. -/
def fenceBody (k : FenceKind) (sc : Scope) (v : View) (s : State) : Act :=
  match k, sc with
  | .acq, _ => .next s
  | .rel, .grp | .rel, .core | .ar, .grp | .ar, .core => .next (s.drainStores v.sel.core)
  | .rel, .die | .rel, .dev | .rel, .sys | .ar, .die | .ar, .dev | .ar, .sys =>
    .next (s.modCore v.sel.core (fun c => { c with
      epoch := c.epoch + 1, markers := c.markers ++ [⟨v.who, c.epoch + 1, []⟩] }))

/-- FENCE (R229). -/
def execFence (k : FenceKind) (sc : Scope) (s : State) : Result := issue (.fence k sc) (fenceBody k sc) s

/-! The steps that end accesses. -/

/-- Whether a return is dropped: its frame is freed, or its vector register lies above the frame's present size (R75,
R83). -/
def staleReturn (k : Core) (g : Group) (frame : Nat) (gen : BitVec 8) (d : RegRef) : Bool :=
  d.frameLocal && (decide (k.sgenOf frame ≠ gen) || (match d with
    | .v n => decide (8 * (g.frame frame).grans.length ≤ n)
    | .s _ | .p _ | .t _ | .a _ _ => false))

/-- Whether a load's return is dropped. -/
def LoadOp.stale (o : LoadOp) (k : Core) (g : Group) : Bool :=
  match o.dst with
  | some d => staleReturn k g o.frame o.gen d
  | none => false

/-- A return written into its register (R70, R216), or dropped and counted (R75, R83, R21). -/
def landReturn (s : State) (c : Nat) (o : LoadOp) : State :=
  let k := s.core c
  let slot := o.who.slot
  match s.group? c slot with
  | none => s
  | some g =>
    let stale := o.stale k g
    let mask := ofBits (fun l => o.lanes.any (fun e => decide (e.1 = l)))
    let written := fun (x : Group) => match o.dst with
      | some (.s d) => x.writeS o.frame d ((o.lanes.headD (0, 0)).2)
      | some (.v d) => x.writeV o.frame d mask (fun l => (Table.getD o.lanes l 0).setWidth 32)
      | some (.p _) | some (.t _) | some (.a _ _) | none => x
    let g1 := if stale then g else written g
    let g2 := if o.set ||| o.clear = 0 then g1 else g1.arrive o.set o.clear
    let g3 := match o.wake with
      | some lane => g2.resume lane
      | none => g2
    let s1 := s.putGroup c slot g3
    if stale then s1.bumpStale c slot else s1

/-- LOAD_RETURN: the load's data arrives (R75, R281). A poisoned return stays pending for its delivery; one whose frame is
freed, whose register its frame no longer has (R83), or whose group has ended, is dropped. -/
def loadReturn (c slot n : Nat) (s : State) : Option State :=
  let k := s.core c
  match k.loads[n]? with
  | none => none
  | some o =>
    if o.who.slot ≠ slot || o.arrived then none
    else
      let gone := s.modCore c (fun x => { x with loads := dropAt x.loads n })
      if !(k.owns o.who) then some gone
      else if o.poison.isSome then
        let stale := match s.group? c slot with
          | some g => o.stale k g
          | none => false
        -- an FLD or FTAKE leaves its split at its own instruction, with its trap to take
        let woken := match o.wake with
          | some lane => gone.modGroup c slot (fun g => g.resume lane)
          | none => gone
        if stale then some (woken.bumpStale c slot)
        else some (woken.modCore c (fun x => { x with loads := x.loads ++ [{ o with arrived := true, wake := none }] }))
      else some (landReturn gone c o)

/-- LOAD_RETURN (R75). -/
def execLoadReturn (core slot op : Nat) (s : State) : Result := event (loadReturn core slot op s)

/-- Whether two operations are of one split, as far as its lanes tell: one group, and a lane in common. -/
def Who.sameSplit (w x : Who) : Bool :=
  w.sameGroup x && decide (w.mask &&& x.mask ≠ 0)

/-- Whether a marker is before a store of the split that issued it, or of one into which that split has merged or fused since
(R240, R243). -/
def Marker.before (m : Marker) (o : StoreOp) : Bool :=
  decide (m.number ≤ o.epoch) && (m.who.sameSplit o.who ||
    (m.who.sameGroup o.who && m.cover.any (fun e => decide (e.1 &&& o.who.mask ≠ 0) && decide (e.2 ≤ o.since))))

/-- Whether a store may be performed: no marker that is before it is outstanding (R243), no older store of its
group shares a byte with it (R74), and no older store of its core writes a 64-byte unit that it writes (R319). -/
def mayPerform (k : Core) (n : Nat) (o : StoreOp) : Bool :=
  k.markers.all (fun m => !(m.before o)) &&
  (k.stores.take n).all (fun p => !(p.cells.any (fun c => o.cells.any (fun d => decide (c.1 / 64 = d.1 / 64)))))

/-- A store performed at every scope (R234). -/
def performStore (c n : Nat) (lands : Bool) (s : State) : Option State :=
  match (s.core c).stores[n]? with
  | none => none
  | some o =>
    if mayPerform (s.core c) n o && (o.cells.any (fun x => mereLands x.1) == lands) then
      some ((writeCells s o.cells).modCore c (fun k => { k with stores := dropAt k.stores n }))
    else none

/-- STORE_PERFORMED (R234). -/
def execStorePerformed (core op : Nat) (s : State) : Result := event (performStore core op false s)

/-- MERE_WRITE_LAND: a store through the frame or group view lands between issue cycles, or is dropped (R203, R246). -/
def execMereWriteLand (core op : Nat) (s : State) : Result := event (performStore core op true s)

/-- RELEASE_MARKER_COMPLETE: the oldest marker completes once no store it counts is outstanding (R243, R244). -/
def markerComplete (c n : Nat) (s : State) : Option State :=
  let k := s.core c
  match k.markers with
  | m :: rest =>
    if n = 0 && k.stores.all (fun o => decide (m.number ≤ o.epoch)) then
      some (s.modCore c (fun x => { x with markers := rest }))
    else none
  | [] => none

/-- RELEASE_MARKER_COMPLETE (R243). -/
def execReleaseMarkerComplete (core marker : Nat) (s : State) : Result := event (markerComplete core marker s)

end Sys2Proof.Machine
end

