-- ==== Sys2Proof/Machine/Engines.lean ====
section
/-! DEFINITION. The matrix array (R248 to R264), the copy engine (R265 to R271), channels (R137 to R139, R272) and ENQ
(R273), with the steps that end their operations. -/

namespace Sys2Proof.Machine

/-! Stamp records: the operations of an open sweep tile (R307). -/

/-- The kinds of operation a tile counts. -/
inductive TileOp where
  | copy | tld | matrix
  deriving DecidableEq, Repr

/-- An event of a tile set: the first time when `latest` is false, else each time (R307). -/
def TileRec.mark (t : TileRec) (i now : Nat) (latest : Bool) : TileRec :=
  { t with events := changeAt t.events i (fun e => if latest || e.isNone then some now else e) }

/-- A record of a task's tile changed. -/
def Task.onTile (t : Task) (n : Nat) (f : TileRec → TileRec) : Task :=
  { t with tilerecs := t.tilerecs.map (fun y => if y.number = n then f y else y) }

/-- An operation issued into the open tile of its task: the tile's number, and whether it is a copy-out (R307). -/
def noteTile (v : View) (k : TileOp) (s : State) : State × Option Nat × Bool :=
  let now := s.cyc v.sel.core
  match v.task.tilerecs.find? (fun t => !t.closed) with
  | none => (s, none, false)
  | some t =>
    let put := fun (f : TileRec → TileRec) => s.modTask v.tid (fun x => x.onTile t.number f)
    let counted := fun (y : TileRec) => { y with ops := y.ops + 1 }
    match k with
    | .matrix => (put (fun y => { ((counted y).mark 2 now false) with computes := true }), some t.number, false)
    | .copy => if t.computes then (put (fun y => (counted y).mark 5 now false), some t.number, true)
        else (put (fun y => (counted y).mark 0 now false), some t.number, false)
    | .tld => if t.computes then (s, none, false)
        else (put (fun y => (counted y).mark 0 now false), some t.number, false)

/-- An operation of a tile completed or dropped; `ev` is the event it dates, if any (R307, R308). -/
def endTile (s : State) (c tid : Nat) (tile ev : Option Nat) : State :=
  match tile with
  | none => s
  | some n => s.modTask tid (fun x => x.onTile n (fun t =>
      let t1 := { t with ops := t.ops - 1 }
      match ev with
      | some i => t1.mark i (s.cyc c) true
      | none => t1))

/-! Matrix instructions. -/

/-- MFMT after its debit (R259). -/
def mfmtBody (a : Nat) (v : View) (s : State) : Act :=
  let w := v.lane a (lowLane v.m)
  match (lanesOf v.m).find? (fun k => decide (v.lane a k ≠ w)) with
  | some k => .trap 5 ((v.lane a k).setWidth 64)
  | none => .next (s.onGroup v.sel (fun g => { g with mfr := w.setWidth 16 }))

/-- MFMT (R259). -/
def execMfmt (a : Nat) (s : State) : Result := issue (.mfmt a) (mfmtBody a) s

/-- An operation of the array as it issues: its snapshot (R254, R260, R261, R263), under a number of its own, in a pass of
its own. -/
def matOpOf (v : View) (s : State) (kind : MatKind) (target : Nat) (quarters : BitVec 4) : MatOp :=
  { who := v.who, serial := s.fresh, kind := kind, target := target, quarters := quarters
    frame := v.fr, gen := v.core.sgenOf v.fr, issued := s.cyc v.sel.core, pass := s.fresh
    isClosed := false, started := false, shadow := none, lost := 0, vals := [], rows := [], bytes := [], tileNo := 0, bva := 0
    mfr := v.group.mfr, dual := v.group.dual, pc := v.split.pc, units := 0, absent := false, records := 0, drained := false
    tile := none }

/-- An operation handed to the array. -/
def addMat (v : View) (o : MatOp) (s : State) : State :=
  ({ s with fresh := s.fresh + 1 }).modCore v.sel.core (fun k => { k with mats := k.mats ++ [o] })

/-- The cycles after the first MM of a pass in which others may join it (R255). -/
def passWindow : Nat := 3

/-- Whether an MM joins the pass that `x` is the first of: one group, accumulator, tile and `dual`, issued within the window,
with no write to the tile between them (R255): no TLD, and none through the physical view, of which `written` is the latest. -/
def joinsPass (written : Option Nat) (o x : MatOp) : Bool :=
  decide (x.kind = .mm) && decide (x.pass = x.serial) && !x.isClosed && !x.started && !x.drained &&
  x.who.sameGroup o.who && decide (x.target = o.target) &&
  decide (x.tileNo = o.tileNo) && (x.dual == o.dual) && decide (o.issued ≤ x.issued + passWindow) &&
  written.all (fun n => decide (n ≤ x.serial))

/-- The element of the tile that an MM of a core reads, with the core. -/
def tileOf (k : Core) (c : Nat) (o : MatOp) : Option (Nat × Nat) :=
  ((Table.get? k.groups o.who.slot).bind (fun g => Table.get? g.tiles o.tileNo)).map (fun t => (c, t.elem))

/-- An MM with the pass it belongs to (R255). -/
def inPass (s : State) (c : Nat) (o : MatOp) : MatOp :=
  match (s.core c).mats.find? (joinsPass ((tileOf (s.core c) c o).bind (fun e => Table.get? s.tileWrites (tileKey e))) o) with
  | some x => { o with pass := x.serial }
  | none => o

/-- MM after its debit (R252, R255, R260). -/
def mmBody (d a b : Nat) (v : View) (s : State) : Act :=
  if quartersOf v.m = 0 then .next s
  else if !(mfrValid v.group.mfr) then .trap 5 (v.group.mfr.setWidth 64)
  else
    let n := noteTile v .matrix s
    let o := { matOpOf v s .mm d (quartersOf v.m) with
      rows := aRows v.group v.fr a, bytes := (v.group.readT b).bytes, tileNo := b, tile := n.2.1 }
    .next (addMat v (inPass s v.sel.core o) n.1)

/-- MM (R260). -/
def execMm (d a b : Nat) (s : State) : Result := issue (.mm d a b) (mmBody d a b) s

/-- The alignment and protection of an operand image of 1,536 bytes (R261, R263). -/
def imageTrap (s : State) (w : Who) (va : W64) : Option Nat :=
  if va.toNat % 64 ≠ 0 then some 7
  else if (rangeBad s w.ctx w.asid w.task Need.load va.toNat 1536).isSome then some 6 else none

/-- The absent pages of an operand image, and those that changed since the checks (R262, R268): one address each. -/
def rangeTrouble (s : State) (w : Who) (need : Need) (va len : Nat) : List Nat :=
  lowestPerPlace s w.asid (rangeAbsent s w.ctx w.asid need (len / 65536 + 2) va (va + len) ++
    rangeBads s w.ctx w.asid w.task need (len / 65536 + 2) va (va + len))

/-- The accumulator of a matrix operation of a group. -/
def accOf (s : State) (c : Nat) (o : MatOp) : List W32 :=
  match s.group? c o.who.slot with
  | some g => (g.readA o.target).vals
  | none => []

/-- The quarters of an MMM restored from its shadow, where its pass has begun (R262). -/
def MatOp.restore (o : MatOp) (g : Group) : Group :=
  match o.shadow with
  | none => g
  | some l =>
    let r := g.readA o.target
    g.putA o.target { r with vals := (upto 256).map (fun e =>
      if o.quarters.getLsbD (e / 64) then l.getD e 0 else r.vals.getD e 0) }

/-- An MMM that waits: its quarters are as its shadow keeps them, and a record stands for each page (R262). One that waits
from its issue on has begun no pass, and has no shadow yet. -/
def matWaits (s : State) (c : Nat) (o : MatOp) (vas : List Nat) : State :=
  let s1 := if (s.core c).owns o.who then s.modGroup c o.who.slot o.restore else s
  (s1.addRecords c o.who 8 o.serial vas).modCore c (fun k => { k with mats := k.mats.map (fun x =>
    if x.serial = o.serial then { x with absent := true, records := vas.length, started := false } else x) })

/-- Where the 64-byte units of an operand image lie, as far as they are resident. -/
def imagePages (s : State) (w : Who) (va : W64) : List Nat :=
  (upto 24).filterMap (fun u => physOf s w.ctx w.asid (va.toNat + 64 * u) Need.load)

/-- MMM after its debit (R261, R262): the core's older stores are performed first, for the fork of R241. -/
def mmmBody (d a b : Nat) (v : View) (s : State) : Act :=
  if quartersOf v.m = 0 then .next s
  else if !(mfrValid v.group.mfr) then .trap 5 (v.group.mfr.setWidth 64)
  else match imageTrap s v.who (v.rs b) with
    | some cause => .trap cause (v.rs b)
    | none =>
      let n := noteTile v .matrix (s.drainStores v.sel.core)
      let o := { matOpOf v n.1 .mmm d (quartersOf v.m) with
        rows := aRows v.group v.fr a, bva := v.rs b, tile := n.2.1 }
      let s1 := (addMat v o n.1).crossed v.sel.core v.task.ctx (imagePages s v.who (v.rs b))
      match rangeTrouble s1 v.who Need.load (v.rs b).toNat 1536 with
      | [] => .next s1
      | vas => .next (matWaits s1 v.sel.core o vas)

/-- MMM (R261). -/
def execMmm (d a b : Nat) (s : State) : Result := issue (.mmm d a b) (mmmBody d a b) s

/-- TLD after its debit (R263): no later MM joins a pass that reads its tile (R255). -/
def tldBody (d a : Nat) (v : View) (s : State) : Act :=
  match imageTrap s v.who (v.rs a) with
  | some cause => .trap cause (v.rs a)
  | none =>
    let n := noteTile v .tld (s.drainStores v.sel.core)
    let o := { matOpOf v n.1 .tld d 0 with tileNo := d, bva := v.rs a, tile := n.2.1 }
    let s1 := n.1.modCore v.sel.core (fun k => { k with mats := k.mats.map (fun x =>
      if x.kind = .mm && decide (x.tileNo = d) && x.who.sameGroup v.who then { x with isClosed := true } else x) })
    .next ((addMat v o s1).crossed v.sel.core v.task.ctx (imagePages s v.who (v.rs a)))

/-- TLD (R263). -/
def execTld (d a : Nat) (s : State) : Result := issue (.tld d a) (tldBody d a) s

/-- ACLR after its debit (R252, R264). -/
def aclrBody (d : Nat) (v : View) (s : State) : Act := .next (addMat v (matOpOf v s .aclr d (quartersOf v.m)) s)

/-- ACLR (R264). -/
def execAclr (d : Nat) (s : State) : Result := issue (.aclr d) (aclrBody d) s

/-- AGET after its debit: the accumulator is read now, and its values land later (R59, R251, R264). -/
def agetBody (d a : Nat) (v : View) (s : State) : Act :=
  .next (addMat v { matOpOf v s .aget d 0 with vals := (v.group.readA a).vals } s)

/-- AGET (R264). -/
def execAget (d a : Nat) (s : State) : Result := issue (.aget d a) (agetBody d a) s

/-- APUT after its debit: the registers are read now, and their values land later (R59, R251, R264). -/
def aputBody (d a : Nat) (v : View) (s : State) : Act :=
  .next (addMat v { matOpOf v s .aput d 15 with vals := (upto 256).map (fun e => v.lane (a + e / 32) (e % 32)) } s)

/-- APUT (R264). -/
def execAput (d a : Nat) (s : State) : Result := issue (.aput d a) (aputBody d a) s

/-! The steps that end matrix operations. -/

/-- `tval` of a matrix fault (R258). -/
def matrixTval (o : MatOp) (q : Nat) : W64 :=
  BitVec.ofNat 64 (o.pc.toNat / 4 % 2 ^ 54 * 2 ^ 10 + q * 2 ^ 8 +
    (if o.kind = .mmm then 2 ^ 7 else o.tileNo * 2 ^ 4) + o.target)

/-- The bytes of an operation's image as its split reads them, with the poison of its 64-byte units; absent parts read zero
(R204, R263). -/
def imageBytes (s : State) (c : Nat) (o : MatOp) : List (Byte × Bool × Bool) :=
  (upto 1536).map (fun k => match physOf s o.who.ctx o.who.asid (o.bva.toNat + k) Need.load with
    | some pa => let b := taskRead s o.who.ctx (some (c, o.who.slot, o.frame)) pa
        (b.1, b.2, true)
    | none => (0, false, false))

/-- An accumulator value of a quarter after a pass: each element takes its dot product (R253, R260). -/
def passValue (o : MatOp) (img : List Byte) (old : List W32) (e : Nat) : W32 :=
  dotProduct o.mfr (o.rows.getD (e / 16) []) (bColumn img (e % 16)) (old.getD e 0)

/-- The cause with which each active quarter of a pass is faulted, if any (R256, R257, R261). That poisoned data of B comes
before a residue and a difference of the copies is a DESIGN CHOICE (log entry 65). -/
def quarterCause (poisonedB : Bool) (residue dual : BitVec 4) (q : Nat) : Option Nat :=
  if poisonedB then some 2
  else if residue.getLsbD q then some 3
  else if dual ≠ 0 then some 4
  else none

/-- A fault in its place: ascending accumulator, then quarter (R258). -/
def insertFault (f : MatFault) : List MatFault → List MatFault
  | [] => [f]
  | x :: xs =>
    if f.acc < x.acc || (decide (f.acc = x.acc) && decide (f.quarter < x.quarter)) then f :: x :: xs
    else x :: insertFault f xs

/-- What a matrix operation writes, but for the elements that an operation of a lower lane of its cycle writes: those stay as
`g` has them (R61). -/
def MatOp.butLost (o : MatOp) (g : Group) (f : Nat → W32) (e : Nat) : W32 :=
  if o.lost.getLsbD e then (g.readA o.target).vals.getD e 0 else f e

/-- The cause of a quarter of an operation: a residue is carried by kind 2 alone (R256). -/
def MatOp.cause (o : MatOp) (poisonedB : Bool) (residue dual : BitVec 4) (q : Nat) : Option Nat :=
  quarterCause poisonedB (if mfrKind o.mfr = 2 then residue else 0) dual q

/-- An MM or MMM drained into its group: unfaulted quarters written, faults kept. Its sums start from the accumulator as its
pass found it (R254, R258, R260, R262). -/
def drainInto (o : MatOp) (img : List Byte) (poisonedB : Bool) (residue dual : BitVec 4) (g : Group) : Group :=
  (quarterList o.quarters).foldl (fun x q =>
    match o.cause poisonedB residue dual q with
    | none => x.putA o.target ((x.readA o.target).putQuarter q
        (o.butLost g (passValue o img (o.shadow.getD (g.readA o.target).vals))))
    | some cause => { x with mfaults := insertFault ⟨o.serial, o.target, q, cause, matrixTval o q⟩ x.mfaults }) g

/-- ACLR's and APUT's writes: a whole quarter written is not poisoned (R251, R264, R353). -/
def MatOp.putInto (o : MatOp) (g : Group) : Group :=
  match o.kind with
  | .aclr => (quarterList o.quarters).foldl (fun x q =>
      x.putA o.target ((x.readA o.target).putQuarter q (o.butLost g (fun _ => 0)))) g
  | .aput =>
    let r := g.readA o.target
    g.putA o.target { r with
      vals := (upto 256).map (o.butLost g (fun e =>
        if maskHas o.who.mask (e % 32) then o.vals.getD e 0 else r.vals.getD e 0))
      poison := if o.who.mask = BitVec.allOnes 32 then 0 else r.poison }
  | .mm | .mmm | .tld | .aget => g

/-- AGET's writes, each of eight registers for itself: one whose frame is freed, or that its frame no longer has, is
dropped (R29, R82, R83, R264). -/
def getInto (k : Core) (o : MatOp) (g : Group) : Group :=
  (upto 8).foldl (fun x m => if staleReturn k x o.frame o.gen (.v (o.target + m)) then x
    else x.writeV o.frame (o.target + m) o.who.mask (fun l => o.vals.getD (32 * m + l) 0)) g

/-- Whether a register of an AGET's result is dropped, which `stale` counts once (R82). -/
def getStale (k : Core) (o : MatOp) (g : Group) : Bool :=
  (upto 8).any (fun m => staleReturn k g o.frame o.gen (.v (o.target + m)))

/-- An accumulator move of a core lands (R264). -/
def landMove (c : Nat) (o : MatOp) (s : State) : State :=
  let k := s.core c
  match s.group? c o.who.slot with
  | none => s
  | some g =>
    if o.kind = .aget then
      let s1 := s.putGroup c o.who.slot (getInto k o g)
      if getStale k o g then s1.bumpStale c o.who.slot else s1
    else s.putGroup c o.who.slot (o.putInto g)

/-- The operations of a pass, by the number of its first (R255). -/
def passOf (k : Core) (pass : Nat) : List MatOp :=
  k.mats.filter (fun o => decide (o.pass = pass) && (decide (o.kind = .mm) || decide (o.kind = .mmm)) && !o.drained)

/-- An operation of a pass drained: its quarters written or faulted; it stays while it has faults (R258). That every byte of B is
read here is a DESIGN CHOICE (log entry 68). -/
def drainOp (c : Nat) (residue dual : BitVec 4) (s : State) (o : MatOp) : State :=
  let read := if o.kind = .mmm then imageBytes s c o else []
  let img := if o.kind = .mmm then read.map Prod.fst else o.bytes
  let poisoned := read.any (fun b => b.2.1)
  let s1 := endTile s c o.who.task o.tile (some 4)
  let drop := s1.modCore c (fun x => { x with mats := x.mats.filter (fun y => decide (y.serial ≠ o.serial)) })
  if !((s.core c).owns o.who) then drop
  else
    let clean := (quarterList o.quarters).all (fun q => (o.cause poisoned residue dual q).isNone)
    let s2 := if clean then drop
      else s1.modCore c (fun x => { x with mats := x.mats.map (fun y =>
        if y.serial = o.serial then { y with drained := true } else y) })
    s2.modGroup c o.who.slot (drainInto o img poisoned residue dual)

/-- MATRIX_DRAIN: a pass of MMs or of an MMM ends, with every quarter of it (R255 to R262), or an ACLR, AGET or APUT lands
(R264). `residue` names quarters whose carried residue differs, which only operations of kind 2 have; `dual` is nonzero when
the copies of a redundant pass differ. -/
def matrixDrain (c slot n : Nat) (residue dual : BitVec 4) (s : State) : Option State :=
  match (s.core c).mats[n]? with
  | none => none
  | some o =>
    if o.who.slot ≠ slot || o.drained || o.absent then none
    else match o.kind with
      | .tld => none
      | .aclr | .aget | .aput =>
        if residue ≠ 0 || decide (dual ≠ 0) then none
        else
          let s1 := s.modCore c (fun x => { x with mats := dropAt x.mats n })
          some (if (s.core c).owns o.who then landMove c o s1 else s1)
      | .mm | .mmm =>
        if !o.started || decide (o.pass ≠ o.serial) || (decide (residue ≠ 0) && (passOf (s.core c) o.pass).all (fun y => decide (mfrKind y.mfr ≠ 2))) ||
           (decide (dual ≠ 0) && !o.dual) then none
        else
          let trouble := if o.kind = .mmm then rangeTrouble s o.who Need.load o.bva.toNat 1536 else []
          if trouble ≠ [] then some (matWaits s c o trouble)
          else some ((passOf (s.core c) o.pass).foldl (drainOp c residue dual) s)

/-- A pass begins: each of its operations takes the accumulator as it stands, which of an MMM is its shadow, kept by a later
run (R254, R260 to R262); its array signals, and E4 of the tiles its operations belong to (R307, R311). -/
def startPass (c : Nat) (o : MatOp) (s : State) : State :=
  let members := passOf (s.core c) o.pass
  let bits : BitVec 64 := (1#64 <<< 30) ||| (if 1 < members.length then 1#64 <<< 31 else 0)
  let s1 := (s.modCore c (fun k => { k with mats := k.mats.map (fun x =>
    if x.pass = o.pass then { x with started := true, shadow := some (x.shadow.getD (accOf s c x)) } else x) })).raise c o.who.ctx bits
  members.foldl (fun st x => match x.tile with
    | some t => st.modTask x.who.task (fun y => y.onTile t (fun r => r.mark 3 (s.cyc c) false))
    | none => st) s1

/-- Whether a pass of a core may begin: an MM's once no other can join it, an MMM's while no record stands (R255, R262). -/
def mayStart (s : State) (c : Nat) (o : MatOp) : Bool :=
  !o.started && !o.drained && !o.absent && decide (o.pass = o.serial) &&
  (decide (o.kind = .mmm) || (decide (o.kind = .mm) && (o.isClosed || decide (o.issued + passWindow < s.cyc c))))

/-- The next pass of a core that begins. -/
def passTurn (s : State) : Option State :=
  s.cores.findSome? (fun e => (e.2.mats.find? (mayStart s e.1)).map (fun o => startPass e.1 o s))

/-- MATRIX_DRAIN (R260). -/
def execMatrixDrain (core slot op : Nat) (residue dual : BitVec 4) (s : State) : Result :=
  event (matrixDrain core slot op residue dual s)

/-- TLD_COMPLETE: the tile and p15 written (R263, R353); a tile that a TLD of a lower lane of its cycle writes keeps that one's
value (R61). That every byte, and whether it is there, is read here, and not earlier in the operation's life (R232, R241), is a
DESIGN CHOICE (log entry 74). Only a tile that is written dates its sweep tile's event (R307). -/
def tldComplete (c slot n : Nat) (s : State) : Option State :=
  let k := s.core c
  match k.mats[n]? with
  | none => none
  | some o =>
    if o.who.slot ≠ slot || decide (o.kind ≠ .tld) then none
    else
      let img := imageBytes s c o
      let units := (upto 24).foldl (fun (p : BitVec 24) u =>
        if (upto 64).any (fun k => (img.getD (64 * u + k) (0, false, false)).2.1) then p ||| (1#24 <<< u) else p) 0
      let whole := img.all (fun b => b.2.2)
      let s1 := (endTile s c o.who.task o.tile (if k.owns o.who && decide (o.lost = 0) then some 1 else none)).modCore c
        (fun x => { x with mats := dropAt x.mats n })
      if !(k.owns o.who) then some s1
      else some (s1.modGroup c slot (fun g =>
        (if o.lost ≠ 0 then g else g.putT o.target { g.readT o.target with bytes := img.map Prod.fst, poison := units }).arrive
          (if whole then o.who.mask else 0) (if whole then 0 else o.who.mask)))

/-- TLD_COMPLETE (R263). -/
def execTldComplete (core slot op : Nat) (s : State) : Result := event (tldComplete core slot op s)

/-- MMM_RERUN: every record resolved, the MMM runs again from its shadow, reading all of B afresh (R262). -/
def mmmRerun (c slot n : Nat) (s : State) : Option State :=
  match (s.core c).mats[n]? with
  | none => none
  | some o =>
    if o.who.slot = slot && o.absent && decide (o.records = 0) then
      some ((s.modCore c (fun x => { x with mats := changeAt x.mats n (fun y => { y with absent := false }) })).signal c
        o.who.ctx 34)
    else none

/-- MMM_RERUN (R262). -/
def execMmmRerun (core slot op : Nat) (s : State) : Result := event (mmmRerun core slot op s)

/-! The copy engine. -/

/-- The lowest byte that the rows of a copy may not reach: sources for R, destinations for W (R268). -/
def rowsBad (s : State) (w : Who) (rows : List CopyRow) : Option Nat :=
  let bads := rows.flatMap (fun r =>
    (rangeBad s w.ctx w.asid w.task Need.copyIn r.src.toNat r.len).toList ++
    (rangeBad s w.ctx w.asid w.task Need.copyOut r.dst.toNat r.len).toList)
  match bads with
  | [] => none
  | b :: bs => some (bs.foldl min b)

/-- Whether the rows of a copy write one of `n` bytes of the Mere map from a physical address on (R199, R255). -/
def rowsHit (rows : List CopyRow) (pa n : Nat) : Bool :=
  let lo := Config.mereAlias + (pa - Config.mereBase)
  rows.any (fun r => decide (r.dst.toNat < lo + n) && decide (lo < r.dst.toNat + r.len))

/-- A copy handed to the engine, its units added to rsv (R33, R266); the core's older stores are performed first, for
the fork of R241. -/
def addCopy (v : View) (d len cost : Nat) (rows : List CopyRow) (s : State) : State :=
  let n := noteTile v .copy ((s.drainStores v.sel.core).noteTiles (rowsHit rows))
  let o : CopyOp := ⟨v.who, s.fresh, d, v.fr, v.core.sgenOf v.fr, rows, len, cost, 0, false, false, n.2.1, n.2.2⟩
  (({ n.1 with fresh := s.fresh + 1 }).modCore v.sel.core (fun k => { k with copies := k.copies ++ [o] })).modTask v.tid
    (fun t => { t with rsv := t.rsv + cost })

/-- A copy's checks and its start (R266 to R268). -/
def copyStart (v : View) (d len cost : Nat) (rows : List CopyRow) (s : State) : Act :=
  match rowsBad s v.who rows with
  | some a => .trap 6 (BitVec.ofNat 64 a)
  | none => .next (addCopy v d len cost rows s)

/-- CPY after its debit (R266). -/
def cpyBody (d a b : Nat) (v : View) (s : State) : Act :=
  let len := (v.rs d).toNat
  if 2 ^ 36 ≤ len then .trap 6 (v.rs d)
  else copyStart v d len (2 + ceil64 len) [⟨v.rs a, v.rs b, len⟩] s

/-- An engine instruction waits, without issuing, while 64 operations are outstanding (R265). -/
def issueUnlessFull (i : Instr) (body : View → State → Act) (v : View) (s : State) : State :=
  if Config.copyOps ≤ (s.core v.sel.core).copies.length then s else issueFrom i body v s

/-- CPY (R265, R266). -/
def execCpy (d a b : Nat) (s : State) : Result :=
  issueWith (.cpy d a b) (issueUnlessFull (.cpy d a b) (cpyBody d a b)) s

/-- CPY2 after its debit (R267). -/
def cpy2Body (d a : Nat) (v : View) (s : State) : Act :=
  let w := v.rs (a + 2)
  let n := v.rs (a + 3)
  let len := w.toNat * n.toNat
  if 2 ^ 24 < w.toNat then .trap 6 w
  else if 2 ^ 24 < n.toNat then .trap 6 n
  else if 2 ^ 36 ≤ len then .trap 6 (BitVec.ofNat 64 len)
  else copyStart v d len (2 + ceil64 len) ((upto n.toNat).map (fun k =>
    ⟨v.rs a + BitVec.ofNat 64 k * v.rs (a + 4), v.rs (a + 1) + BitVec.ofNat 64 k * v.rs (a + 5), w.toNat⟩)) s

/-- CPY2 (R265, R267). -/
def execCpy2 (d a : Nat) (s : State) : Result :=
  issueWith (.cpy2 d a) (issueUnlessFull (.cpy2 d a) (cpy2Body d a)) s

/-- A source byte of a copy, with its poison: device memory, the Mere map, or another device (R268, R320). -/
def copyRead (s : State) (w : Who) (va : Nat) : Byte × Bool :=
  if Config.helasAlias ≤ va && decide (va < Config.helasAlias + 2 ^ 47) then
    (Config.helasByte ((va - Config.helasAlias) / 2 ^ 44) ((va - Config.helasAlias) % 2 ^ 44) s.fresh, false)
  else match physOf s w.ctx w.asid va Need.load with
    | some pa => taskRead s w.ctx none pa
    | none => (0, false)

/-- The bytes of a copy in order of the destination sequence: their source and destination addresses (R267). -/
def copySequence (rows : List CopyRow) : List (Nat × Nat) :=
  rows.flatMap (fun r => (upto r.len).map (fun k => (r.dst.toNat + k, r.src.toNat + k)))

/-- The cells a sequence of moves writes, every source byte read first (R269). -/
def copyCells (s : State) (w : Who) (moves : List (Nat × Nat)) : List (Nat × Byte × Bool) :=
  moves.filterMap (fun m => match physOf s w.ctx w.asid m.1 Need.store with
    | some pa => some (pa, copyRead s w m.2)
    | none => none)

/-- The pages that hold a copy up, one address for each page over all its rows: those that are absent, and those changed
since its checks (R268). -/
def copyTrouble (s : State) (w : Who) (rows : List CopyRow) : List Nat :=
  let absent := fun (need : Need) (va : W64) (len : Nat) =>
    rangeAbsent s w.ctx w.asid need (len / 65536 + 2) va.toNat (va.toNat + len)
  let bad := fun (need : Need) (va : W64) (len : Nat) =>
    rangeBads s w.ctx w.asid w.task need (len / 65536 + 2) va.toNat (va.toNat + len)
  lowestPerPlace s w.asid (rows.flatMap (fun r => absent Need.copyIn r.src r.len ++ absent Need.copyOut r.dst r.len ++
    bad Need.copyIn r.src r.len ++ bad Need.copyOut r.dst r.len))

/-- Whether a virtual address lies in the Helas alias (R320). -/
def isHelas (va : Nat) : Bool := decide (Config.helasAlias ≤ va) && decide (va < Config.helasAlias + 2 ^ 47)

/-- The 64-byte units of a copy that leave by a port whose link is down: each counts as refused there (R321). -/
def State.refuseUnits (s : State) (moves : List (Nat × Nat)) : State :=
  let units := ((upto moves.length).zip moves).filter (fun e => decide (e.1 % 64 = 0) && isHelas e.2.1)
  let refuse := fun (p : Port) => if p.up then p else { p with refused := p.refused + 1 }
  units.foldl (fun st e =>
    let n := (e.2.1 - Config.helasAlias) / 2 ^ 44
    st.modHub (fun h => { h with ports := Table.set h.ports n (refuse (Table.getD h.ports n ⟨false, 0, 0, 0⟩)) })) s

/-- The units of a copy written by a core, with what its counters see of them: signal 36 for each, and where they go (R311,
R320, R321). -/
def State.copyUnits (s : State) (c : Nat) (w : Who) (moves : List (Nat × Nat)) : State :=
  let firsts := (((upto moves.length).zip moves).filter (fun e => decide (e.1 % 64 = 0))).map Prod.snd
  let pas := firsts.filterMap (fun m => physOf s w.ctx w.asid m.1 Need.store) ++
    firsts.filterMap (fun m => physOf s w.ctx w.asid m.2 Need.load)
  let s1 := (writeCopied s (copyCells s w moves)).refuseUnits moves
  (s1.modCore c (fun k => { k with
    unitsDue := Table.set k.unitsDue w.ctx (Table.getD k.unitsDue w.ctx 0 + firsts.length) })).crossed c w.ctx pas

/-- Whether a token's register is still there: group-global, or in a frame of its generation (R270). -/
def tokenLive (k : Core) (o : CopyOp) : Bool :=
  !(RegRef.s o.token).frameLocal || decide (k.sgenOf o.frame = o.gen)

/-- A token or a return written into the register of a saved or spilled group's image (R270). -/
def Group.imageToken (g : Group) (frame d : Nat) : Group := g.writeS frame d 0

/-- A copy's token written, dropped and counted, or sent to an image, which is stored anew (R82, R266, R270, R287). -/
def copyToken (s : State) (c : Nat) (o : CopyOp) : State :=
  let k := s.core c
  if o.imaged && k.owns o.who then
    (s.modGroup c o.who.slot (fun g => g.imageToken o.frame o.token)).storeFrameArea c o.who.slot
  else if o.imaged then
    (s.modTask o.who.task (fun t => { t with saved := t.saved.map (fun x =>
      if x.slot = o.who.slot && decide (x.ggen = o.who.ggen) then
        { x with group := x.group.imageToken o.frame o.token, ctrs := (x.ctrs.1, x.ctrs.2.1, x.ctrs.2.2.1 - 1, x.ctrs.2.2.2) }
      else x) })).storeImage o.who.task
  else if !(k.owns o.who) then
    (s.modTask o.who.task (fun t => { t with saved := t.saved.map (fun x =>
      if x.slot = o.who.slot && decide (x.ggen = o.who.ggen) then
        { x with group := { x.group with stale := bumpStop x.group.stale },
                 ctrs := (x.ctrs.1, x.ctrs.2.1, x.ctrs.2.2.1 - 1, x.ctrs.2.2.2) }
      else x) })).storeImage o.who.task
  else if (RegRef.s o.token).frameLocal && decide (k.sgenOf o.frame ≠ o.gen) then s.bumpStale c o.who.slot
  else s.modGroup c o.who.slot (fun g => g.writeS o.frame o.token 0)

/-- Whether a copy's token is written: its register is there, in its group or in an image (R82, R270, R307). -/
def tokenLands (s : State) (c : Nat) (o : CopyOp) : Bool :=
  o.imaged || ((s.core c).owns o.who && tokenLive (s.core c) o)

/-- COPY_COMPLETE: every unit is written and the token follows; a page that is absent or has changed makes the copy
wait with a record instead (R266, R268, R269). R241 and R269 let it read each source byte at any moment between its issue and
its token: that every byte is read here is a DESIGN CHOICE (log entry 73). Only a token that is written dates its tile's
event (R307). -/
def copyComplete (c n : Nat) (s : State) : Option State :=
  match (s.core c).copies[n]? with
  | none => none
  | some o =>
    if o.cancelled || decide (o.records ≠ 0) then none
    else
      let trouble := copyTrouble s o.who o.rows
      if trouble ≠ [] then
        some ((s.addRecords c o.who 7 o.serial trouble).modCore c (fun k => { k with
          copies := changeAt k.copies n (fun x => { x with records := trouble.length }) }))
      else
        let s1 := s.copyUnits c o.who (copySequence o.rows)
        let s2 := { s1 with fresh := s1.fresh + 1 }
        let s3 := endTile s2 c o.who.task o.tile (if tokenLands s c o then some (if o.copyOut then 6 else 1) else none)
        some (copyToken ((s3.modCore c (fun k => { k with copies := dropAt k.copies n })).modTask o.who.task
          (fun t => { t with rsv := t.rsv - o.cost })) c o)

/-- COPY_COMPLETE (R266). -/
def execCopyComplete (core op : Nat) (s : State) : Result := event (copyComplete core op s)

/-- Whether a copy of a context can reach a byte for a need, by the Helas alias or by translation (R268, R320). -/
def copyReaches (s : State) (w : Who) (need : Need) (va : Nat) : Bool :=
  (isHelas va && s.right w.ctx Ctx.helas) || (physOf s w.ctx w.asid va need).isSome

/-- The moves of a 64-byte unit of a copy (R267, R271). -/
def copyUnit (o : CopyOp) (u : Nat) : List (Nat × Nat) := ((copySequence o.rows).drop (64 * u)).take 64

/-- The units that a copy which ends before its completion has written: a free choice among those that it could write, of
Helas copies too (R271, R284, log entry 10). -/
def copyWritten (s : State) (o : CopyOp) : List Nat :=
  (upto (ceil64 o.len)).filter (fun u => Config.copiedUnit s.fresh u &&
    (copyUnit o u).all (fun m => copyReaches s o.who Need.store m.1 && copyReaches s o.who Need.load m.2))

/-- COPY_CANCEL_REPORT: a cancelled copy reports the units it wrote, a free choice among those it could write; the
rest is refunded (R186, R271). -/
def copyCancel (c n : Nat) (s : State) : Option State :=
  match (s.core c).copies[n]? with
  | none => none
  | some o =>
    if !o.cancelled then none
    else
      let written := copyWritten s o
      let s1 := s.copyUnits c o.who (written.flatMap (copyUnit o))
      let refund := ceil64 o.len - written.length
      let s2 := ({ s1 with fresh := s1.fresh + 1 }).modCore c (fun k => { k with copies := dropAt k.copies n })
      let s3 := s2.modTask o.who.task (fun t => { t with rsv := t.rsv - o.cost })
      match (Table.get? s3.tasks o.who.task).bind Task.unwinder with
      | some r => some (s3.modTask r (fun t => { t with sum := t.sum + refund }))
      | none => some s3

/-- COPY_CANCEL_REPORT (R271). -/
def execCopyCancelReport (core op : Nat) (s : State) : Result := event (copyCancel core op s)

/-! Channels. -/

/-- A task's channel (R137). -/
def chanOf (t : Task) (ch : Nat) : Chan := Table.getD t.chans ch ⟨0, 0, 0, [], 0, 0, [], []⟩

/-- A slot filled in ring order (R138). -/
def Chan.push (ch : Chan) (r : VReg) : Chan := { ch with full := ch.full ++ [r], pushPos := (ch.pushPos + 1) % ch.depth }
/-- The next full slot emptied (R138). -/
def Chan.pop (ch : Chan) : Chan := { ch with full := ch.full.tail, popPos := (ch.popPos + 1) % ch.depth }

/-- POP's write: the active lanes, each with the poison of its slot lane (R141, R272). -/
def Group.writePopped (g : Group) (fr d : Nat) (m : W32) (r : VReg) : Group :=
  let g1 := g.writeV fr d m (laneAt r.lanes)
  g1.putV fr d { g1.readV fr d with poison := (g1.readV fr d).poison ||| (r.poison &&& m) }

/-- The parked splits of a channel served while its slots allow, in the order in which they parked (R138). -/
def serveChan (c tid ch : Nat) : Nat → State → State
  | 0, s => s
  | n + 1, s =>
    match Table.get? s.tasks tid with
    | none => s
    | some t =>
      let x := chanOf t ch
      let put := fun (st : State) (y : Chan) => st.modTask tid (fun t => { t with chans := Table.set t.chans ch y })
      match x.poppers, x.full, x.pushers with
      | (slot, lane) :: rest, r :: _, _ =>
        let s1 := put s { x.pop with poppers := rest }
        serveChan c tid ch n (s1.modGroup c slot (fun g => match g.atLane lane with
          | some sp => match sp.wait with
            | .pop _ d => (g.writePopped sp.frame d sp.mask r).resume lane
            | _ => g
          | none => g))
      | _, full, (slot, lane) :: rest =>
        if full.length < x.depth then
          match (s.group? c slot).bind (fun g => g.atLane lane) with
          | some sp => match sp.wait with
            | .push _ r =>
              let s1 := put s { x.push r with pushers := rest }
              serveChan c tid ch n (s1.modGroup c slot (fun g => g.resume lane))
            | _ => s
          | none => s
        else s
      | _, _, [] => s

/-- A split that waits at a channel, and those that came before it in the order in which they are served: by group slot, then
lane, within one cycle (R138). -/
def insertWaiter (x : Nat × Nat) : List (Nat × Nat) → List (Nat × Nat)
  | [] => [x]
  | y :: ys => if x.1 < y.1 || (decide (x.1 = y.1) && decide (x.2 < y.2)) then x :: y :: ys else y :: insertWaiter x ys

/-- The splits that wait at a channel, those of a cycle that has just passed in the order of R138 behind those of before. -/
def waitersInOrder (before now : List (Nat × Nat)) : List (Nat × Nat) :=
  now.filter (fun x => before.contains x) ++
    (now.filter (fun x => !(before.contains x))).foldl (fun l x => insertWaiter x l) []

/-- A channel's PUSHes and POPs of a cycle that both sides of a core share, served in the order of R138; those that have to
wait have parked (R311). `s0` is the state that the cycle found. -/
def serveShared (c tid ch : Nat) (s0 s : State) : State :=
  match Table.get? s.tasks tid with
  | none => s
  | some t =>
    let old := ((Table.get? s0.tasks tid).map (fun x => chanOf x ch)).getD (chanOf t ch)
    let x := chanOf t ch
    let y := { x with pushers := waitersInOrder old.pushers x.pushers, poppers := waitersInOrder old.poppers x.poppers }
    let s1 := serveChan c tid ch 128 (s.modTask tid (fun z => { z with chans := Table.set z.chans ch y }))
    let left := ((Table.get? s1.tasks tid).map (fun z => chanOf z ch)).getD y
    let parked := fun (a b : List (Nat × Nat)) => a.any (fun e => !(b.contains e))
    let bits : BitVec 64 := (if parked left.pushers old.pushers then 1#64 <<< 37 else 0) |||
      (if parked left.poppers old.poppers then 1#64 <<< 38 else 0)
    if bits = 0 then s1 else s1.raise c t.ctx bits

/-- Whether a channel has a waiter that it had not. -/
def Chan.joined (x old : Chan) : Bool :=
  (x.pushers ++ x.poppers).any (fun e => !((old.pushers ++ old.poppers).contains e))

/-- Every channel of a core's crews served after a cycle that its sides share, where one has pushed or popped (R138). -/
def serveCycle (c : Nat) (s0 s : State) : State :=
  s.tasks.foldl (fun st e => if e.2.place ≠ c then st else e.2.chans.foldl (fun z x =>
    if x.2.joined (((Table.get? s0.tasks e.1).map (fun y => chanOf y x.1)).getD x.2) then serveShared c e.1 x.1 s0 z else z) st) s

/-- PUSH after its debit (R138, R139, R272). In a cycle that both sides of the core share it takes its turn at the channel when
both have issued (R138). -/
def pushBody (a ch : Nat) (v : View) (s : State) : Act :=
  let x := chanOf v.task ch
  let me := (v.sel.slot, lowLane v.m)
  let put := fun (y : Chan) => s.modTask v.tid (fun t => { t with chans := Table.set t.chans ch y })
  if x.depth = 0 || decide (v.group.stg ≠ x.prod) then .trap 12 (BitVec.ofNat 64 ch)
  else if s.hold then .placed ((put { x with pushers := x.pushers ++ [me] }).onGroup v.sel (fun g =>
    g.parkLane (lowLane v.m) (.push ch (v.group.readV v.fr a))))
  else if x.full.length < x.depth then
    .next (serveChan v.sel.core v.tid ch 64 (put (x.push (v.group.readV v.fr a))))
  else .placed (((put { x with pushers := x.pushers ++ [me] }).onGroup v.sel (fun g =>
    g.parkLane (lowLane v.m) (.push ch (v.group.readV v.fr a)))).signal v.sel.core v.task.ctx 37)

/-- PUSH (R272). -/
def execPush (a ch : Nat) (s : State) : Result := issue (.push a ch) (pushBody a ch) s

/-- POP after its debit (R138, R139, R272), in a cycle that both sides share as PUSH. -/
def popBody (d ch : Nat) (v : View) (s : State) : Act :=
  let x := chanOf v.task ch
  let me := (v.sel.slot, lowLane v.m)
  let put := fun (y : Chan) => s.modTask v.tid (fun t => { t with chans := Table.set t.chans ch y })
  if x.depth = 0 || decide (v.group.stg ≠ x.cons) then .trap 12 (BitVec.ofNat 64 ch)
  else if s.hold then .placed ((put { x with poppers := x.poppers ++ [me] }).onGroup v.sel (fun g =>
    g.parkLane (lowLane v.m) (.pop ch d)))
  else match x.full with
    | r :: _ => .next (serveChan v.sel.core v.tid ch 64 ((put x.pop).onGroup v.sel (fun g =>
        g.writePopped v.fr d v.m r)))
    | [] => .placed (((put { x with poppers := x.poppers ++ [me] }).onGroup v.sel (fun g =>
        g.parkLane (lowLane v.m) (.pop ch d))).signal v.sel.core v.task.ctx 38)

/-- POP (R272). -/
def execPop (d ch : Nat) (s : State) : Result := issue (.pop d ch) (popBody d ch) s

/-! ENQ. -/

/-- The checks of ENQ: alignment of both operands, then protection (R273). That a ring base that is not 64-byte aligned, or a slot
count beyond its limits, is one of its checks, with the base in `tval`, is a DESIGN CHOICE (log entry 59). -/
def enqTrap (s : State) (w : Who) (block image : W64) : Option (Nat × W64) :=
  let size := dwordAt s w.ctx w.asid (block.toNat + 8) % 32
  let base := dwordAt s w.ctx w.asid block.toNat % 2 ^ 56
  let bad := fun (need : Need) (va len : Nat) => rangeBad s w.ctx w.asid w.task need va len
  if block.toNat % 64 ≠ 0 then some (7, block)
  else if image.toNat % 64 ≠ 0 then some (7, image)
  else if (bad Need.load image.toNat 64).isSome then some (6, image)
  else if (bad enqNeed block.toNat 64).isSome then some (6, block)
  else if (rangeAbsent s w.ctx w.asid enqNeed 2 block.toNat (block.toNat + 64)) ≠ [] then none
  else if base % 64 ≠ 0 || decide (size = 0) || decide (16 < size) then some (6, BitVec.ofNat 64 base)
  else match bad enqNeed base (64 * 2 ^ size) with
    | some a => some (6, BitVec.ofNat 64 a)
    | none => none

/-- ENQ presented: a release at .dev, then the loop of R273 until it places its packet or waits. -/
def enqBegin (s : State) (c : Nat) (w : Who) (d : Nat) (block image : W64) (deadline : Nat) : State :=
  let s1 := s.drainStores c
  match ringOf s1 w.ctx w.asid block.toNat with
  | none => s1
  | some r =>
    let s0 := s1.crossed c w.ctx (r.tail :: (physOf s1 w.ctx w.asid block.toNat Need.load).toList)
    if isFull s0 r.tail then
      let t := enqTurn s0 c w.slot w.lane d block image deadline
      walk t.2 t.1
    else enqPark s0 c w.slot w.lane d block image deadline true r.tail

/-- ENQ after its debit (R273). It reads its control block as its split's own stores have left it (R235). -/
def enqBody (d a b : Nat) (v : View) (s : State) : Act :=
  let w := v.who
  let block := v.rs a
  let image := v.rs b
  let deadline := s.cyc v.sel.core + Config.enqDeadline
  let s0 := s.drainStores v.sel.core
  match enqTrap s0 w block image with
  | some t => .trap t.1 t.2
  | none =>
    match enqAbsent s0 w block image with
    | [] => .placed (enqBegin (s.onGroup v.sel (fun g => g.parkLane w.lane (.enq d block image deadline true)))
        v.sel.core w d block image deadline)
    | vas => .placed (parkOnFaults s v.sel.core w.slot w.lane w
        (enqAccess s v.sel.core w.slot w.lane d block image deadline) vas)

/-- ENQ (R273). -/
def execEnq (d a b : Nat) (s : State) : Result := issue (.enq d a b) (enqBody d a b) s

/-- ENQ_DEADLINE: an ENQ still waiting withdraws and returns FULL (R273). -/
def enqExpire (c slot n : Nat) (s : State) : Option State :=
  match (s.group? c slot).bind (fun g => g.entries[n]?) with
  | none => none
  | some sp =>
    let lane := lowLane sp.mask
    let done := fun (d : Nat) => some (answerSplit
      { s with tarn := s.tarn.filter (fun e => decide (e.user ≠ .split c slot lane)) } c slot lane d statusFull)
    if s.savingAt c slot then none
    else match sp.wait with
    | .enq d _ _ deadline _ => if deadline ≤ s.cyc c then done d else none
    | .faults _ a | .busy a _ => match a.instr with
      | .enq d _ _ => if (a.reqs.headD ⟨0, 0, 0, 0⟩).y.toNat ≤ s.cyc c then done d else none
      | _ => none
    | _ => none

/-- ENQ_DEADLINE (R273). -/
def execEnqDeadline (core slot entry : Nat) (s : State) : Result := event (enqExpire core slot entry s)

end Sys2Proof.Machine
end

