-- ==== Sys2Proof/Machine/Tasks.lean ====
section
/-! DEFINITION. Tasks and the Wellspring (R165 to R193): the task instructions, and the steps by which a Wellspring applies
operations, starts crews, ends tasks and unwinds them. -/

namespace Sys2Proof.Machine

/-! Handles (R167). -/

/-- What a handle names, by the checks of R167 in their order. -/
inductive Named where
  /-- checks 1 and 2 fail: cause 6 -/
  | bad
  /-- it names no task, and is treated as naming one in state DONE -/
  | gone
  | task (tid : Nat)
  deriving DecidableEq, Repr

/-- The key of a root task: its TCB address in its ASID. -/
def rootKey (asid va : Nat) : Nat := va + 2 ^ 56 * (asid + 1)

/-- The task a handle names for a context (R167). What a handle with bits [63:56] nonzero does is not said: the model takes it
as one that fails check 1 (DESIGN CHOICE, log entry 56). -/
def namedBy (s : State) (ctx asid : Nat) (h : W64) : Named :=
  let va := h.toNat / 256 * 256
  let inc := h.toNat % 256
  let check := fun (key : Nat) (t : Task) =>
    if t.ctx ≠ ctx then Named.bad else if t.inc.toNat = inc then .task key else .gone
  if 2 ^ 56 ≤ h.toNat then .bad
  else if inPool va then
    match Table.get? s.tasks va with
    | some t => check va t
    | none => .gone
  else match Table.get? s.tasks (rootKey asid va) with
    | some t => if t.isRoot then check (rootKey asid va) t else .bad
    | none => .bad

/-- Whether the task an operation names is still there under its handle (R172). -/
def stillNamed (s : State) (target : Option Nat) (inc : Byte) : Option Task :=
  match target.bind (Table.get? s.tasks) with
  | some t => if t.inc = inc then some t else none
  | none => none

/-- The place of an operation among those that reach a Wellspring in one cycle: the task's own transitions are at 0 and
unwinding orders at 1; the others come by issuing core, side and lowest lane (R172). -/
def opKey (core slot lane : Nat) : Nat := 2 + (2 * core + slot % 2) * 32 + lane

/-- The place of a packet's operation: that of the core number 0x1FF, which R212 gives the hub (DESIGN CHOICE, log entry
3). -/
def hubKey : Nat := opKey 0x1FF 0 0

/-- Whether an operation with a place may be the next that a core's Wellspring applies in this cycle (R172). -/
def State.inTurn (s : State) (c key : Nat) : Bool :=
  decide ((s.core c).turn.1 ≠ s.tick + 1) || decide ((s.core c).turn.2 ≤ key)

/-- The latest operation of a core's Wellspring noted (R172). -/
def State.noteTurn (s : State) (c key : Nat) : State := s.modCore c (fun k => { k with turn := (s.tick + 1, key) })

/-- An operation sent to a Wellspring (R172). -/
def State.send (s : State) (m : Msg) : State := { s with msgs := s.msgs ++ [m] }

/-- The split that waits for the result of an operation. -/
def View.reply (v : View) (d : Nat) : Nat × Nat × BitVec 8 × Nat × Nat :=
  (v.sel.core, v.sel.slot, v.core.ggenOf v.sel.slot, lowLane v.m, d)

/-- The handle's target and incarnation, as a message carries them. -/
def targetOf (h : W64) : Named → Option Nat × Byte
  | .task t => (some t, h.setWidth 8)
  | .gone | .bad => (none, h.setWidth 8)

/-- An operation sent by a split that waits for its result (R181, R183). -/
def sendAndWait (v : View) (d : Nat) (h : W64) (n : Named) (k : MsgKind) (s : State) : Act :=
  let t := targetOf h n
  .placed (((s.send ⟨k, t.1, t.2, some v.tid, some (v.reply d), none,
    opKey v.sel.core v.sel.slot (lowLane v.m)⟩).modTask v.tid
    (fun x => { x with awaiting := x.awaiting + 1 })).onGroup v.sel (fun g => g.parkLane (lowLane v.m) (.wellspring d)))

/-- GRANT after its debit (R181): a target that is not a proper descendant traps. -/
def grantBody (d a b : Nat) (v : View) (s : State) : Act :=
  let h := v.rs a
  match namedBy s v.task.ctx v.task.asid h with
  | .bad => .trap 6 h
  | .task t =>
    if descends s v.tid 64 t then sendAndWait v d h (.task t) (.grant (v.rs b).toNat) s else .trap 6 h
  | .gone => sendAndWait v d h .gone (.grant (v.rs b).toNat) s

/-- GRANT (R181). -/
def execGrant (d a b : Nat) (s : State) : Result := issue (.grant d a b) (grantBody d a b) s

/-- CANCEL after its debit (R183). -/
def cancelBody (d a : Nat) (v : View) (s : State) : Act :=
  let h := v.rs a
  match namedBy s v.task.ctx v.task.asid h with
  | .bad => .trap 6 h
  | .task t => if descends s v.tid 64 t then sendAndWait v d h (.task t) .cancel s else .trap 6 h
  | .gone => sendAndWait v d h .gone .cancel s

/-- CANCEL (R183). -/
def execCancel (d a : Nat) (s : State) : Result := issue (.cancel d a) (cancelBody d a) s

/-- SIGNAL after its debit (R180, R245): the core's stores are performed first, for its release. -/
def signalBody (a : Nat) (v : View) (s : State) : Act :=
  let h := v.rs a
  let s0 := s.drainStores v.sel.core
  match namedBy s v.task.ctx v.task.asid h with
  | .bad => .trap 6 h
  | .gone => .next s0
  | .task t => .next (s0.send ⟨.signal, some t, h.setWidth 8, some v.tid, none, none,
    opKey v.sel.core v.sel.slot (lowLane v.m)⟩)

/-- SIGNAL (R180). -/
def execSignal (a : Nat) (s : State) : Result := issue (.signal a) (signalBody a) s

/-! Residency and readiness (R166, R173, R174). -/

/-- Whether a task takes one of the 64 resident places (R173). -/
def Task.holdsPlace (t : Task) : Bool :=
  match t.state with
  | .running | .starved | .draining | .unwinding => true
  | .ready => t.resident
  | .free | .armed | .done | .preempted => false

/-- The resident tasks of a core's Wellspring (R173). -/
def residents (s : State) (c : Nat) : Nat :=
  (s.tasks.filter (fun e => decide (e.2.place = c) && e.2.holdsPlace)).length

/-- The READY tasks of a core that wait in the pool for a place (R173). -/
def waitingTasks (s : State) (c : Nat) : List (Nat × Task) :=
  s.tasks.filter (fun e => decide (e.2.place = c) && decide (e.2.state = .ready) && !e.2.resident)

/-- A task as it becomes READY: its release time is the owning core's cycle, and it is resident at once where a place is
free and none waits for it (R173, R174). -/
def State.readied (s : State) (t : Task) : Task :=
  { t with
    state := .ready
    release := s.cyc t.place
    resident := decide (residents s t.place < Config.residentTasks) && decide (waitingTasks s t.place = []) }

/-- A resident task that becomes READY again: its own place counts as free (R173, R284). -/
def State.readiedAgain (s : State) (tid : Nat) (t : Task) : Task :=
  ({ s with tasks := Table.erase s.tasks tid } : State).readied t

/-- The earlier of two tasks in order of release, then of TCB address (R174). Two roots of different ASIDs may be equal in
both; of those the first in the task table goes first (DESIGN CHOICE, log entry 3). -/
def earlier (a b : Nat × Task) : Bool :=
  decide (a.2.release < b.2.release) || (decide (a.2.release = b.2.release) && decide (a.2.va < b.2.va))

/-- The first of a list of tasks in an order. -/
def firstBy (lt : Nat × Task → Nat × Task → Bool) : List (Nat × Task) → Option (Nat × Task)
  | [] => none
  | x :: xs => match firstBy lt xs with
    | some y => some (if lt y x then y else x)
    | none => some x

/-- Whether a task is a sweep TCB, which runs no code (R191). -/
def Task.isSweep (t : Task) : Bool := t.sweep.isSome && !t.swcrew

/-- A task that has a resident place starts to wait for its children, if it is a sweep TCB: it has no crew to start (R191, log
entry 35). -/
def State.startSweep (tid : Nat) (s : State) : State :=
  match Table.get? s.tasks tid with
  | some t => if t.isSweep && t.resident && decide (t.state = .ready) then s.taskOp tid (fun x => { x with state := .draining })
      else s
  | none => s

/-- TASK_RESIDENT: the waiting task of earliest release takes a free place (R173). -/
def taskResident (c : Nat) (s : State) : Option State :=
  if residents s c < Config.residentTasks then
    match firstBy earlier (waitingTasks s c) with
    | some e => some ((s.modTask e.1 (fun t => { t with resident := true })).startSweep e.1)
    | none => none
  else none

/-- TASK_RESIDENT (R173). -/
def execTaskResident (core : Nat) (s : State) : Result := event (taskResident core s)

/-- The tasks in the ready queues of a core: resident READY ones, and PREEMPTED ones (R174). -/
def queued (s : State) (c : Nat) : List (Nat × Task) :=
  s.tasks.filter (fun e => decide (e.2.place = c) &&
    ((decide (e.2.state = .ready) && e.2.resident) || decide (e.2.state = .preempted)))

/-- The head of the highest non-empty queue (R175). -/
def queueHead (s : State) (c : Nat) : Option (Nat × Task) :=
  firstBy (fun a b => decide (b.2.prio < a.2.prio) || (decide (a.2.prio = b.2.prio) && earlier a b)) (queued s c)

/-! Templates and creation (R165, R168 to R171, R178). -/

/-- A field of a template, little-endian. -/
def tfield (b : List Byte) (o n : Nat) : Nat := leNat ((b.drop o).take n)

/-- The checks of R170 on the fields of a template. -/
def templateGood (b : List Byte) : Bool :=
  let w := tfield b 4 4
  let groups := w % 16 + 1
  let tiles := w / 16 % 16
  let accs := w / 256 % 16
  let place := w / 65536 % 2048
  let entry := tfield b 16 8
  decide (groups * tiles ≤ 64) && decide (tiles ≤ 8) && decide (accs ≤ 8) &&
  (upto 16).all (fun k => decide (tfield b (0x48 + k) 1 % 16 ≤ 8)) &&
  (decide (place < Config.cores) || decide (place = 0x7FF)) && decide (entry % 4 = 0) && decide (entry < 2 ^ 56)

/-- The channels a template names (R137, R165): byte c gives depth, producer and consumer stage. -/
def templateChans (b : List Byte) : Table Chan :=
  (upto 16).filterMap (fun k =>
    let x := tfield b (0x48 + k) 1
    if x % 16 = 0 then none else some (k, ⟨x % 16, x / 16 % 4, x / 64, [], 0, 0, [], []⟩))

/-- A task as a template describes it, before its creator fills in the rest (R165). -/
def taskOfTemplate (b : List Byte) (va : Nat) : Task where
  va := va
  isRoot := false
  ctx := 0
  asid := 0
  state := .armed
  prio := tfield b 0 1 / 16 % 8
  park := (tfield b 0 1).testBit 7
  restart := (tfield b 1 1).testBit 0
  swcrew := false
  spt := (tfield b 1 1).testBit 2
  depth := 0
  groups := tfield b 4 1 % 16
  tiles := tfield b 4 1 / 16
  accs := tfield b 5 1 % 16
  egran := tfield b 5 1 / 16
  placeField := tfield b 6 2 % 2048
  place := tfield b 6 2 % 2048
  stages := BitVec.ofNat 32 (tfield b 8 4)
  dep := tfield b 12 4
  entry := BitVec.ofNat 64 (tfield b 16 8 % 2 ^ 56)
  parent := none
  parentHandle := 0
  alw := 0
  rsv := 0
  pend := 0
  jstat := 0
  seq := 0
  inc := 0
  kids := 0
  consumed := 0
  chanBytes := (b.drop 0x48).take 16
  xpc := 0
  xcause := 0
  xstat := 0
  xval := 0
  pnnt := 0
  release := 0
  resident := false
  chans := []
  chanGrans := []
  awaiting := 0
  request := none
  saving := none
  saved := []
  sum := 0
  stopped := false
  unwinder := none
  restarting := false
  launch := none
  sweep := none
  tilerecs := []
  nextTile := 0
  written := 0

/-- The pool slots that hold a task, as slot numbers in rising order (R168). -/
def usedSlots (s : State) : List Nat :=
  s.tasks.foldl (fun l e => if e.2.isRoot then l else Table.insertNat l ((e.2.va - Config.poolBase) / 256)) []

/-- The p-th free slot, given the used ones in rising order. -/
def nthFree (used : List Nat) (p : Nat) : Nat := used.foldl (fun q u => if u ≤ q then q + 1 else q) p

/-- A FREE slot of the pool for a context: its address, or none where the pool or the context's quota is used up; which
one is a free choice (R168, log entry 8). -/
def State.poolSlot (s : State) (ctx : Nat) : Option Nat :=
  let used := usedSlots s
  let held := (s.tasks.filter (fun e => !e.2.isRoot && decide (e.2.ctx = ctx))).length
  let quota := match Table.get? s.hub.ctxs ctx with
    | some x => x.quota
    | none => 0
  let room := Config.poolSlots - used.length
  if room = 0 || decide (quota ≤ held) then none
  else some (Config.poolBase + 256 * nthFree used (Config.poolPick s.fresh room % room))

/-- A task's TCB written whole: its fields and its argument block (R165). -/
def State.writeTcb (s : State) (key : Nat) (t : Task) (args : List Byte) : State :=
  let s1 := s.storeTask key t
  match tcbPhys s1 t with
  | some pa => s1.putBytes (pa + 128) args
  | none => s1

/-- A task created (R166, R178): ARMED or READY. -/
def State.create (s : State) (key : Nat) (t : Task) (args : List Byte) : State :=
  s.writeTcb key (if t.dep = 0 then s.readied t else { t with state := .armed }) args

/-- The bytes of a template, each with its poison, as a split of the context reads them (R169, R247, R354). -/
def templateBytes (s : State) (w : Who) (reader : Reader) (va : Nat) : List (Byte × Bool) :=
  (upto 256).map (fun k => match physOf s w.ctx w.asid (va + k) Need.load with
    | some pa => taskRead s w.ctx reader pa
    | none => (0, false))

/-- The live children of a task counted anew, and its TCB written back (R165, R178). -/
def State.modKids (s : State) (tid : Nat) (f : Nat → Nat) : State :=
  match Table.get? s.tasks tid with
  | some t => s.storeTask tid { t with kids := f t.kids }
  | none => s

/-- What SPAWN comes to when its template is read. -/
inductive Spawned where
  /-- protection (6), or a template with poison (2), at the template's address -/
  | trap (cause : Nat)
  | absent (vas : List Nat)
  /-- its result: a handle or a status -/
  | answer (s : State) (x : W64)

/-- SPAWN from its template on, whose reads are accesses of the split (R170, R171, R178, R247, R281, R311): `paid` is what the debit took beyond the 8 units. R169 asks for a
template address that is a multiple of 256, and R170 lists no trap for another: the model reads the 256 bytes there
(DESIGN CHOICE, log entry 56). -/
def spawnTask (s : State) (c : Nat) (w : Who) (frame : Nat) (va amt : W64) (paid : Nat) : Spawned :=
  let s1 := s.drainStores c
  let s0 := s1.crossed c w.ctx ((upto 4).filterMap (fun k => physOf s1 w.ctx w.asid (va.toNat + 64 * k) Need.load))
  match Table.get? s0.tasks w.task with
  | none => .trap 6
  | some me =>
    if (rangeBad s0 w.ctx w.asid w.task Need.load va.toNat 256).isSome then .trap 6
    else
      let gone := rangeAbsent s0 w.ctx w.asid Need.load 6 va.toNat (va.toNat + 256)
      if gone ≠ [] then .absent (lowestPerPage s0 w.asid gone)
      else
        let read := templateBytes s0 w (some (c, w.slot, frame)) va.toNat
        let b := read.map Prod.fst
        let lmax := match Table.get? s0.hub.ctxs w.ctx with
          | some x => x.lmax
          | none => 0
        let refund := s0.modTask w.task (fun t => t.credit paid)
        if !(templateGood b) then .trap 6
        else if read.any Prod.snd then .trap 2
        else if lmax < me.depth + 1 then .answer refund 3
        else match s0.poolSlot w.ctx with
          | none => .answer refund 2
          | some slot =>
            let t := taskOfTemplate b slot
            let alw := if me.alw = Config.unmetered && decide (amt.toNat = Config.unmetered) then Config.unmetered
              else min amt.toNat Config.maxMetered
            let child := { t with
              ctx := w.ctx
              asid := w.asid
              place := if t.place = 0x7FF then c else t.place
              parent := some w.task
              parentHandle := me.handle
              depth := me.depth + 1
              inc := Table.getD s0.incs slot 0
              alw := alw
              pnnt := w.pennants.headD 0 }
            let s2 := ({ s0 with fresh := s0.fresh + 1 }).create slot child (b.drop 128)
            .answer (s2.modKids w.task (fun n => n + 1)) child.handle

/-- The amount of a SPAWN: s(b), or, once its debit is made, the amount that it took (R34, R178). -/
def spawnAmount (v : View) (b : Nat) : W64 :=
  match v.split.paid with
  | none => v.rs b
  | some p =>
    if v.task.alw = Config.unmetered && decide (p = 8) && decide ((v.rs b).toNat = Config.unmetered) then v.rs b
    else BitVec.ofNat 64 (p - 8)

/-- SPAWN as an access that waits for its template and is presented again (R170). -/
def spawnAccess (v : View) (i : Instr) (va amt : W64) : Access :=
  ⟨i, 256, [⟨lowLane v.m, va, amt, 0⟩], v.fr, v.core.sgenOf v.fr, v.debited i⟩

/-- SPAWN after its debit (R178). -/
def spawnBody (d a b : Nat) (v : View) (s : State) : Act :=
  let s0 := s.signal v.sel.core v.task.ctx 43
  match spawnTask s0 v.sel.core v.who v.fr (v.rs a) (spawnAmount v b) (v.debited (.spawn d a b) - 8) with
  | .trap cause => .trap cause (v.rs a)
  | .absent vas => .placed (parkOnFaults s0 v.sel.core v.sel.slot (lowLane v.m) v.who
      (spawnAccess v (.spawn d a b) (v.rs a) (spawnAmount v b)) vas)
  | .answer s1 x => .next (s1.onGroup v.sel (fun g => g.writeS v.fr d x))

/-- SPAWN (R178). -/
def execSpawn (d a b : Nat) (s : State) : Result := issue (.spawn d a b) (spawnBody d a b) s

/-! JOIN, DONE, YIELD, TAKE. -/

/-- JOIN's one operation: pend credited, pend and jstat cleared (R185). -/
def Task.collect (t : Task) : Task := { t.credit t.pend with pend := 0, jstat := 0 }

/-- JOIN after its debit (R185). -/
def joinBody (d : Nat) (v : View) (s : State) : Act :=
  let s0 := s.signal v.sel.core v.task.ctx 44
  if v.task.kids = 0 then
    .next ((s0.taskOp v.tid Task.collect).onGroup v.sel (fun g => g.writeS v.fr d (BitVec.ofNat 64 v.task.jstat)))
  else .placed (s0.onGroup v.sel (fun g => g.parkLane (lowLane v.m) (.join d (s.cyc v.sel.core))))

/-- JOIN (R185). -/
def execJoin (d : Nat) (s : State) : Result := issue (.join d) (joinBody d) s

/-- The place of a waiting JOIN among those of its crew: its cycle, side and lowest lane (R172, R185). -/
def joinKey (slot : Nat) (sp : Split) : Option Nat :=
  match sp.wait with
  | .join _ arrived => some ((arrived * 2 + slot % 2) * 32 + lowLane sp.mask)
  | _ => none

/-- The places of a task's waiting JOINs. -/
def joinKeys (s : State) (tid : Nat) : List Nat :=
  (crewOf s tid).flatMap (fun e => e.2.entries.filterMap (joinKey e.1))

/-- JOIN_COMPLETE: a parked JOIN finds kids = 0, the first in order among those of its crew (R172, R185). One that parked
before its task became STARVED completes all the same: the spec does not say which (DESIGN CHOICE, log entry 56). -/
def joinComplete (c slot n : Nat) (s : State) : Option State :=
  match s.group? c slot with
  | none => none
  | some g => match g.entries[n]?, Table.get? s.tasks g.task with
    | some sp, some t => match sp.wait with
      | .join d _ =>
        if t.kids = 0 && t.saving.isNone && (joinKeys s g.task).all (fun k => decide ((joinKey slot sp).getD 0 ≤ k)) then
          some (answerSplit (s.taskOp g.task Task.collect) c slot (lowLane sp.mask) d (BitVec.ofNat 64 t.jstat))
        else none
      | _ => none
    | _, _ => none

/-- JOIN_COMPLETE (R185). -/
def execJoinComplete (core slot entry : Nat) (s : State) : Result := event (joinComplete core slot entry s)

/-- A split's entry leaves its group: the frames that lose their last claim are freed, and what now waits for no one merges
(R110, R115, R119, R127). -/
def State.exitSplit (s : State) (sel : Sel) : State :=
  match s.group? sel.core sel.slot with
  | none => s
  | some g =>
    let r := g.removeSplit sel.idx
    (((s.putGroup sel.core sel.slot r.1).modCore sel.core (fun k => r.2.foldl Core.bumpGen k)).syncArea
      sel.core sel.slot g).mergeMeets sel.core sel.slot 32

/-- DONE after its debit (R110, R184, R277): the split exits; with the last split its group ends, and with the last group
the task is DRAINING and its open tile closes (R307). -/
def doneBody (v : View) (s : State) : Act :=
  if v.lastSplit then
    let s1 := s.endGroup v.sel.core v.sel.slot
    .placed (if crewOf s1 v.tid = [] then s1.taskOp v.tid (fun t => { t with
        state := .draining, request := none, tilerecs := t.tilerecs.map (fun x => { x with closed := true }) })
      else s1)
  else .placed (s.exitSplit v.sel)

/-- DONE (R184). -/
def execDone (s : State) : Result := issue .done doneBody s

/-- YIELD after its debit (R190): with a queued task of no lower priority, a pre-emption request stands and the split has
stopped after the YIELD. -/
def yieldBody (v : View) (s : State) : Act :=
  if (queued s v.task.place).any (fun e => decide (v.task.prio ≤ e.2.prio)) then
    .next ((s.modTask v.tid (fun t => { t with
      request := if t.request.isSome then t.request else some (s.cyc v.sel.core) })).onSplit v.sel
        (fun sp => { sp with stop := .yield }))
  else .next s

/-- YIELD (R190). -/
def execYield (s : State) : Result := issue .yield yieldBody s

/-- What TAKE writes when the index space is exhausted (R193). -/
def noCoordinate : W64 := 0xFFFFFFFFFFFFFFFF

/-- The coordinate of a sweep at its counter (R192, R193). -/
def Sweep.coordinate (w : Sweep) : W64 :=
  BitVec.ofNat 64 (w.next % w.x + w.next / w.x % w.y * 2 ^ 16 + w.next / (w.x * w.y) * 2 ^ 32)

/-- Whether a sweep has coordinates left (R192). -/
def Sweep.more (w : Sweep) : Bool := decide (w.next < w.x * w.y * w.z)

/-- TAKE after its debit (R192, R193, R307): the crew's open tile closes, and a coordinate opens the next. -/
def takeBody (d : Nat) (v : View) (s : State) : Act :=
  let s0 := (s.signal v.sel.core v.task.ctx 45).modTask v.tid (fun t => { t with
    tilerecs := t.tilerecs.map (fun x => { x with closed := true }) })
  let write := fun (st : State) (x : W64) => st.onGroup v.sel (fun g => g.writeS v.fr d x)
  match (if v.task.swcrew then v.task.sweep else none) with
  | none => .next (write s0 noCoordinate)
  | some n => match Table.get? s.hub.sweeps n with
    | none => .next (write s0 noCoordinate)
    | some w =>
      if w.more then
        let tile : TileRec := ⟨v.task.nextTile, s.cyc v.sel.core, w.coordinate,
          (pennantTop v.group v.split.ptop 1).head?, List.replicate 7 none, 0, false, false⟩
        let s1 := (s0.modHub (fun h => { h with sweeps := Table.set h.sweeps n { w with next := w.next + 1 } })).modTask
          v.tid (fun t => { t with tilerecs := t.tilerecs ++ [tile], nextTile := t.nextTile + 1 })
        .next (write s1 w.coordinate)
      else .next (write s0 noCoordinate)

/-- TAKE (R193). -/
def execTake (d : Nat) (s : State) : Result := issue (.take d) (takeBody d) s

/-! The crew start (R111, R175). -/

/-- Numbers below `n` that a list does not hold, in rising order. -/
def freeBelow (used : List Nat) (n : Nat) : List Nat := (upto n).filter (fun k => !(used.contains k))

/-- The slots of a crew's groups: group g takes the lowest free slot of side g mod 2, else of the other (R111). -/
def pickSlots : List Nat → List Nat → Option (List Nat)
  | [], _ => some []
  | g :: gs, free =>
    match (free.find? (fun k => decide (k % 2 = g % 2))).orElse (fun _ => free.head?) with
    | none => none
    | some k => (pickSlots gs (free.filter (fun j => decide (j ≠ k)))).map (k :: ·)

/-- What a crew takes of a core (R175). -/
structure Allotment where
  slots   : List Nat
  grans   : List Nat
  scalars : List Nat
  tiles   : List Nat
  accs    : List Nat
  deriving DecidableEq, Repr

/-- The vector granules of a task's channels (R137). -/
def chanGranules (chans : Table Chan) : Nat := ceil8 (total (chans.map (fun e => e.2.depth)))

/-- Whether a core has a counter set for a context's crew (R310): only an open capture window needs one. -/
def setFits (s : State) (c ctx : Nat) : Bool :=
  match (Table.get? s.hub.ctxs ctx).bind Ctx.capture with
  | none => true
  | some _ => (Table.get? (s.core c).sets ctx).isSome || decide ((s.core c).sets.length < 4)

/-- The storage a core gives a crew that needs so much of each kind, if it has all of it (R175). A slot that a running task
keeps from a group that has ended is not free (R184). -/
def allot (s : State) (c : Nat) (gids : List Nat) (grans scalars tiles accs : Nat) : Option Allotment :=
  let k := s.core c
  let fg := freeBelow (usedGrans s c) Config.vectorGranules
  let fs := freeBelow (usedScalars s c) Config.scalarGranules
  let ft := freeBelow (k.groups.flatMap (fun e => e.2.tiles.map (fun t => t.2.elem))) Config.tiles
  let fa := freeBelow (k.groups.flatMap (fun e => e.2.accs.map (fun t => t.2.elem))) Config.accumulators
  match pickSlots gids (freeBelow (Table.keys k.groups ++ Table.keys k.kept) Config.slots) with
  | none => none
  | some sl =>
    if grans ≤ fg.length && decide (scalars ≤ fs.length) && decide (tiles ≤ ft.length) && decide (accs ≤ fa.length) then
      some ⟨sl, fg.take grans, fs.take scalars, ft.take tiles, fa.take accs⟩
    else none

/-- The root frame of a group at crew start, its mark generation 0 (R23, R27, R79). -/
def rootFrame (grans : List Nat) : Frame := ⟨grans, 0, none, 0, 0, [], []⟩

/-- The split of a group at crew start (R110, R302). -/
def firstSplit (entry : W64) (frame : Nat) : Split :=
  ⟨entry, BitVec.allOnes 32, 0, frame, .ready, 0, 0, 0, 0, 0, none, .none, false, none, .no, false⟩

/-- A group at crew start (R23, R24, R110). That it stands first in the rotation of R131, and a restored one where it stood, is a
DESIGN CHOICE (log entry 63). -/
def startGroup (tid : Nat) (t : Task) (g : Nat) (grans : List Nat) (scalar : Nat)
    (tiles accs : List Nat) : Group where
  task := tid
  gid := g
  stg := t.stages.toNat / 4 ^ g % 4
  s := [(1, ⟨BitVec.ofNat 64 (t.va + 128), false⟩)]
  v := []
  p := [(15, ⟨BitVec.allOnes 32, false⟩)]
  tiles := (upto tiles.length).zip (tiles.map (fun e => ⟨e, List.replicate 1536 0, 0⟩))
  accs := (upto accs.length).zip (accs.map (fun e => ⟨e, List.replicate 256 0, 0⟩))
  sat := false
  mfr := 0
  fcr := 0
  tvb := 0
  tca := 0
  tpc := 0
  tval := 0
  mb := 256
  dual := false
  stale := 0
  slip := 0
  frames := [(scalar, rootFrame grans)]
  out := false
  leaving := false
  stall := false
  due := false
  refillAt := 0
  splits := [firstSplit t.entry scalar]
  spilled := []
  head := 0
  opps := 0
  origins := []
  pennants := []
  handler := false
  mfaults := []
  halted := false
  haltReq := false
  lastIssue := 0

/-- A counter set with nothing counted and nothing defined (R310, R312). -/
def CtrSet.blank : CtrSet :=
  ⟨List.replicate 16 0, 0, List.replicate 16 0, List.replicate 16 0, List.replicate 7 0, List.replicate 8 0,
   List.replicate 16 0⟩

/-- The bytes of a context's memory at a virtual address, where it is resident; 0 elsewhere. -/
def ctxBytes (s : State) (ctx asid va n : Nat) : List Byte :=
  (upto n).map (fun k => match physOf s ctx asid (va + k) Need.load with
    | some pa => (physRead s none pa).1
    | none => 0)

/-- The cells of bytes at a virtual address of a context, where it is resident. -/
def ctxCells (s : State) (ctx asid va : Nat) (bs : List Byte) : List (Nat × Byte) :=
  ((upto bs.length).zip bs).filterMap (fun e => (physOf s ctx asid (va + e.1) Need.store).map (fun pa => (pa, e.2)))

/-- Bytes written at a virtual address of a context, where it is resident. -/
def ctxWrite (s : State) (ctx asid va : Nat) (bs : List Byte) : State := writeCells s (ctxCells s ctx asid va bs)

/-- The device's own write into a stamp buffer, whose fields are closed to every other (R11, R308, R309). -/
def stampWrite (s : State) (ctx asid va : Nat) (bs : List Byte) : State := writeRaw s (ctxCells s ctx asid va bs)

/-- A derived-event word, whose bits [47:34] are zero (R312). -/
def derivedWord (x : Nat) : W64 := BitVec.ofNat 64 x &&& 0xFFFF0003FFFFFFFF

/-- A counter set as its block of 512 bytes holds it (R312, R330). -/
def setOfBlock (b : List Byte) : CtrSet :=
  let f := fun o n => tfield b o n
  ⟨(upto 16).map (fun k => BitVec.ofNat 48 (f (8 * k) 8)), BitVec.ofNat 48 (f 0x80 8),
   (upto 16).map (fun k => derivedWord (f (0x100 + 8 * k) 8)), (upto 16).map (fun k => BitVec.ofNat 8 (f (0x88 + k) 1)),
   (upto 7).map (fun k => BitVec.ofNat 16 (f (0x98 + 2 * k) 2)), (upto 8).map (fun k => BitVec.ofNat 32 (f (0xA8 + 4 * k) 4)),
   List.replicate 16 0⟩

/-- The bytes a counter set takes in its block (R312, R330). -/
def blockOfSet (x : CtrSet) : List Byte :=
  x.counters.flatMap (fun c => leBytes 8 c.toNat) ++ leBytes 8 x.preempt.toNat ++ x.selects ++
  x.edges.flatMap (fun e => leBytes 2 e.toNat) ++ List.replicate 2 0 ++ x.matchIds.flatMap (fun m => leBytes 4 m.toNat) ++
  List.replicate 0x38 0 ++ x.derived.flatMap (fun d => leBytes 8 d.toNat)

/-- The open run of a histogram ended, as a write-back does (R312). -/
def CtrSet.closeRuns (x : CtrSet) : CtrSet :=
  match histogramWord x.derived with
  | some h => { endRun x (x.runs.getD h 0) with runs := List.replicate 16 0 }
  | none => { x with runs := List.replicate 16 0 }

/-- A context's ASID. -/
def State.asidOf (s : State) (ctx : Nat) : Nat :=
  match Table.get? s.hub.ctxs ctx with
  | some x => x.asid
  | none => 0

/-- A context takes a counter set of a core as its crew starts there, loaded from its block (R310, R313). -/
def State.loadSet (s : State) (c ctx : Nat) : State :=
  match (Table.get? s.hub.ctxs ctx).bind Ctx.capture with
  | none => s
  | some blocks =>
    if (Table.get? (s.core c).sets ctx).isSome then s
    else
      let x := setOfBlock (ctxBytes s ctx (s.asidOf ctx) (blocks + 512 * c) 512)
      let waited := match Table.get? (s.core c).offAt ctx with
        | some at' => s.cyc c - at'
        | none => 0
      s.modCore c (fun k => { k with
        sets := Table.set k.sets ctx { x with preempt := x.preempt + BitVec.ofNat 48 waited }
        offAt := Table.erase k.offAt ctx })

/-- A context's counter set on a core written back to its block (R310, R312). -/
def State.writeSet (s : State) (c ctx : Nat) : State :=
  match (Table.get? s.hub.ctxs ctx).bind Ctx.capture, Table.get? (s.core c).sets ctx with
  | some blocks, some x =>
    let y := x.closeRuns
    (ctxWrite s ctx (s.asidOf ctx) (blocks + 512 * c) (blockOfSet y)).modCore c (fun k => { k with
      lastCtr := Table.set k.lastCtr ctx y.counters })
  | _, _ => s

/-- Whether a context has a crew on a core. -/
def hasCrew (s : State) (c ctx : Nat) : Bool := (s.core c).groups.any (fun e => decide (s.ctxOf c e.1 = ctx))

/-- A set freed when its context's last crew has left the core; `preempted` records the cycle (R310, R313). -/
def State.releaseSet (s : State) (c ctx : Nat) (preempted : Bool) : State :=
  if hasCrew s c ctx || (Table.get? (s.core c).sets ctx).isNone then s
  else (s.writeSet c ctx).modCore c (fun k => { k with
    sets := Table.erase k.sets ctx
    offAt := if preempted then Table.set k.offAt ctx (s.cyc c) else k.offAt })

/-- The next counter set whose context has no crew on its core any more, written back and freed: its last crew has left by its
last DONE, or by an unwinding (R166, R184, R310). -/
def setTurn (s : State) : Option State :=
  s.cores.findSome? (fun e => (e.2.sets.find? (fun x => !(hasCrew s e.1 x.1))).map (fun x => s.releaseSet e.1 x.1 false))

/-- The groups of a crew put into their slots. -/
def placeGroups (c : Nat) : List (Nat × Group) → State → State
  | [], s => s
  | (slot, g) :: rest, s => placeGroups c rest ((s.putGroup c slot g).modCore c (fun k => { k with
      owners := (Table.keys g.frames).foldl (fun o fr => Table.set o fr (g.task, g.gid)) k.owners
      lastIn := Table.set k.lastIn slot (g.task, g.gid) }))

/-- CREW_START: the head of the highest queue starts when its whole crew fits (R111, R175, R274). -/
def crewStart (c : Nat) (s : State) : Option State :=
  match queueHead s c with
  | none => none
  | some (tid, t) =>
    let n := t.groups + 1
    let chans := templateChans (List.replicate 0x48 0 ++ t.chanBytes)
    let cg := chanGranules chans
    if t.state ≠ .ready || (s.core c).inReset || !(setFits s c t.ctx) then none
    else match allot s c (upto n) (n * t.egran + cg) n (n * t.tiles) (n * t.accs) with
      | none => none
      | some a =>
        let grp := fun (g : Nat) =>
          let sc := a.scalars.getD g 0
          startGroup tid t g ((a.grans.drop (g * t.egran)).take t.egran) sc
            ((a.tiles.drop (g * t.tiles)).take t.tiles) ((a.accs.drop (g * t.accs)).take t.accs)
        let s1 := placeGroups c ((upto n).map (fun g => (a.slots.getD g 0, grp g))) s
        let s2 := s1.storeTask tid { t with
          state := .running, chans := chans, chanGrans := (a.grans.drop (n * t.egran)).take cg }
        some (s2.loadSet c t.ctx)

/-- CREW_START (R175). -/
def execCrewStart (core : Nat) (s : State) : Result := event (crewStart core s)

/-! The end of a task. -/

/-- A task DONE with a remainder and a status: a pool task sends them to its parent, a root to its launch packet (R166,
R187), whose result holds a free value where the remainder does not fit (DESIGN CHOICE, log entry 19). A return has no issuing
split: its place among the operations of a cycle (R172) is that of side 0 and lane 0 of the child's core (DESIGN CHOICE, log
entry 71). -/
def State.deliver (s : State) (tid rem status : Nat) : State :=
  match Table.get? s.tasks tid with
  | none => s
  | some t =>
    let s1 := (s.taskOp tid (fun x => { x with
      state := .done, xstat := status, unwinder := none, stopped := false, request := none })).releaseSet t.place t.ctx false
    match t.parent with
    | some p => s1.send ⟨.ret rem status, some p, t.inc, some tid, none, none, opKey t.place 0 0⟩
    | none =>
      let s2 := match t.sweep with
        | some n => s1.modHub (fun h => { h with sweeps := Table.erase h.sweeps n })
        | none => s1
      match t.launch with
      | some op => s2.modHub (fun h => h.onOp op (fun o => o.answer status (fitUnits Config.unmetered rem)))
      | none => s2

/-- Whether a core holds an operation of a task still counted or in flight (R90, R184). -/
def Core.busyFor (k : Core) (tid : Nat) : Bool :=
  k.loads.any (fun o => decide (o.who.task = tid)) || k.stores.any (fun o => decide (o.who.task = tid)) ||
  k.copies.any (fun o => decide (o.who.task = tid)) || k.mats.any (fun o => decide (o.who.task = tid))

/-- DRAINING_COMPLETE: nothing is outstanding, and the remainder is delivered (R184). A sweep's TCB takes the status of
its crews (R191). -/
def drainingComplete (tid : Nat) (s : State) : Option State :=
  match Table.get? s.tasks tid with
  | none => none
  | some t =>
    if t.state ≠ .draining || t.kids ≠ 0 || t.rsv ≠ 0 || t.awaiting ≠ 0 || t.unwinder.isSome || t.tilerecs ≠ [] ||
       (s.core t.place).busyFor tid || !(s.inTurn t.place 0) then none
    else some ((s.noteTurn t.place 0).deliver tid (t.units + t.pend) (if t.isSweep then t.jstat else 0))

/-- DRAINING_COMPLETE (R184). -/
def execDrainingComplete (task : Nat) (s : State) : Result := event (drainingComplete task s)

/-- A parent after a child's return (R187). -/
def Task.receive (t : Task) (rem status : Nat) : Task :=
  { t with
    pend := fitUnits Config.unmetered (t.pend + rem)
    kids := t.kids - 1
    jstat := if t.jstat = 0 then status else t.jstat }

/-- Whether the core that owns a message's target is in service; while it is not, the message is held (R285). -/
def served (s : State) (m : Msg) : Bool :=
  match m.target.bind (Table.get? s.tasks) with
  | some t => !(s.core t.place).inReset
  | none => true

/-- The core whose Wellspring applies a message, where its task is still there (R172). -/
def Msg.owner (m : Msg) (s : State) : Option Nat := (m.target.bind (Table.get? s.tasks)).map Task.place

/-- Whether a message is in its turn: of those that a Wellspring takes in one cycle, none comes after one of a later place
(R172). -/
def Msg.inTurn (m : Msg) (s : State) : Bool :=
  match m.owner s with
  | some c => s.inTurn c m.key
  | none => true

/-- The n-th message, taken from its place. -/
def takeMsg (s : State) (n : Nat) : Option (Msg × State) :=
  match s.msgs[n]? with
  | none => none
  | some m =>
    let s1 : State := { s with msgs := dropAt s.msgs n }
    if served s m && m.inTurn s then
      some (m, match m.owner s with
        | some c => s1.noteTurn c m.key
        | none => s1)
    else none

/-- RETURN_DELIVERY: the remainder joins the parent's pend, and the child's slot is FREE (R166, R187). -/
def returnDelivery (n : Nat) (s : State) : Option State :=
  match takeMsg s n with
  | none => none
  | some (m, s0) => match m.kind, m.target, m.issuer with
    | .ret rem status, some p, some child => some ((s0.taskOp p (fun t => t.receive rem status)).freeSlot child)
    | _, _, _ => none

/-- RETURN_DELIVERY (R187). -/
def execReturnDelivery (msg : Nat) (s : State) : Result := event (returnDelivery msg s)

/-- Units that come back to a task: credited, or joined to the sum of its unwinding (R182); an unmetered task has counted
them as consumed and no longer does (R181). -/
def State.giveBack (s : State) (tid units : Nat) : State :=
  match Table.get? s.tasks tid with
  | none => s
  | some t =>
    if t.state = .unwinding then
      (s.modTask tid (fun x => if x.alw = Config.unmetered then x.credit units else x)).modTask (t.unwinder.getD tid)
        (fun r => { r with sum := r.sum + units })
    else s.modTask tid (fun x => x.credit units)

/-- The result of a GRANT or CANCEL given to the split or the packet that waits for it (R181, R183, R330). -/
def State.answerMsg (s : State) (m : Msg) (x : W64) (status : Nat) : State :=
  let s1 := match m.issuer with
    | some t => s.modTask t (fun y => { y with awaiting := y.awaiting - 1 })
    | none => s
  let s2 := match m.reply with
    | some (c, slot, gen, lane, d) =>
      if decide ((s1.core c).ggenOf slot = gen) && decide ((s1.group? c slot).map Group.task = m.issuer) then
        answerSplit s1 c slot lane d x
      else (s1.modTask (m.issuer.getD 0) (fun t => { t with saved := t.saved.map (fun y =>
        if y.slot = slot && decide (y.ggen = gen) then
          { y with group := match y.group.atLane lane with
              | some sp => (y.group.writeS sp.frame d x).resume lane
              | none => y.group }
        else y) })).storeImage (m.issuer.getD 0)
    | none => s1
  match m.packet with
  | some op => s2.modHub (fun h => h.onOp op (fun o => o.answer status 0))
  | none => s2

/-- A task that a GRANT reaches while STARVED resumes (R177). -/
def Task.accept (t : Task) (units : Nat) : Task :=
  { t with alw := t.alw + units, state := if t.state = .starved then .running else t.state }

/-- GRANT_APPLY (R181): accepted up to the largest metered allowance, or returned. -/
def grantApply (n : Nat) (s : State) : Option State :=
  match takeMsg s n with
  | none => none
  | some (m, s0) => match m.kind with
    | .grant amt =>
      let back := fun (st : State) (u : Nat) => match m.issuer with
        | some i => st.giveBack i u
        | none => st
      match m.target, stillNamed s0 m.target m.inc with
      | some tid, some t =>
        if t.state = .unwinding || t.state = .done || t.alw = Config.unmetered then
          some ((back (s0.taskOp tid id) amt).answerMsg m 1 1)
        else
          let put := min amt (Config.maxMetered - t.alw)
          some ((back (s0.taskOp tid (fun x => x.accept put)) (amt - put)).answerMsg m 0 0)
      | _, _ => some ((back s0 amt).answerMsg m 1 1)
    | _ => none

/-- GRANT_APPLY (R181). -/
def execGrantApply (msg : Nat) (s : State) : Result := event (grantApply msg s)

/-- SIGNAL_APPLY (R180). -/
def signalApply (n : Nat) (s : State) : Option State :=
  match takeMsg s n with
  | none => none
  | some (m, s0) => match m.kind with
    | .signal => match m.target, stillNamed s0 m.target m.inc with
      | some tid, some t =>
        if t.state = .armed then
          some (s0.taskOp tid (fun x => if x.dep = 1 then s0.readied { x with dep := 0 } else { x with dep := x.dep - 1 }))
        else some (s0.taskOp tid id)
      | _, _ => some s0
    | _ => none

/-- SIGNAL_APPLY (R180). -/
def execSignalApply (msg : Nat) (s : State) : Result := event (signalApply msg s)

/-- CANCEL_APPLY (R183): an ARMED or READY slot is freed and its units credited; a root that has not started ends; a
started task enters UNWINDING, and so does a sweep TCB that has no place yet but has crews (log entry 35). -/
def cancelApply (n : Nat) (s : State) : Option State :=
  match takeMsg s n with
  | none => none
  | some (m, s0) => match m.kind with
    | .cancel => match m.target, stillNamed s0 m.target m.inc with
      | some tid, some t => match t.state with
        | .armed | .ready =>
          if t.isSweep && decide (t.kids ≠ 0) then some ((s0.beginUnwind tid 7).answerMsg m 7 7)
          else if t.isRoot then some ((s0.deliver tid (t.units + t.pend) 7).answerMsg m 0 0)
          else
            let s1 := s0.freeSlot tid
            let s2 := match t.parent with
              | some p => s1.modKids p (fun n => n - 1)
              | none => s1
            let s3 := match m.issuer with
              | some i => s2.giveBack i t.units
              | none => s2
            some (s3.answerMsg m 0 0)
        | .running | .starved | .draining | .preempted => some ((s0.beginUnwind tid 7).answerMsg m 7 7)
        | .unwinding | .done | .free => some ((s0.taskOp tid id).answerMsg m 7 7)
      | _, _ => some (s0.answerMsg m 7 7)
    | _ => none

/-- CANCEL_APPLY (R183). -/
def execCancelApply (msg : Nat) (s : State) : Result := event (cancelApply msg s)

/-! Unwinding (R186, R189). -/

/-- UNWIND_ORDER: a stop order reaches a descendant, which stops, and orders the children it has created since; an unwinding
under way at one of them joins this one with what it has collected (R186, R189). -/
def unwindOrder (tid : Nat) (s : State) : Option State :=
  match Table.get? s.tasks tid with
  | none => none
  | some t => match t.unwinder with
    | none => none
    | some r =>
      if r = tid || t.stopped || decide (t.state = .done) || (s.core t.place).inReset || !(s.inTurn t.place 1) then none
      else some ((s.noteTurn t.place 1).stopOrdered r tid)

/-- UNWIND_ORDER (R189). -/
def execUnwindOrder (task : Nat) (s : State) : Result := event (unwindOrder task s)

/-- The tasks of an unwinding. -/
def membersOf (s : State) (root : Nat) : List (Nat × Task) := s.tasks.filter (fun e => decide (e.2.unwinder = some root))

/-- Whether every part of an unwinding has completed: all stopped, no group or cancelled copy left, no GRANT or CANCEL
awaited, no return on its way (R182, R189, R211). -/
def unwound (s : State) (root : Nat) : Bool :=
  (membersOf s root).all (fun e => e.2.stopped && decide (e.2.awaiting = 0) && decide (e.2.tilerecs = []) &&
    decide (crewOf s e.1 = []) &&
    !((s.core e.2.place).copies.any (fun o => decide (o.who.task = e.1))) &&
    !((s.core e.2.place).stores.any (fun o => decide (o.who.task = e.1))) &&
    !(s.msgs.any (fun m => match m.kind with
      | .ret _ _ => decide (m.target = some e.1)
      | .grant _ | .signal | .cancel => false)))

/-- UNWINDING_COMPLETE: the sum of R186 is delivered with the task's status; the slots of its descendants are freed. A
task that a core reset has unwound for a restart becomes READY with the sum in pend (R284). That pend of the task's own TCB is 0
afterwards is a DESIGN CHOICE (log entry 72). -/
def unwindingComplete (tid : Nat) (s : State) : Option State :=
  match Table.get? s.tasks tid with
  | none => none
  | some t =>
    if t.unwinder ≠ some tid || !(unwound s tid) || !(s.inTurn t.place 0) then none
    else
      let ms := membersOf s tid
      let below := ms.filter (fun e => decide (e.1 ≠ tid))
      let pends := total (below.map (fun e => e.2.pend))
      let s1 := below.foldl (fun st e => (st.freeSlot e.1).releaseSet e.2.place e.2.ctx false) (s.noteTurn t.place 0)
      if t.restarting then
        some (s1.taskOp tid (fun x => s1.readiedAgain tid { x with
          pend := (fitUnits Config.unmetered (x.pend + t.sum + pends)), kids := 0, jstat := (if t.kids = 0 then x.jstat else 5)
          unwinder := none, stopped := false, restarting := false, sum := 0, rsv := 0 }))
      else
        some ((s1.modTask tid (fun x => { x with kids := 0, rsv := 0, pend := 0 })).deliver tid (t.sum + t.pend + pends)
          t.xstat)

/-- UNWINDING_COMPLETE (R189). -/
def execUnwindingComplete (task : Nat) (s : State) : Result := event (unwindingComplete task s)

end Sys2Proof.Machine
end

