-- ==== Sys2Proof/Machine/System.lean ====
section
/-! DEFINITION. System and observation instructions: special registers (R24 to R26, R85, R86), TRAP and BRK (R87, R306),
ERET (R88), WAITC (R89), NOP, IPF (R91, R92), SAFE (R289), ENTER and LEAVE (R302 to R305, R315), RDCTR (R314), and an
illegal word (R52). -/

namespace Sys2Proof.Machine

/-- The value of a special register as the split reads it (R24, R26, R86). That in a shared cycle rsv holds the units of a copy
that a lower lane has issued in it is a DESIGN CHOICE (log entry 61). -/
def readSpecial (v : View) (s : State) (sr : Nat) : W64 :=
  let g := v.group
  let t := (Table.get? s.tasks v.tid).getD v.task
  match sr with
  | 0 => BitVec.ofNat 64 t.alw
  | 1 => BitVec.ofNat 64 t.rsv
  | 2 => BitVec.ofNat 64 (b2n g.sat)
  | 3 => g.mfr.setWidth 64
  | 4 => g.fcr.setWidth 64
  | 5 => g.tvb
  | 6 => g.tca.setWidth 64
  | 7 => g.tpc
  | 8 => g.tval
  | 9 => BitVec.ofNat 64 (s.cyc v.sel.core)
  | 10 => BitVec.ofNat 64 t.va
  | 11 => BitVec.ofNat 64 g.gid
  | 12 => BitVec.ofNat 64 v.sel.core
  | 13 => BitVec.ofNat 64 g.stg
  | 14 => g.mb.setWidth 64
  | 15 => BitVec.ofNat 64 (b2n g.dual)
  | 16 => g.stale.setWidth 64
  | 17 => g.slip.setWidth 64
  | _ => 0

/-- A special register written, by its access (R11, R24, R85, R86): a write to a read-only one changes nothing. -/
def Group.writeSpecial (g : Group) (sr : Nat) (x : W64) : Group :=
  match sr with
  | 2 => { g with sat := g.sat && !x.getLsbD 0 }
  | 3 => { g with mfr := x.setWidth 16 }
  | 4 => { g with fcr := x.setWidth 2 }
  | 5 => { g with tvb := x &&& 0xFFFFFFFFFFFF00 }
  | 7 => { g with tpc := pcField x }
  | 8 => { g with tval := x }
  | 14 => { g with mb := x.setWidth 16 }
  | 15 => { g with dual := x.getLsbD 0 }
  | 16 => { g with stale := x.setWidth 32 }
  | 17 => { g with slip := x.setWidth 32 }
  | _ => g

/-- MFS after its debit (R85). -/
def mfsBody (d sr : Nat) (v : View) (s : State) : Act :=
  .next (s.onGroup v.sel (fun g => g.writeS v.fr d (readSpecial v s sr)))

/-- MFS (R85). -/
def execMfs (d sr : Nat) (s : State) : Result := issue (.mfs d sr) (mfsBody d sr) s

/-- MTS after its debit (R85, R86). -/
def mtsBody (sr a : Nat) (v : View) (s : State) : Act := .next (s.onGroup v.sel (fun g => g.writeSpecial sr (v.rs a)))

/-- MTS (R85). -/
def execMts (sr a : Nat) (s : State) : Result := issue (.mts sr a) (mtsBody sr a) s

/-- TRAP: it executes and then raises cause 11 (R87). -/
def execTrap (code : BitVec 25) (s : State) : Result :=
  issue (.trap code) (fun _ _ => .trapAfter 11 (wordOf (.trap code))) s

/-- BRK: it executes and then raises cause 10 (R306). -/
def execBrk (code : BitVec 25) (s : State) : Result :=
  issue (.brk code) (fun _ _ => .trapAfter 10 (wordOf (.brk code))) s

/-- ERET after its debit (R88, R277): merges that the end of handler mode completes take place. -/
def eretBody (v : View) (s : State) : Act :=
  .placed ((s.onGroup v.sel (fun g => g.returnFromTrap v.sel.idx v.group.tpc)).mergeMeets v.sel.core v.sel.slot 32)

/-- ERET (R88). -/
def execEret (s : State) : Result := issue .eret eretBody s

/-- Whether a group's counters are within the limits of a WAITC (R89). -/
def withinLimits (k : Core) (slot : Nat) (g : Group) (l st cp mx : Nat) : Bool :=
  let n := groupCounters k slot g
  decide (n.1 ≤ l) && decide (n.2.1 ≤ st) && decide (n.2.2.1 ≤ cp) && decide (n.2.2.2 ≤ mx)

/-- WAITC after its debit (R89). That in a shared cycle it counts the stores of lower lanes but not their loads, copies and
matrix operations is a DESIGN CHOICE (log entry 62). -/
def waitcBody (l st cp mx : Nat) (v : View) (s : State) : Act :=
  if withinLimits v.core v.sel.slot v.group l st cp mx then .next s
  else .placed (s.onSplit v.sel (fun sp => { sp with state := .waitc, wait := .waitc l st cp mx }))

/-- WAITC (R89). -/
def execWaitc (loads stores copies matrix : Nat) (s : State) : Result :=
  issue (.waitc loads stores copies matrix) (waitcBody loads stores copies matrix) s

/-- WAITC_RESUME: every counter is within its limit (R89). -/
def waitcResume (c slot n : Nat) (s : State) : Option State :=
  match s.group? c slot with
  | none => none
  | some g => match g.entries[n]? with
    | none => none
    | some sp => match sp.wait with
      | .waitc l st cp mx =>
        if withinLimits (s.core c) slot g l st cp mx then some (s.putGroup c slot (g.resume (lowLane sp.mask))) else none
      | _ => none

/-- WAITC_RESUME (R89). -/
def execWaitcResume (core slot entry : Nat) (s : State) : Result := event (waitcResume core slot entry s)

/-- NOP (R91). -/
def execNop (s : State) : Result := issue .nop (fun _ st => .next st) s

/-- Whether an address lies in the Mere alias or the Helas alias (R199, R320). -/
def inAlias (va : Nat) : Bool := decide (Config.mereAlias ≤ va) && decide (va < Config.helasAlias + 2 ^ 47)

/-- The page that instructions at an address are fetched from, by ASID: none where it is unmapped or out of range, or in an
alias, which holds no instructions (R40, R199, R320; of the Mere alias DEDUCED, log entry 48). -/
def codePage (s : State) (asid va : Nat) : Option Page :=
  if va < 2 ^ 56 && !(inAlias va) then findPage s asid va else none

/-- Whether a block is in a core's instruction cache or on its way. -/
def Core.hasLine (k : Core) (asid block : Nat) : Bool :=
  k.ilines.any (fun l => decide (l.asid = asid) && decide (l.block = block)) || k.fills.contains (asid, block)

/-- A block requested for a core's instruction cache (R92, R130). -/
def State.requestLine (s : State) (c asid block : Nat) : State :=
  if (s.core c).hasLine asid block then s else s.modCore c (fun k => { k with fills := k.fills ++ [(asid, block)] })

/-- IPF after its debit: a block of a resident executable page is requested (R92). -/
def ipfBody (off : BitVec 18) (v : View) (s : State) : Act :=
  let va := (wordTarget v.split.pc off).toNat
  match codePage s v.task.asid va with
  | some p => .next (if p.x && p.res then s.requestLine v.sel.core v.task.asid (va / 256) else s)
  | none => .next s

/-- IPF (R92). -/
def execIpf (off : BitVec 18) (s : State) : Result := issue (.ipf off) (ipfBody off) s

/-- SAFE after its debit: with a pre-emption request standing, the split has stopped after it (R289, R292). -/
def safeBody (code : BitVec 25) (v : View) (s : State) : Act :=
  .next (if v.task.request.isSome then s.onSplit v.sel (fun sp => { sp with stop := .safe code.toNat }) else s)

/-- SAFE (R289). -/
def execSafe (code : BitVec 25) (s : State) : Result := issue (.safe code) (safeBody code) s

/-! Pennants and debug stops. -/

/-- Four pennants as two dwords of a record (R325). -/
def pennantDwords (l : List (BitVec 24)) : List W64 :=
  let e := fun k => (l.getD k 0).toNat
  [BitVec.ofNat 64 (e 0 + e 1 * 2 ^ 32), BitVec.ofNat 64 (e 2 + e 3 * 2 ^ 32)]

/-- The event of kind 7 of a halted group (R305, R315, R325). -/
def haltEvent (sel : Sel) (ctx : Nat) (t : Task) (g : Group) (sp : Split) (pc : W64) (cyc reason : Nat) : Event :=
  let top := pennantTop g sp.ptop 4
  ⟨7, [BitVec.ofNat 64 (ctx + sel.core * 2 ^ 32 + sel.slot * 2 ^ 48 + top.length * 2 ^ 56), t.handle, pc,
    BitVec.ofNat 64 (sp.mask.toNat + lowLane sp.mask * 2 ^ 32 + reason * 2 ^ 40)] ++ pennantDwords top ++
    [BitVec.ofNat 64 cyc]⟩

/-- An event kept for the ring (R325). -/
def Hub.addEvent (h : Hub) (e : Event) : Hub := { h with events := h.events ++ [e] }

/-- The debug stop check after an ENTER or LEAVE of a region (R304, R315): a stop that matches, or a halt that stands,
halts the group and writes a halt record. Rights that are withdrawn stand until the boundary of R317. -/
def stopCheck (v : View) (region : BitVec 24) (entering : Bool) (s : State) : State :=
  match Table.get? s.hub.ctxs v.task.ctx, s.group? v.sel.core v.sel.slot with
  | some x, some g =>
    let matched := x.stops.any (fun p => decide (p.region = region) && (if entering then p.onEnter else p.onLeave))
    if (x.debug || x.revoked) && (matched || g.haltReq) then
      match g.splits[v.sel.idx]? with
      | some sp =>
        let reason := if matched then (if entering then 0 else 1) else 2
        (s.onGroup v.sel (fun y => { y with halted := true, haltReq := false })).modHub (fun h =>
          h.addEvent (haltEvent v.sel v.task.ctx v.task g sp (v.split.pc + 4) (s.cyc v.sel.core) reason))
      | none => s
    else s
  | _, _ => s

/-- An entry that leaves the core for the pennant spill area of its group (R303): entry i at 4 × i. -/
def State.storePennant (s : State) (c slot i : Nat) (x : BitVec 24) : State :=
  s.putBytes (areaPhys (pennantAreaOf c slot) + 4 * i) (leBytes 4 x.toNat)

/-- The entries of a pennant stack that the core holds itself (R303). -/
def pennantPlaces : Nat := 16

/-- A pushed entry (R302, R304). In a cycle that several splits share, the entry of the lowest lane stays (R61, R305). -/
def pushPennant (region : BitVec 24) (v : View) (s : State) : State :=
  let kept := match s.together with
    | some x => x.entries.contains v.split.ptop
    | none => false
  s.onGroup v.sel (fun g => { g with
    pennants := if kept then g.pennants else Table.set g.pennants v.split.ptop region
    splits := changeAt g.splits v.sel.idx (fun sp => { sp with ptop := v.split.ptop + 1 }) })

/-- ENTER after its debit (R302, R304): a seventeenth entry sends the lowest of the sixteen to the spill area (R303). -/
def enterBody (region : BitVec 24) (v : View) (s : State) : Act :=
  if v.split.ptop = 256 then .trap 13 (wordOf (.enter region))
  else if v.split.ptop < pennantPlaces then .next (stopCheck v region true (pushPennant region v s))
  else
    let low := v.split.ptop - pennantPlaces
    withArea v (pennantAreaOf v.sel.core v.sel.slot) (4 * low) 4 1 (fun st => .next (stopCheck v region true (pushPennant region v
      (st.storePennant v.sel.core v.sel.slot low (Table.getD v.group.pennants low 0))))) s

/-- ENTER (R304). -/
def execEnter (region : BitVec 24) (s : State) : Result := issue (.enter region) (enterBody region) s

/-- LEAVE after its debit (R302, R304): an entry that the spill area keeps comes back (R303). -/
def leaveBody (v : View) (s : State) : Act :=
  let region := Table.getD v.group.pennants (v.split.ptop - 1) 0
  let leave := fun (st : State) =>
    Act.next (stopCheck v region false (st.onSplit v.sel (fun sp => { sp with ptop := v.split.ptop - 1 })))
  if v.split.ptop = 0 then .trap 13 (wordOf .leave)
  else if v.split.ptop ≤ pennantPlaces then leave s
  else withArea v (pennantAreaOf v.sel.core v.sel.slot) (4 * (v.split.ptop - 1 - pennantPlaces)) 4 1 leave s

/-- LEAVE (R304). -/
def execLeave (s : State) : Result := issue .leave leaveBody s

/-- The value of a counter as RDCTR reads it: of the loaded set while the window is open, else as last written back
(R314). -/
def counterValue (s : State) (c ctx ctr : Nat) : W64 :=
  let window := ((Table.get? s.hub.ctxs ctx).bind Ctx.capture).isSome
  match (if window then Table.get? (s.core c).sets ctx else none) with
  | some x => (x.counters.getD ctr 0).setWidth 64
  | none => ((Table.getD (s.core c).lastCtr ctx []).getD ctr 0).setWidth 64

/-- RDCTR after its debit (R314). -/
def rdctrBody (d ctr : Nat) (v : View) (s : State) : Act :=
  .next (s.onGroup v.sel (fun g => g.writeS v.fr d (counterValue s v.sel.core v.task.ctx ctr)))

/-- RDCTR (R314). -/
def execRdctr (d ctr : Nat) (s : State) : Result := issue (.rdctr d ctr) (rdctrBody d ctr) s

/-- ILLEGAL_INSTRUCTION: a word that decodes to no instruction takes cause 0, with nothing debited (R52). -/
def execIllegalInstruction (word : W32) (s : State) : Result :=
  match s.view? with
  | none => .fault .noSplit
  | some v =>
    if (decodeWord word.toNat).isSome then .fault .notEnabled
    else .next (takeTrap v.sel 0 (word.setWidth 64) s).endCycle

end Sys2Proof.Machine
end

