-- ==== Sys2Proof/Machine/Save.lean ====
section
/-! DEFINITION. Groups that leave the register file and come back: the escape spill engine (R286 to R288), safe points and
pre-emption (R289 to R296), and the restore (R129, R297). -/

namespace Sys2Proof.Machine

/-! Moving a group's frames to other storage (R129). -/

/-- Where each frame of a group goes: old scalar granule, new one, its generation, and its vector granules. -/
structure Move where
  old   : Nat
  fresh : Nat
  gen   : BitVec 8
  grans : List Nat
  deriving DecidableEq, Repr

/-- The move of a frame. -/
def moveOf (ms : List Move) (fr : Nat) : Option Move := ms.find? (fun m => decide (m.old = fr))

/-- A frame number after a move. -/
def movedTo (ms : List Move) (fr : Nat) : Nat := ((moveOf ms fr).map Move.fresh).getD fr

/-- Assignments for frames in the order of the frame list: their own counts of the given granules (R297). -/
def planMoves (k : Core) : List (Nat × Frame) → List Nat → List Nat → List Move
  | [], _, _ => []
  | e :: es, scalars, grans =>
    let n := e.2.grans.length
    let sc := scalars.headD 0
    ⟨e.1, sc, k.sgenOf sc, grans.take n⟩ :: planMoves k es scalars.tail (grans.drop n)

/-- A wait with its access aimed at the moved frame. -/
def moveWait (ms : List Move) : Wait → Wait
  | .faults n a => .faults n (match moveOf ms a.frame with
      | some m => { a with frame := m.fresh, gen := m.gen }
      | none => a)
  | .tarn a => .tarn (match moveOf ms a.frame with
      | some m => { a with frame := m.fresh, gen := m.gen }
      | none => a)
  | .busy a t => .busy (match moveOf ms a.frame with
      | some m => { a with frame := m.fresh, gen := m.gen }
      | none => a) t
  | .none => .none
  | .fetch n => .fetch n
  | .touch => .touch
  | .data => .data
  | .push ch v => .push ch v
  | .pop ch d => .pop ch d
  | .enq d b i dl t => .enq d b i dl t
  | .join d t => .join d t
  | .wellspring d => .wellspring d
  | .frame => .frame
  | .waitc a b c d => .waitc a b c d

/-- A group with its frames moved: keys, links and the frame fields of its splits are rewritten (R129). -/
def Group.relocate (g : Group) (ms : List Move) : Group :=
  let sp := fun (x : Split) => { x with frame := movedTo ms x.frame, wait := moveWait ms x.wait }
  { g with
    out := false
    stall := false
    frames := g.frames.foldl (fun t e => Table.set t (movedTo ms e.1) { e.2 with
      link := e.2.link.map (movedTo ms)
      grans := match moveOf ms e.1 with
        | some m => m.grans
        | none => e.2.grans }) []
    splits := g.splits.map sp
    spilled := g.spilled.map sp }

/-- Whose operation it is, where its group has a new slot or generation. -/
def Who.moved (w : Who) (slot : Nat) (ggen : BitVec 8) : Who := { w with slot := slot, ggen := ggen }

/-- A load operation of a moved group, with its new place. -/
def LoadOp.relocate (o : LoadOp) (ms : List Move) (slot : Nat) (ggen : BitVec 8) : LoadOp :=
  { o with
    who := { o.who with slot := slot, ggen := ggen }
    frame := movedTo ms o.frame
    gen := match moveOf ms o.frame with
      | some m => m.gen
      | none => o.gen }

/-- A copy of a group that has a new place: a token that went to the group's image is aimed at the group again; one whose
frame was freed before has still none (R82, R270). -/
def CopyOp.relocate (o : CopyOp) (ms : List Move) (slot : Nat) (ggen : BitVec 8) : CopyOp :=
  if o.imaged then
    { o with
      who := o.who.moved slot ggen
      imaged := false
      frame := movedTo ms o.frame
      gen := match moveOf ms o.frame with
        | some m => m.gen
        | none => o.gen }
  else { o with who := o.who.moved slot ggen }

/-- The copies of a group whose tokens go to its image from now on (R270, R287). -/
def Core.imageTokens (k : Core) (slot : Nat) : Core :=
  { k with copies := k.copies.map (fun o =>
      if k.ownsAt slot o.who && tokenLive k o then { o with imaged := true } else o) }

/-- Whether every load-class return into a group's registers has landed, and every AGET into its frames; an undelivered
poisoned one never lands (R287, R293). -/
def loadsLanded (k : Core) (slot : Nat) (frameOnly : Bool) : Bool :=
  k.mats.all (fun o => decide (o.kind ≠ .aget) || !(k.ownsAt slot o.who)) &&
  k.loads.all (fun o => !(k.ownsAt slot o.who) || o.arrived ||
    (frameOnly && !(match o.dst with
      | some d => d.frameLocal
      | none => false) && o.wake.isNone))

/-! The escape spill engine. -/

/-- Whether a split of a group is able to issue for the condition of R286. The splits of a group that a record on a spill area
holds are all in state parked (R126). -/
def escapeAble (g : Group) (sp : Split) : Bool := !g.stall && (decide (sp.state = .ready) || decide (sp.state = .meet))

/-- Whether a group has a split in state frame (R126, R286). -/
def Group.waitsForFrame (g : Group) : Bool := !g.stall && g.entries.any (fun sp => decide (sp.state = .frame))

/-- The condition of R286: with none of its victims still on its way out, frame requests wait, and no split of a group that
is in the register file can issue, or no request has been granted for 4,096 cycles. -/
def escapeNeeded (s : State) (c : Nat) : Bool :=
  let k := s.core c
  let gs := k.groups.filter (fun e => !e.2.out)
  gs.all (fun e => !e.2.leaving) && gs.any (fun e => e.2.waitsForFrame) &&
  (!(gs.any (fun e => e.2.entries.any (escapeAble e.2))) ||
   (decide (k.requests ≠ []) && decide (k.lastGrant + Config.escapeWait ≤ s.cyc c)))

/-- The vector granules of a group's frames. -/
def Group.granules (g : Group) : Nat := total (g.frames.map (fun f => f.2.grans.length))

/-- The victim of R286: most vector granules, then more scalar granules, then the lower slot. -/
def escapeVictim (s : State) (c : Nat) : Option (Nat × Group) :=
  ((s.core c).groups.filter (fun e => !e.2.out && e.2.waitsForFrame)).foldl (fun best e => match best with
    | none => some e
    | some b =>
      if b.2.granules < e.2.granules ||
         (decide (b.2.granules = e.2.granules) && decide (b.2.frames.length < e.2.frames.length)) then some e
      else some b) none

/-- A split whose place in the Tarn or on a channel is withdrawn, its access to be presented again (R287, R292). -/
def withdrawnWait (w : Wait) : Bool :=
  match w with
  | .tarn _ | .push _ _ | .pop _ _ => true
  | .none | .faults _ _ | .fetch _ | .touch | .busy _ _ | .data | .enq _ _ _ _ _ | .join _ _ | .wellspring _ | .frame
  | .waitc _ _ _ _ => false

/-- A withdrawn wait: an access in the Tarn is to be presented again, as one that took BUSY is; a PUSH or POP joins its
channel again (R227, R287). -/
def Wait.withdrawn : Wait → Wait
  | .tarn a => .busy a 0
  | .none => .none
  | .faults n a => .faults n a
  | .fetch n => .fetch n
  | .touch => .touch
  | .busy a t => .busy a t
  | .data => .data
  | .push ch v => .push ch v
  | .pop ch d => .pop ch d
  | .enq d b i dl t => .enq d b i dl t
  | .join d t => .join d t
  | .wellspring d => .wellspring d
  | .frame => .frame
  | .waitc a b c d => .waitc a b c d

/-- A PUSH or POP that was withdrawn joins its channel again, as a new arrival (R138, R287, R292). -/
def State.rejoinChannel (c slot : Nat) (s : State) (sp : Split) : State :=
  let join := fun (ch : Nat) (f : Chan → Chan) => match s.group? c slot with
    | some g => serveChan c g.task ch 64 (s.modTask g.task (fun t => { t with chans := Table.set t.chans ch (f (chanOf t ch)) }))
    | none => s
  match sp.wait with
  | .push ch _ => join ch (fun x => { x with pushers := x.pushers ++ [(slot, lowLane sp.mask)] })
  | .pop ch _ => join ch (fun x => { x with poppers := x.poppers ++ [(slot, lowLane sp.mask)] })
  | _ => s

/-- ESCAPE_SPILL, its first step (R286, R287): the victim stops, and its requests and parked accesses are withdrawn. -/
def escapeStop (c slot : Nat) (g : Group) (s : State) : State :=
  let k := s.core c
  let s1 := (g.entries.filter (fun sp => withdrawnWait sp.wait)).foldl
    (fun st sp => st.withdraw c slot (lowLane sp.mask) g.task) s
  let mine := k.requests.filter (fun r => decide (r.slot = slot))
  let v : Victim := ⟨slot, mine, s.cyc c, (mine.map FrameReq.arrived).foldl min (s.cyc c), []⟩
  let still := fun (sp : Split) => { sp with wait := sp.wait.withdrawn }
  (s1.modGroup c slot (fun x => { x with
    leaving := true, splits := x.splits.map still, spilled := x.spilled.map still })).modCore c (fun x => { x with
      requests := x.requests.filter (fun r => decide (r.slot ≠ slot)), victims := x.victims ++ [v] })

/-- The generation of each of a group's frame slots once the frames have left them (R29, R296). -/
def leftGens (k : Core) (g : Group) : Table (BitVec 8) := g.frames.map (fun e => (e.1, k.sgenOf e.1 + 1))

/-- ESCAPE_SPILL, its last steps (R287): the victim's frames go to its spill area and their generations advance. -/
def escapeWrite (c slot : Nat) (g : Group) (s : State) : State :=
  let gens := leftGens (s.core c) g
  let s1 := (s.storeArea (frameAreaOf c slot) (frameAreaBytes g gens)).modGroup c slot (fun x => { x with
    out := true, leaving := false })
  let s2 := s1.modCore c (fun x =>
    let z := (Table.keys g.frames).foldl Core.bumpGen (x.imageTokens slot)
    { z with victims := z.victims.map (fun v =>
      if v.slot = slot then { v with since := s.cyc c, gens := gens } else v) })
  s2.signal c (s.ctxOf c slot) 13

/-- ESCAPE_SPILL (R286, R287): a victim that has stopped, and into whose frames nothing is on its way, is written out; else a
new victim stops. -/
def escapeSpill (c : Nat) (s : State) : Option State :=
  if (s.core c).inReset then none
  else match (s.core c).groups.find? (fun e => e.2.leaving) with
    | some (slot, g) =>
      if loadsLanded (s.core c) slot true && !g.stall then
        some (s.areaMove c slot (frameAreaOf c slot) 6 (groupWho s c slot g) (escapeWrite c slot g))
      else none
    | none =>
      if escapeNeeded s c then (escapeVictim s c).map (fun e => escapeStop c e.1 e.2 s) else none

/-- ESCAPE_SPILL (R286). -/
def execEscapeSpill (core : Nat) (s : State) : Result := event (escapeSpill core s)

/-- Whether a victim may be refilled now: it fits, no request arrived before its place, and no earlier victim stands
before it (R288). -/
def mayRefill (s : State) (c : Nat) (x : Victim) : Bool :=
  x.isOut (s.core c) && refillFits s c x && (s.core c).requests.all (fun r => decide (x.arrived ≤ r.arrived)) &&
  (s.core c).victims.all (fun y => decide (y.arrived ≥ x.arrived) || !(y.isOut (s.core c)) ||
    (!(refillFits s c y) && decide (s.cyc c < y.since + Config.refillWait)))

/-- A victim's frames taken back into new granules; its requests stand again, and its PUSHes and POPs join their channels
(R129, R287, R288). -/
def escapeBack (c : Nat) (x : Victim) (g : Group) (s : State) : State :=
  let k := s.core c
  let ms := planMoves k (frameList g) (freeBelow (usedScalars s c) Config.scalarGranules)
    (freeBelow (usedGrans s c) Config.vectorGranules)
  let own := k.ownsAt x.slot
  let s1 := s.modCore c (fun y => { y with
    victims := y.victims.filter (fun z => decide (z ≠ x))
    requests := x.requests.foldl (fun l r => insertRequest r l) y.requests
    owners := ms.foldl (fun t m => Table.set t m.fresh (g.task, g.gid)) y.owners
    loads := y.loads.map (fun o => if own o.who then o.relocate ms x.slot (k.ggenOf x.slot) else o)
    copies := y.copies.map (fun o =>
      if own o.who && o.imaged then o.relocate ms x.slot (k.ggenOf x.slot) else o) })
  g.entries.foldl (State.rejoinChannel c x.slot) (s1.putGroup c x.slot (g.relocate ms))

/-- ESCAPE_REFILL (R129, R287, R288): the first victim that may is taken back; poison on its area ends the context LOST. -/
def escapeRefill (c : Nat) (s : State) : Option State :=
  match (s.core c).victims.find? (mayRefill s c) with
  | none => none
  | some x => match s.group? c x.slot with
    | none => none
    | some g =>
      if g.stall then none
      else if s.poisonIn (areaPhys (frameAreaOf c x.slot)) (frameAreaBytes g x.gens).length then
        some (loseContext (s.ctxOf c x.slot) s)
      else some (s.areaMove c x.slot (frameAreaOf c x.slot) 6 (groupWho s c x.slot g) (escapeBack c x g))

/-- ESCAPE_REFILL (R288). -/
def execEscapeRefill (core : Nat) (s : State) : Result := event (escapeRefill core s)

/-! Saving a crew. -/

/-- Whether a split counts as safe: in a held group each is parked (R126, R292, R315). -/
def splitSafe (g : Group) (sp : Split) : Bool :=
  !g.halted && (match sp.state with
    | .ready => decide (sp.stop ≠ .no) || g.held
    | .meet | .frame | .parked | .waitc | .frozen => true)

/-- Whether every split of a crew is safe (R292). -/
def crewSafe (s : State) (tid : Nat) : Bool :=
  (crewOf s tid).all (fun e => e.2.entries.all (splitSafe e.2))

/-- Whether what a save waits for has landed (R293 step 2): returns, tile loads and array passes that run. -/
def crewLanded (s : State) (tid : Nat) : Bool :=
  match Table.get? s.tasks tid with
  | none => false
  | some t =>
    let k := s.core t.place
    (crewOf s tid).all (fun e => loadsLanded k e.1 false) &&
    k.mats.all (fun o => decide (o.who.task ≠ tid) || o.drained || (decide (o.kind = .mmm) && o.absent))

/-- An entry of a task's safe-point table, 32 bytes, where the table can be read (R290). -/
def safeEntry (s : State) (t : Task) (i : Nat) : Option (List Byte) :=
  let dwordOk := fun va => (upto 8).all (fun k => (physOf s t.ctx t.asid (va + k) Need.load).isSome)
  let bytes := fun va n => ctxBytes s t.ctx t.asid va n
  if !t.spt || decide (t.entry.toNat < 8) || !(dwordOk (t.entry.toNat - 8)) then none
  else
    let table := leNat (bytes (t.entry.toNat - 8) 8)
    if table = 0 || !(dwordOk table) then none
    else
      let at' := table + 32 + 32 * i
      if leNat (bytes table 4) ≤ i || !((upto 32).all (fun k => (physOf s t.ctx t.asid (at' + k) Need.load).isSome)) then
        none
      else some (bytes at' 32)

/-- The entry under which a split stopped, if it stopped at a SAFE that the table has (R291). -/
def liveEntry (s : State) (t : Task) (sp : Split) : Option (List Byte) :=
  match sp.stop with
  | .safe i => safeEntry s t i
  | .no | .yield => none

/-- Whether an entry marks a register dead (R290). -/
def entryDead (e : List Byte) (r : RegRef) : Bool :=
  let bit := fun (o n k : Nat) => (leNat ((e.drop o).take n)).testBit k
  match r with
  | .v n => !(bit 0 16 n)
  | .s n => !(bit 16 8 n)
  | .p n => !(bit 24 2 n)
  | .t n => !(bit 26 1 n)
  | .a n _ => !(bit 27 1 n)

/-- Whether a register is saved dead: every split that can use it stopped at a SAFE that marks it dead (R291). -/
def savedDead (es : List (Split × Option (List Byte))) (r : RegRef) : Bool :=
  decide (es ≠ []) && es.all (fun x => match x.2 with
    | some e => entryDead e r
    | none => false)

/-- A group as its save holds it: dead registers are zero (R291). -/
def Group.deaden (s : State) (t : Task) (g : Group) : Group :=
  let es := g.entries.map (fun sp => (sp, liveEntry s t sp))
  let dead := savedDead es
  { g with
    s := g.s.map (fun e => if dead (.s e.1) then (e.1, SReg.zero) else e)
    v := g.v.map (fun e => if dead (.v e.1) then (e.1, VReg.zero) else e)
    p := g.p.map (fun e => if dead (.p e.1) then (e.1, PReg.zero) else e)
    tiles := g.tiles.map (fun e =>
      if dead (.t e.1) then (e.1, { e.2 with bytes := List.replicate 1536 0, poison := 0 }) else e)
    accs := g.accs.map (fun e =>
      if dead (.a e.1 0) then (e.1, { e.2 with vals := List.replicate 256 0, poison := 0 }) else e)
    frames := g.frames.map (fun f =>
      let here := es.filter (fun x => decide (x.1.frame = f.1))
      (f.1, { f.2 with
        v := f.2.v.map (fun e => if savedDead here (.v e.1) then (e.1, VReg.zero) else e)
        s := f.2.s.map (fun e => if savedDead here (.s e.1) then (e.1, SReg.zero) else e) })) }

/-- The accumulators of a group as a save holds them: a quarter held by a saved MMM holds its shadow (R262, R295). -/
def Group.shadowed (g : Group) (ops : List MatOp) : Group :=
  ops.foldl (fun x o => match o.shadow with
    | some l => if o.drained then x else
        let r := x.readA o.target
        x.putA o.target { r with vals := (upto 256).map (fun e =>
          if o.quarters.getLsbD (e / 64) then l.getD e 0 else r.vals.getD e 0) }
    | none => x) g

/-- A group's own part of a save (R292, R295): the counts of MEET stop (R120). Of a held group every entry shows as parked in
the image, and goes on after the restore with what it was doing (R126, R298). -/
def saveGroup (s : State) (t : Task) (c slot : Nat) (forced : Bool) (g : Group) : SavedGroup :=
  let k := s.core c
  let own := k.ownsAt slot
  let ops := k.mats.filter (fun o => own o.who)
  let g1 := (if forced then g else g.deaden s t).shadowed ops
  let now := s.cyc c
  ⟨{ g1 with
      splits := g1.splits.map (fun sp => sp.stow now)
      halted := false
      haltReq := false
      leaving := false
      refillAt := 0 },
   slot, k.ggenOf slot, c, forced, groupCounters k slot g, ops,
   k.loads.filter (fun o => own o.who && o.arrived), [],
   match k.victims.find? (fun x => decide (x.slot = slot) && x.isOut k) with
   | some x => x.gens
   | none => leftGens k g, false⟩

/-- The wait of a split of a crew that is being saved: what it does in the Tarn is withdrawn, an ENQ's with it (R292). -/
def Wait.unparked (k : Core) (sp : Split) : Wait → Wait
  | .enq d block image deadline _ => .busy ⟨.enq d 0 0, 64,
      [⟨lowLane sp.mask, block, image, BitVec.ofNat 64 deadline⟩], sp.frame, k.sgenOf sp.frame, 2⟩ 0
  | w => w.withdrawn

/-- A save begins (R292, R293): the crew's splits issue nothing more, and their waits are withdrawn. -/
def beginSave (tid : Nat) (forced : Bool) (t : Task) (s : State) : State :=
  let c := t.place
  let crew := crewOf s tid
  let s1 := crew.foldl (fun st e => e.2.entries.foldl (fun x sp => x.withdraw c e.1 (lowLane sp.mask) tid) st) s
  let s2 := s1.modCore c (fun k => { k with
    requests := k.requests.filter (fun r => !(crew.any (fun e => decide (e.1 = r.slot))))
    groups := k.groups.map (fun e =>
      let still := fun (sp : Split) => { sp with wait := sp.wait.unparked k sp }
      if e.2.task = tid then
        (e.1, { e.2 with splits := e.2.splits.map still, spilled := e.2.spilled.map still }) else e) })
  s2.modTask tid (fun x => { x with saving := some forced })

/-- The save of a crew once everything it waits for has landed (R293): the image is written, storage returns to the core,
and the task joins its queue as PREEMPTED. -/
def saveCrew (tid : Nat) (forced : Bool) (s : State) : Option State :=
  match Table.get? s.tasks tid with
  | none => none
  | some t =>
    let c := t.place
    let crew := crewOf s tid
    let saved := crew.map (fun e => saveGroup s t c e.1 forced e.2)
    let s1 := s.modCore c (fun k => crew.foldl (fun y e => (y.imageTokens e.1).dropGroup e.1) k)
    let s2 := s1.modCore c (fun k => { k.releaseSlots tid with mats := k.mats.filter (fun o => decide (o.who.task ≠ tid)) })
    let s3 := s2.storeTask tid { (Table.getD s2.tasks tid t) with
      state := .preempted, request := none, saving := none, saved := saved, chanGrans := [], release := s.cyc c
      resident := false }
    some ((s3.storeImage tid).releaseSet c t.ctx true)

/-- CREW_SAVE (R292, R293): with every split safe the save begins, and it ends once what it waits for has landed. -/
def crewSave (tid : Nat) (s : State) : Option State :=
  match Table.get? s.tasks tid with
  | none => none
  | some t =>
    if t.state ≠ .running then none
    else match t.saving with
      | none => if t.request.isSome && crewSafe s tid then some (beginSave tid false t s) else none
      | some true => none
      | some false => if crewLanded s tid then saveCrew tid false s else none

/-- CREW_SAVE (R293). -/
def execCrewSave (task : Nat) (s : State) : Result := event (crewSave task s)

/-- FORCED_SAVE: 65,536 cycles after the request the save begins though splits are not safe (R293). -/
def forcedSave (tid : Nat) (s : State) : Option State :=
  match Table.get? s.tasks tid with
  | none => none
  | some t =>
    if t.state ≠ .running then none
    else match t.saving, t.request with
      | none, some at' =>
        if at' + Config.forcedSave ≤ s.cyc t.place && !(crewSafe s tid) then some (beginSave tid true t s) else none
      | some true, _ => if crewLanded s tid then saveCrew tid true s else none
      | _, _ => none

/-- FORCED_SAVE (R293). -/
def execForcedSave (task : Nat) (s : State) : Result := event (forcedSave task s)

/-! Restoring a crew. -/

/-- An access presented again after a restore: an ENQ takes a new deadline (R273, R292). -/
def Access.renewed (a : Access) (now : Nat) : Access :=
  match a.instr with
  | .enq _ _ _ => { a with reqs := a.reqs.map (fun r => { r with y := BitVec.ofNat 64 (now + Config.enqDeadline) }) }
  | _ => a

/-- A saved split as it is restored (R292, R298): an access that was parked, in the Tarn, in ENQ or on fault records, is
presented again with no second debit; a JOIN waits again. -/
def Group.restoredSplit (g : Group) (now : Nat) (sp : Split) : Split :=
  let x := { sp with lastIssue := 0, mfrom := now, stop := .no, missing := false }
  match sp.state, sp.wait with
  | .frame, _ => { x with state := g.wakeState sp, wait := .none }
  | .parked, .faults _ a => { x with wait := .busy (a.renewed now) now }
  | .parked, .tarn a => { x with wait := .busy (a.renewed now) now }
  | .parked, .busy a _ => { x with wait := .busy (a.renewed now) now }
  | .parked, .join d _ => { x with wait := .join d now }
  | .parked, .touch => { x with state := g.wakeState sp, wait := .none, paid := some 1 }
  | .parked, .fetch _ => { x with state := g.wakeState sp, wait := .none }
  | .parked, .none => { x with state := g.wakeState sp }
  | _, _ => x

/-- The matrix operations of a saved group as they go on: an MMM runs again, as an operation of a new number, so that a late
reply to a record of the old one finds none (R262, R298); one with faults undelivered keeps the number they name. -/
def renewMats (now fresh : Nat) (ms : List Move) (slot : Nat) (ggen : BitVec 8) (ops : List MatOp) : List MatOp :=
  ((upto ops.length).zip ops).map (fun e =>
    let o := e.2
    let n := if o.drained then o.serial else fresh + e.1
    { o with
      who := o.who.moved slot ggen, serial := n, pass := n, absent := false, records := 0, started := false, issued := now
      frame := movedTo ms o.frame
      gen := match moveOf ms o.frame with
        | some m => m.gen
        | none => o.gen })

/-- A tile or accumulator file's elements renumbered. -/
def renumberTiles (t : Table Tile) (elems : List Nat) : Table Tile :=
  (t.zip elems).map (fun e => (e.1.1, { e.1.2 with elem := e.2 }))
/-- A group's accumulators with new elements. -/
def renumberAccs (t : Table Acc) (elems : List Nat) : Table Acc :=
  (t.zip elems).map (fun e => (e.1.1, { e.1.2 with elem := e.2 }))

/-- The entries of a restored group's pennant stack that the core does not hold itself, in its new slot's area (R297, R303). -/
def State.storePennants (s : State) (c slot : Nat) (g : Group) : State :=
  s.putBytes (areaPhys (pennantAreaOf c slot))
    ((upto (pennantDepth g - pennantPlaces)).flatMap (fun i => leBytes 4 (Table.getD g.pennants i 0).toNat))

/-- A move of a restored group to an area of its new slot: on an absent page it is made again after the reply (R126, R303). -/
def State.dueMove (s : State) (met : Option AreaState) (c slot area : Nat) (g : Group) (go : State → State) : State :=
  let t := s.meetArea met c slot area 5 (groupWho s c slot g) go
  if met = some .absent then t.modGroup c slot (fun x => { x with due := true }) else t

/-- The next restored group whose entries still go to its spill areas: spilled splits, then the pennants that the core does not
hold itself (R115, R126, R297, R303). -/
def dueTurn (s : State) : Option State :=
  s.cores.findSome? (fun e => (e.2.groups.find? (fun x => x.2.due && !x.2.stall)).map (fun x =>
    let c := e.1
    let slot := x.1
    let s1 := s.modGroup c slot (fun g => { g with due := false })
    let deep := pennantDepth x.2 - pennantPlaces
    let pennants := fun (st : State) => if deep = 0 then st else
      st.dueMove (st.areaMeets (pennantAreaOf c slot) 0 (4 * deep)) c slot (pennantAreaOf c slot) x.2
        (fun y => y.storePennants c slot x.2)
    if x.2.spilled = [] then pennants s1
    else s1.dueMove (s1.areaState (splitAreaOf c slot)) c slot (splitAreaOf c slot) x.2
      (fun st => pennants (st.storeSplitArea c slot))))

/-- Saved groups put back one by one, each taking its part of the allotment; the stores, markers, copies and answers on their
way are the group's again, and what was counted in it is (R74, R90, R203, R270, R297). What the spill areas of the new slot
keep of it follows (`dueTurn`). -/
def restoreGroups (c tid : Nat) : List SavedGroup → Allotment → State → State
  | [], _, s => s
  | x :: xs, a, s =>
    let k := s.core c
    let slot := a.slots.headD 0
    let ggen := k.ggenOf slot
    let frames := frameList x.group
    let ng := x.group.granules
    let ms := planMoves k frames a.scalars a.grans
    let g := x.group.relocate ms
    let now := s.cyc c
    let g1 := { g with
      due := decide (g.spilled ≠ []) || decide (pennantPlaces < pennantDepth g)
      splits := g.splits.map (g.restoredSplit now)
      spilled := g.spilled.map (g.restoredSplit now)
      tiles := renumberTiles g.tiles a.tiles
      accs := renumberAccs g.accs a.accs }
    let mine := fun (w : Who) => decide (w.task = tid) && decide (w.slot = x.slot) && decide (w.ggen = x.ggen)
    let aimed := fun (w : Who) => if mine w then w.moved slot ggen else w
    let s1 := ({ s with fresh := s.fresh + x.mats.length } : State).modCore c (fun y => { y with
      groups := Table.set y.groups slot g1
      owners := ms.foldl (fun t m => Table.set t m.fresh (tid, g.gid)) y.owners
      lastIn := Table.set y.lastIn slot (tid, g.gid)
      loads := y.loads ++ x.loads.map (fun o => o.relocate ms slot ggen)
      mats := y.mats ++ renewMats now s.fresh ms slot ggen x.mats
      stores := y.stores.map (fun o => { o with who := aimed o.who })
      markers := y.markers.map (fun o => { o with who := aimed o.who })
      copies := y.copies.map (fun o => if mine o.who then o.relocate ms slot ggen else o) })
    let s2 := { s1 with msgs := s1.msgs.map (fun m => match m.reply with
      | some (rc, rs, rg, lane, d) =>
        if m.issuer = some tid && decide (rs = x.slot) && decide (rg = x.ggen) then
          { m with reply := some (c, slot, ggen, lane, d) }
        else { m with reply := some (rc, rs, rg, lane, d) }
      | none => m) }
    restoreGroups c tid xs ⟨a.slots.tail, a.grans.drop ng, a.scalars.drop frames.length,
      a.tiles.drop x.group.tiles.length, a.accs.drop x.group.accs.length⟩
      (g1.entries.foldl (State.rejoinChannel c slot) s2)

/-- CREW_RESTORE: the head of the highest queue is PREEMPTED, and all it needs is free at once, a resident place with it
(R173, R174, R297). An image with a state code or a format byte that none of R114 and R205 gives, or with poison (R279), ends the context LOST; of a
sound one the stored resume bits are cleared (R298). -/
def crewRestore (c : Nat) (s : State) : Option State :=
  match queueHead s c with
  | none => none
  | some (tid, t) =>
    if t.state ≠ .preempted || (s.core c).inReset || !(setFits s c t.ctx) ||
       decide (Config.residentTasks ≤ residents s c) then none
    else if !(imageSound s tid t) || s.poisonIn (areaPhys (imageOf tid)) t.imageBytes.length then some (loseContext t.ctx s)
    else
      let cg := chanGranules t.chans
      let ng := total (t.saved.map (fun x => x.group.granules))
      match allot s c (t.saved.map (fun x => x.group.gid)) (ng + cg) (total (t.saved.map (fun x => x.group.frames.length)))
          (total (t.saved.map (fun x => x.group.tiles.length))) (total (t.saved.map (fun x => x.group.accs.length))) with
      | none => none
      | some a =>
        let s1 := restoreGroups c tid t.saved a s
        let s2 := s1.storeTask tid { (Table.getD s1.tasks tid t) with
          state := .running, saved := [], chanGrans := (a.grans.drop ng).take cg }
        some ((s2.putBytes (areaPhys (imageOf tid) + 64) (leBytes 64 0)).loadSet c t.ctx)

/-- CREW_RESTORE (R297). -/
def execCrewRestore (core : Nat) (s : State) : Result := event (crewRestore core s)

end Sys2Proof.Machine
end

