-- ==== Sys2Proof/Machine/CoreSteps.lean ====
section
/-! DEFINITION. Steps of a core that no instruction makes: the split table (R120 to R125), the active set (R134), the
instruction cache (R130, R246) and stamp records (R307 to R309). -/

namespace Sys2Proof.Machine

/-- MEET_BOUND_EXPIRY: a resident split's count has reached 0 with its condition not met (R120). -/
def meetBoundExpiry (c slot n : Nat) (s : State) : Option State :=
  match s.group? c slot with
  | none => none
  | some g => match g.splits[n]? with
    | none => none
    | some sp =>
      if sp.state = .meet && !g.held && decide (sp.left (s.cyc c) = 0) && !(g.meets sp) then
        some ((s.putGroup c slot (g.expire n)).signal c (s.ctxOf c slot) 9)
      else none

/-- MEET_BOUND_EXPIRY (R120). -/
def execMeetBoundExpiry (core slot entry : Nat) (s : State) : Result := event (meetBoundExpiry core slot entry s)

/-- SPLIT_FUSION: two ready resident entries at one PC in one frame; the change of origins may complete merges (R118,
R121). -/
def splitFusion (c slot i j : Nat) (s : State) : Option State :=
  match s.group? c slot with
  | none => none
  | some g => match g.splits[i]?, g.splits[j]? with
    | some a, some b => if i < j && canFuse a b && !g.held then
        some ((((s.putGroup c slot (g.fusePair i j a b)).syncArea c slot g).joinOrders c slot (a.mask ||| b.mask)).mergeMeets
          c slot 32)
      else none
    | _, _ => none

/-- SPLIT_FUSION (R121). -/
def execSplitFusion (core slot older younger : Nat) (s : State) : Result := event (splitFusion core slot older younger s)

/-- A change of a group's split table that brings a spilled entry back, with its counter signals; the area follows (R115,
R311). -/
def State.bringBack (c slot : Nat) (g : Group) (signals : List Nat) (s : State) : State :=
  (signals.foldl (fun st n => st.signal c (s.ctxOf c slot) n) (s.putGroup c slot g)).storeSplitArea c slot

/-- SPLIT_REFILL: fewer than eight entries are resident and some are spilled; one comes back in a cycle, where its area can
be reached (R124, R126). -/
def splitRefill (c slot : Nat) (s : State) : Option State :=
  match s.group? c slot with
  | none => none
  | some g =>
    if g.splits.length < 8 && decide (g.spilled ≠ []) && decide (g.refillAt ≤ s.cyc c) && !g.stall then
      some (s.areaMove c slot (splitAreaOf c slot) 5 (groupWho s c slot g)
        (State.bringBack c slot (g.refill (s.cyc c)) [11]))
    else none

/-- SPLIT_REFILL (R124). -/
def execSplitRefill (core slot : Nat) (s : State) : Result := event (splitRefill core slot s)

/-- SPLIT_ROTATION: 1,024 issue opportunities have passed without a refill (R125, R126). -/
def splitRotation (c slot : Nat) (s : State) : Option State :=
  match s.group? c slot with
  | none => none
  | some g =>
    if Config.rotation ≤ g.opps && decide (g.spilled ≠ []) && decide (g.splits ≠ []) && !g.stall then
      some (s.areaMove c slot (splitAreaOf c slot) 5 (groupWho s c slot g)
        (State.bringBack c slot (g.rotate (s.cyc c)) [11, 10]))
    else none

/-- SPLIT_ROTATION (R125). -/
def execSplitRotation (core slot : Nat) (s : State) : Result := event (splitRotation core slot s)

/-! The active set (R134). -/

/-- Whether a group has a resident split in state ready; a held one has none (R126, R134). -/
def Group.hasReady (g : Group) : Bool := !g.held && g.splits.any (fun sp => decide (sp.state = .ready))

/-- Whether a group has a split in state ready, resident or spilled (R134). -/
def Group.anyReady (g : Group) : Bool := !g.held && g.entries.any (fun sp => decide (sp.state = .ready))

/-- The inactive groups of a core that wait for a place: those that waited before, in their order, then those that begin
to wait, by slot (R134). -/
def waitingGroups (k : Core) : List Nat :=
  let wants := fun (slot : Nat) => !(k.active.any (fun a => decide (a.1 = slot))) && (match Table.get? k.groups slot with
    | some g => g.hasReady
    | none => false)
  let old := k.waiting.filter wants
  old ++ (Table.keys k.groups).filter (fun x => wants x && !(old.contains x))

/-- The place a waiting group of a side may take: none to give up, or the active group that gives up its own (R134). Of
several without a ready split the spec does not say which does: the model takes the one admitted first (DESIGN CHOICE, log
entry 9). -/
def givenUp (k : Core) (now side : Nat) : Option (Option Nat) :=
  let mine := k.active.filter (fun a => decide (a.1 % 2 = side))
  if mine.length < Config.activePlaces then some none
  else
    let idle := mine.find? (fun a => match Table.get? k.groups a.1 with
      | some g => !g.anyReady
      | none => true)
    match idle with
    | some a => some (some a.1)
    | none =>
      let eldest := mine.foldl (fun (best : Option (Nat × Nat)) a => match best with
        | none => some a
        | some b => if a.2 < b.2 || (decide (a.2 = b.2) && decide (a.1 < b.1)) then some a else some b) none
      match eldest with
      | some a => if a.2 + Config.activeHold ≤ now then some (some a.1) else none
      | none => none

/-- ACTIVE_SET_ADMIT: groups that begin to wait join the order of waiting, and the first waiting group of the side takes
a place, one in each cycle (R134). -/
def activeSetAdmit (c side : Nat) (s : State) : Option State :=
  let k := s.core c
  let now := s.cyc c
  let w := waitingGroups k
  let k1 := { k with waiting := w }
  match w.find? (fun x => decide (x % 2 = side)) with
  | none => if w = k.waiting then none else some (s.putCore c k1)
  | some slot =>
    match givenUp k now side, k.active.any (fun a => decide (a.1 % 2 = side) && decide (a.2 = now)) with
    | some out, false =>
      let stay := k.active.filter (fun a => decide (some a.1 ≠ out))
      some ((s.putCore c { k1 with
        active := stay ++ [(slot, now)], waiting := w.filter (fun x => decide (x ≠ slot)) }).signal c (s.ctxOf c slot) 14)
    | _, _ => if w = k.waiting then none else some (s.putCore c k1)

/-- ACTIVE_SET_ADMIT (R134). -/
def execActiveSetAdmit (core side : Nat) (s : State) : Result := event (activeSetAdmit core side s)

/-! The instruction cache. -/

/-- A line put into a core's instruction cache; where that is full another leaves, which one is a free choice (R4, log entry
9). -/
def State.addLine (s : State) (c : Nat) (l : ILine) : State :=
  let n := (s.core c).ilines.length
  if n < Config.icacheLines then s.modCore c (fun k => { k with ilines := k.ilines ++ [l] })
  else ({ s with fresh := s.fresh + 1 } : State).modCore c (fun k => { k with
    ilines := dropAt k.ilines (Config.pick s.fresh n % n) ++ [l] })

/-- ICACHE_LINE_FILL: a requested block comes, if its page is still resident and executable, and the splits that missed it
can go on (R92, R130). -/
def icacheLineFill (c n : Nat) (s : State) : Option State :=
  match (s.core c).fills[n]? with
  | none => none
  | some (asid, block) =>
    let wake := fun (sp : Split) => if sp.pc.toNat / 256 = block then { sp with missing := false } else sp
    let s1 := s.modCore c (fun k => { k with
      fills := dropAt k.fills n
      groups := Table.mapVals k.groups (fun g =>
        if (match Table.get? s.tasks g.task with
          | some t => decide (t.asid = asid)
          | none => false) then { g with splits := g.splits.map wake, spilled := g.spilled.map wake } else g) })
    match codePage s asid (block * 256) with
    | some p =>
      if p.x && p.res then
        let pa := p.pa + (block * 256 - p.va)
        let line : ILine := ⟨asid, block, (upto 256).map (fun k => (physRead s none (pa + k)).1),
          (upto 64).map (fun w => physPoison s none (pa + 4 * w) 4)⟩
        some (s1.addLine c line)
      else some s1
    | none => some s1

/-- ICACHE_LINE_FILL (R130). -/
def execIcacheLineFill (core line : Nat) (s : State) : Result := event (icacheLineFill core line s)

/-- Instruction-cache lines discarded in every core: the blocks that a test names, by ASID (R246, R299). -/
def State.dropLines (s : State) (f : Nat → Nat → Bool) : State :=
  { s with cores := Table.mapVals s.cores (fun k => { k with ilines := k.ilines.filter (fun l => !(f l.asid l.block)) }) }

/-! Stamp records. -/

/-- An event's offset from the opening TAKE, which stops at its largest value (R308). -/
def stampOffset (taken : Nat) : Option Nat → Nat
  | some e => min (e - taken) 0xFFFFFFFF
  | none => 0

/-- A stamp record (R308). -/
def stampBytes (t : TileRec) (handle : W64) (core seq : Nat) : List Byte :=
  let valid := total ((upto 7).map (fun i => if (t.events.getD i none).isSome then 2 ^ i else 0))
  leBytes 8 t.taken ++ (upto 7).flatMap (fun i => leBytes 4 (stampOffset t.taken (t.events.getD i none))) ++
  leBytes 8 t.coord.toNat ++ leBytes 8 handle.toNat ++
  leBytes 4 (match t.pnnt with
    | some p => p.toNat
    | none => 0) ++
  leBytes 4 (valid + b2n t.pnnt.isSome * 2 ^ 7 + core * 2 ^ 16) ++ leBytes 4 (seq % 2 ^ 32)

/-- STAMP_RECORD_WRITE: a closed tile whose operations have all ended gets its record, or is counted as lost (R308,
R309). -/
def stampRecordWrite (tid tile : Nat) (s : State) : Option State :=
  match Table.get? s.tasks tid with
  | none => none
  | some t => match t.tilerecs.find? (fun x => decide (x.number = tile)) with
    | none => none
    | some x =>
      if !x.closed || decide (x.ops ≠ 0) then none
      else
        let s1 := s.modTask tid (fun y => { y with tilerecs := y.tilerecs.filter (fun z => decide (z.number ≠ tile)) })
        match Table.get? s.hub.ctxs t.ctx with
        | none => some s1
        | some cx =>
          if cx.sbuf = 0 then some s1
          else
            let word := fun o => leNat (ctxBytes s t.ctx t.asid (cx.sbuf + o) 8)
            let next := word 0
            if cx.ssize = 0 || decide ((next + 2 ^ 64 - word 8) % 2 ^ 64 = cx.ssize) then
              some (stampWrite s1 t.ctx t.asid (cx.sbuf + 16) (leBytes 6 (min (word 16 % 2 ^ 48 + 1) (2 ^ 48 - 1))))
            else
              let s2 := stampWrite s1 t.ctx t.asid (cx.sbuf + 64 * (1 + next % cx.ssize))
                (stampBytes x t.handle t.place next)
              some (stampWrite s2 t.ctx t.asid cx.sbuf (leBytes 8 (next + 1)))

/-- STAMP_RECORD_WRITE (R308). -/
def execStampRecordWrite (task tile : Nat) (s : State) : Result := event (stampRecordWrite task tile s)

end Sys2Proof.Machine
end

