-- ==== Sys2Proof/Machine/Faults.lean ====
section
/-! DEFINITION. Fault records and their replies: the ring (R212, R214), the policy core's service of it (R326), the copy of a
page from its backing (R334), and replies (R211, R262, R268, R298). -/

namespace Sys2Proof.Machine

/-- The context of a packet queue, and its ASID (R327). -/
def queueWho (s : State) (q : Nat) : Nat × Nat :=
  match Table.get? s.hub.queues q with
  | some x => (x.ctx, x.asid)
  | none => (0, 0)

/-- FAULT_RING_ROOM: the first record that waits takes a place of the ring, and a TOUCH that it held goes on (R214). -/
def faultRingRoom (s : State) : Option State :=
  match s.hub.recWait with
  | [] => none
  | r :: rest =>
    if s.hub.ring.length < ringPlaces then
      let s1 := (s.modHub (fun h => { h with recWait := rest })).writeRecord r
      some (if r.kind = 4 && decide ((s.core r.core).ggenOf r.slot = r.ggen) then
          s1.modGroup r.core r.slot (fun g => match (g.atLane r.lane).map Split.wait with
            | some .touch => g.resume r.lane
            | _ => g)
        else s1)
    else none

/-- FAULT_RING_ROOM (R214). -/
def execFaultRingRoom (s : State) : Result := event (faultRingRoom s)

/-- Whether a list of addresses has one on a page. -/
def onPage (p : Page) (vas : List Nat) : Bool := vas.any (fun a => decide (p.va ≤ a) && decide (a < p.va + pageBytes p.size))

/-- Whether a record is of a move between a core and a spill area (R126, R213, R287). -/
def FaultRec.isArea (r : FaultRec) : Bool := decide (r.kind = 5) || decide (r.kind = 6)

/-- Whether what a record waits for is there: its page resident, and for an engine or hub copy the access it needs, as
far as the operation still waits (R268, R326). -/
def recordMet (s : State) (r : FaultRec) : Bool :=
  if r.isArea then decide (s.areaState r.op ≠ some .absent) else match findPage s r.asid r.va with
  | none => false
  | some p =>
    let k := s.core r.core
    let trouble := if r.core = 0x1FF then
        (match s.hub.ops.find? (fun o => decide (o.id = r.op)) with
         | some o => match o.wait with
           | .copy dst src len _ =>
             let q := queueWho s o.queue
             let w : Who := ⟨0, 0, 0, 0, q.1, q.2, 0, 0, []⟩
             copyTrouble s w [⟨dst, src, len⟩]
           | _ => []
         | none => [])
      else if r.kind = 7 then
        (match k.copies.find? (fun o => decide (o.serial = r.op)) with
         | some o => copyTrouble s o.who o.rows
         | none => [])
      else if r.kind = 8 then
        (match k.mats.find? (fun o => decide (o.serial = r.op)) with
         | some o => rangeTrouble s o.who Need.load o.bva.toNat 1536
         | none => [])
      else []
    p.res && !(onPage p trouble)

/-- The event of kind 1 that forwards a record (R325). -/
def forwardEvent (r : FaultRec) : Event :=
  ⟨1, (upto 6).map (fun k => BitVec.ofNat 64 (leNat (((recordBytes r).drop (8 * k)).take 8))) ++ [r.cyc]⟩

/-- Where the next event goes (R325). -/
def eventSlot (h : Hub) : Nat := h.evtq + 64 * (h.evNext % 2 ^ h.evsz)

/-- Whether the next slot of the event ring is full (R325). -/
def eventSlotFull (s : State) : Bool := (physNat s none (eventSlot s.hub) 8).testBit 63

/-- The record that the policy core serves next, and the hub without it: one that it serves anew comes before those of the ring
(R326). -/
def Hub.nextRecord (h : Hub) : Option (FaultRec × Hub) :=
  match h.anew, h.ring with
  | r :: rest, _ => some (r, { h with anew := rest })
  | [], r :: rest => some (r, { h with ring := rest })
  | [], [] => none

/-- A record that the policy core forwards to the host: taken from the ring once the event slot is free and no event stands
before it (R214, R325). `s0` is the state without it. -/
def forwardRecord (s0 : State) (r : FaultRec) : Option State :=
  if s0.hub.events = [] && !(eventSlotFull s0) then
    some (s0.modHub (fun h => { h with taken := h.taken ++ [r], events := h.events ++ [forwardEvent r] }))
  else none

/-- FAULT_RECORD_SERVICE: the policy core takes the oldest record: it replies at once, brings back the page of a spill area,
which firmware keeps, starts a copy from the page's backing, or forwards the record (R326, R334, R341). -/
def faultRecordService (s : State) : Option State :=
  match s.hub.nextRecord with
  | none => none
  | some (r, h0) =>
    let s0 : State := { s with hub := h0 }
    let reply := s0.modHub (fun h => { h with replies := h.replies ++ [r] })
    if recordMet s r then some reply
    else if r.isArea then some (reply.modHub (fun h => { h with areas := Table.erase h.areas r.op }))
    else match findPage s r.asid r.va with
      | some p =>
        if !p.res && p.back.isSome then
          some (s0.modHub (fun h => { h with
            taken := h.taken ++ [r]
            backing := if h.backing.contains (p.asid, p.va) then h.backing else h.backing ++ [(p.asid, p.va)] }))
        else forwardRecord s0 r
      | none => forwardRecord s0 r

/-- FAULT_RECORD_SERVICE (R326). -/
def execFaultRecordService (s : State) : Result := event (faultRecordService s)

/-- Records taken whose wait is over become replies (R326). -/
def State.resolve (s : State) : State :=
  let met := s.hub.taken.filter (recordMet s)
  s.modHub (fun h => { h with taken := h.taken.filter (fun r => !(recordMet s r)), replies := h.replies ++ met })

/-- The records taken on a page whose mapping has changed or whose copy from its backing has ended, where they still stand: with
a backing now the page is copied from it; those that a copy was to resolve and that have none are served anew (R326, R334).
`copying` says that a copy ran. -/
def State.serveAnew (s : State) (p : Page) (copying : Bool) : State :=
  let mine := fun (r : FaultRec) => !r.isArea && decide (r.asid = p.asid) && onPage p [r.va]
  let backed := match findPage s p.asid p.va with
    | some q => !q.res && q.back.isSome
    | none => false
  if !(s.hub.taken.any mine) then s
  else if backed then s.modHub (fun h => { h with backing := addOnce h.backing (p.asid, p.va) })
  else if copying then
    s.modHub (fun h => { h with taken := h.taken.filter (fun r => !(mine r)), anew := h.anew ++ h.taken.filter mine })
  else s

/-- `n` bytes of memory copied, with their poison, every byte read first (R279, R334). Host and device memory only. -/
def State.copyPhys (s : State) (dst src n : Nat) : State :=
  let moved := (s.mem.filter (fun c => decide (src ≤ c.1) && decide (c.1 < src + n))).map (fun c => (c.1 - src + dst, c.2))
  let units := (s.poison.filter (fun u => decide (src / 64 ≤ u) && decide (u < (src + n) / 64))).map (fun u => u - src / 64 + dst / 64)
  { s with
    mem := Memory.putAll (s.mem.filter (fun c => !(decide (dst ≤ c.1) && decide (c.1 < dst + n)))) moved
    poison := units.foldl Table.insertNat (s.poison.filter (fun u => !(decide (dst / 64 ≤ u) && decide (u < (dst + n) / 64)))) }

/-- A page of an ASID changed. -/
def State.modPage (s : State) (asid va : Nat) (f : Page → Page) : State :=
  s.modHub (fun h => { h with pages := h.pages.map (fun p => if p.asid = asid && decide (p.va = va) then f p else p) })

/-- BACKING_COPY_COMPLETE: the page is copied, resident, and every outstanding record on it gets its reply (R334). -/
def backingCopyComplete (n : Nat) (s : State) : Option State :=
  match s.hub.backing[n]? with
  | none => none
  | some (asid, va) =>
    let s0 := s.modHub (fun h => { h with backing := dropAt h.backing n })
    match s.hub.pages.find? (fun p => decide (p.asid = asid) && decide (p.va = va)) with
    | some p => match p.back with
      | some b =>
        if p.res then some s0
        else some ((((s0.copyPhys p.pa b (pageBytes p.size)).modPage asid va (fun q => { q with res := true })).resolve).serveAnew
          p true)
      | none => some s0
    | none => some s0

/-- BACKING_COPY_COMPLETE (R334). -/
def execBackingCopyComplete (copy : Nat) (s : State) : Result := event (backingCopyComplete copy s)

/-! Replies. -/

/-- One record of a hub operation resolved (R212). -/
def replyToHub (s : State) (r : FaultRec) : State :=
  s.modHub (fun h => h.onOp r.op (fun o => { o with wait := match o.wait with
    | .copy d sr n k => .copy d sr n (k - 1)
    | .waitword a t k => .waitword a t (k - 1)
    | .fillword a x f k => .fillword a x f (k - 1)
    | .word st x _ => .word st x false
    | .fence => .fence
    | .wellspring => .wellspring }))

/-- One record of an engine operation resolved (R262, R268). -/
def replyToEngine (s : State) (r : FaultRec) : State :=
  s.modCore r.core (fun k => { k with
    copies := k.copies.map (fun o => if r.kind = 7 && decide (o.serial = r.op) then { o with records := o.records - 1 } else o)
    mats := k.mats.map (fun o => if r.kind = 8 && decide (o.serial = r.op) then { o with records := o.records - 1 } else o) })

/-- The split of a stopped task whose parked access has been presented leaves, and its group with the last (R211). -/
def State.dropSplit (s : State) (c slot lane : Nat) : State :=
  let s1 := s.modGroup c slot (fun g => { g with splits := g.splits.filter (fun sp => decide (lowLane sp.mask ≠ lane)) })
  match s1.group? c slot with
  | some g => if g.splits = [] && decide (g.spilled = []) then s1.endGroup c slot else s1
  | none => s1

/-- A parked access presented again, its records resolved, with no second debit (R31, R170, R211, R273); while its core has no
room for its request, it waits for it (R4). -/
def presentAgain (s : State) (c slot lane frame : Nat) (w : Who) (a : Access) : State :=
  if requestsFull (s.core c) a.instr then s.modGroup c slot (fun g => g.parkLane lane (.busy a (s.cyc c)))
  else match a.instr with
  | .spawn d _ _ =>
    let q := a.reqs.headD ⟨0, 0, 0, 0⟩
    match spawnTask s c w frame q.va q.x (a.cost - 8) with
    | .trap _ => s.modGroup c slot (fun g => g.again lane a.cost)
    | .absent vas => parkOnFaults s c slot lane w a vas
    | .answer s1 x => answerSplit s1 c slot lane d x
  | .enq d _ _ =>
    let q := a.reqs.headD ⟨0, 0, 0, 0⟩
    let s0 := s.drainStores c
    match enqTrap s0 w q.va q.x with
    | some _ => s.modGroup c slot (fun g => g.again lane a.cost)
    | none => match enqAbsent s0 w q.va q.x with
      | [] => enqBegin s c w d q.va q.x q.y.toNat
      | vas => parkOnFaults s c slot lane w a vas
  | _ => match present s c w frame a with
    | .trap _ _ => s.modGroup c slot (fun g => g.again lane a.cost)
    | .absent vas => parkOnFaults s c slot lane w a vas
    | .done s1 => s1.modGroup c slot (fun g => g.resume lane)
    | .held s1 x => s1.modGroup c slot (fun g => g.parkLane lane x)

/-- TARN_RETRY: an access that took BUSY, or one that was withdrawn for a spill or a save, is presented again as a new arrival,
with no new debit; while its group is out or being saved it is not (R227, R287, R292). -/
def tarnRetry (c slot n : Nat) (s : State) : Option State :=
  match s.group? c slot with
  | none => none
  | some g => match g.entries[n]? with
    | none => none
    | some sp =>
      let lane := lowLane sp.mask
      match sp.wait, whoOfLane s c slot lane with
      | .busy a at', some w =>
        if at' ≤ s.cyc c && !g.out && !g.leaving && !(s.savingAt c slot) && !(requestsFull (s.core c) a.instr) then some (presentAgain s c slot lane sp.frame w a)
        else none
      | _, _ => none

/-- TARN_RETRY (R227). -/
def execTarnRetry (core slot entry : Nat) (s : State) : Result := event (tarnRetry core slot entry s)

/-- An access of a stopped task presented once: a write that can be done is done, an FPUT on a full word is dropped
(R211, R228). -/
def presentStopped (s : State) (c slot lane frame : Nat) (w : Who) (a : Access) : State :=
  let full := match a.instr, a.reqs with
    | .fput _ _ _, r :: _ => match reqPhys s w a r with
      | some pa => isFull s pa
      | none => false
    | _, _ => false
  if full then s.dropSplit c slot lane
  else match present s c w frame a with
    | .absent vas => parkOnFaults s c slot lane w a vas
    | .done s1 => (s1.drainStores c).dropSplit c slot lane
    | .held s1 _ => s1.dropSplit c slot lane
    | .trap _ _ => s.dropSplit c slot lane

/-- Whether a reply can be taken: what it lets a stopped task's split present finds room among its core's requests (R4). -/
def replyFits (s : State) (r : FaultRec) (g : Group) (sp : Split) : Bool :=
  match sp.wait, (Table.get? s.tasks g.task).map Task.state with
  | .faults _ a, some .unwinding => !(requestsFull (s.core r.core) a.instr)
  | _, _ => true

/-- One record of a split resolved; with the last, its access or its fetch goes on (R211). -/
def replyToSplit (s : State) (r : FaultRec) (g : Group) (sp : Split) : State :=
  match sp.wait, whoOfLane s r.core r.slot r.lane with
  | .faults n a, some w =>
    if accessKind a.instr ≠ r.kind then s
    else if 1 < n then s.modGroup r.core r.slot (fun x => x.parkLane r.lane (.faults (n - 1) a))
    else match (Table.get? s.tasks g.task).map Task.state with
      | some .unwinding => presentStopped s r.core r.slot r.lane sp.frame w a
      | _ => presentAgain s r.core r.slot r.lane sp.frame w a
  | .fetch n, _ =>
    if r.kind ≠ 3 then s
    else if 1 < n then s.modGroup r.core r.slot (fun x => x.parkLane r.lane (.fetch (n - 1)))
    else s.modGroup r.core r.slot (fun x => x.onLane r.lane (fun y => { y with state := x.wakeState y, wait := .none }))
  | _, _ => s

/-- 1 added to `stale` of the group a dropped reply names, resident or saved, where its task is still the same (R298). -/
def dropReply (s : State) (r : FaultRec) : State :=
  if s.incOf r.task ≠ r.inc then s
  else match (crewOf s r.task).find? (fun e => decide (e.2.gid = r.gid)) with
  | some e => match Table.get? s.tasks r.task with
    | some t => s.bumpStale t.place e.1
    | none => s
  | none => (s.modTask r.task (fun t => { t with saved := t.saved.map (fun x =>
      if x.group.gid = r.gid then { x with group := { x.group with stale := bumpStop x.group.stale } } else x) })).storeImage
        r.task

/-- Whether a saved group is the one a record names (R298). -/
def savedFor (r : FaultRec) (x : SavedGroup) : Bool :=
  decide (x.core = r.core) && decide (x.slot = r.slot) && decide (x.ggen = r.ggen)

/-- FAULT_REPLY: a reply reaches a resident group, a saved one, an engine or the hub, or is dropped (R285, R298). One for a
group whose save is being written is held, and so is one for a split whose frames are out or on their way out (R287, R298,
log entry 17); one of a spill area lets the group's move be made again (R126, R287). While a core is in reset every reply to
it is dropped, also one for a saved group: which of R284 and R285 binds there is a DESIGN CHOICE (log entry 75). -/
def faultReply (n : Nat) (s : State) : Option State :=
  match s.hub.replies[n]? with
  | none => none
  | some r =>
    let s0 := s.modHub (fun h => { h with replies := dropAt h.replies n })
    if r.core = 0x1FF then some (replyToHub s0 r)
    else if r.kind = 7 || r.kind = 8 then some (replyToEngine s0 r)
    else if (s.core r.core).inReset then some s0
    else match s.group? r.core r.slot with
      | some g =>
        if (s.core r.core).ggenOf r.slot = r.ggen then
          if s.savingAt r.core r.slot then none
          else if r.isArea then some (s0.modGroup r.core r.slot (fun x => { x with stall := false }))
          else if g.out || g.leaving then none
          else match g.atLane r.lane with
            | some sp => if replyFits s r g sp then some (replyToSplit s0 r g sp) else none
            | none => some s0
        else some (savedReply s0 r)
      | none => some (savedReply s0 r)
where
  /-- The second and third rows of R298. -/
  savedReply (s0 : State) (r : FaultRec) : State :=
    match s0.tasks.find? (fun e => decide (e.2.ctx = r.ctx) && e.2.saved.any (savedFor r)) with
    | some e => (s0.modTask e.1 (fun t => { t with saved := t.saved.map (fun x =>
        if savedFor r x then { x with resume := Table.insertNat x.resume r.lane } else x) })).storeImage e.1
    | none => dropReply s0 r

/-- FAULT_REPLY (R298). -/
def execFaultReply (reply : Nat) (s : State) : Result := event (faultReply reply s)

end Sys2Proof.Machine
end

