-- ==== Sys2Proof/Machine/Hub.lean ====
section
/-! DEFINITION. The packet queues (R327 to R332, R355): how a packet is taken, checked, rejected and completed, and the
packet kinds of R330. -/

namespace Sys2Proof.Machine

/-! Taking a packet (R327, R328, R331, R335). -/

/-- The packet at a physical address. -/
def packetAt (s : State) (pa : Nat) : Packet :=
  let w := fun (k : Nat) => BitVec.ofNat 64 (physNat s none (pa + 8 * k) 8)
  ⟨w 0, w 1, w 2, w 3, w 4, w 5, w 6, w 7⟩

/-- Whether a ring slot lies in host memory (R328). -/
def hostSlot (pa : Nat) : Bool := decide (Config.hostBase ≤ pa) && !isMere pa

/-- Whether a slot is full: bit 63 in host memory, the full/empty bit of its slot word elsewhere (R328). -/
def slotFull (s : State) (pa : Nat) : Bool :=
  if hostSlot pa then (physNat s none pa 8).testBit 63 else isFull s pa

/-- A slot emptied (R328): an ENQ that waits for it is woken. -/
def emptySlot (s : State) (pa : Nat) : State :=
  if hostSlot pa then writeCells s (cellsOf pa 8 (physNat s none pa 8 % 2 ^ 63))
  else walk [pa] (setFull s pa false)

/-- The head of a queue (R327): its control block and the slot at the head, physical, and the head. -/
structure RingHead where
  block : Nat
  slot  : Nat
  head  : Nat
  deriving DecidableEq, Repr

/-- The head of a queue whose block and slot can be reached (R327), as its block in memory holds it: a store to an RO field of
a block does nothing (R11, log entry 54). -/
def ringHead (s : State) (x : Queue) : Option RingHead :=
  match physOf s x.ctx x.asid x.block Need.load with
  | none => none
  | some b =>
    let base := physNat s none b 8 % 2 ^ 56
    let lsz := physNat s none (b + 8) 8 % 32
    let head := physNat s none (b + 0x18) 8
    if base % 64 ≠ 0 || lsz = 0 || decide (16 < lsz) then none
    else match physOf s x.ctx x.asid (base + 64 * (head % 2 ^ lsz)) Need.load with
      | some slot => some ⟨b, slot, head⟩
      | none => none

/-- Whether a kind holds back the later packets of its queue (R331). -/
def holdsBack (kind : Nat) : Bool := decide (kind = 4) || decide (kind = 5) || decide (kind = 11)

/-- The next packet of a queue that firmware may start (R331, R339). -/
def nextPacket (s : State) (q : Nat) : Option (Queue × RingHead × Packet) :=
  match Table.get? s.hub.queues q with
  | none => none
  | some x =>
    if !s.hub.ready || s.hub.halted || x.stopped || x.unwritten || decide (x.retire ≠ 0) || s.hub.ops.any (fun o => decide (o.queue = q) && holdsBack o.kind) then none
    else match ringHead s x with
      | none => none
      | some r => if slotFull s r.slot then some (x, r, packetAt s r.slot) else none

/-- The journal word of a packet of a kind at a head, its update standing (R335). -/
def journalWord (head kind : Nat) : Nat := (head + 1) % 2 ^ 48 * 2 ^ 16 + kind * 2 ^ 8 + 1

/-- A part of a packet's update, in the order of R335: 1 head, 2 the slot, 3 v. -/
def retirePart (s : State) (block : Nat) (slotOf : Nat → Option Nat) (part : Nat) : State :=
  let head := physNat s none (block + 0x18) 8
  if part = 1 then writeRaw s (cellsOf (block + 0x18) 8 ((head + 1) % 2 ^ 64))
  else if part = 2 then
    match slotOf ((head + 2 ^ 64 - 1) % 2 ^ 64) with
    | some pa => emptySlot s pa
    | none => s
  else writeRaw s (cellsOf (block + 0x28) 8 (physNat s none (block + 0x28) 8 / 2 * 2))

/-- The part that follows another: none after v. -/
def nextPart (part : Nat) : Nat := if part < 3 then part + 1 else 0

/-- The control block of a queue and the places of its slots, physical, where the block can be reached (R327). -/
def ringPlace (s : State) (x : Queue) : Option (Nat × (Nat → Option Nat)) :=
  (physOf s x.ctx x.asid x.block Need.load).map (fun b =>
    (b, fun t => physOf s x.ctx x.asid
      (physNat s none b 8 % 2 ^ 56 + 64 * (t % 2 ^ (physNat s none (b + 8) 8 % 32))) Need.load))

/-- The next part of a queue's update written, if one is due (R335). -/
def retireQueue (q : Nat) (s : State) : Option State :=
  match Table.get? s.hub.queues q with
  | none => none
  | some x =>
    if x.retire = 0 then none
    else (ringPlace s x).map (fun r => (retirePart s r.1 r.2 x.retire).modHub (fun h => { h with
      queues := Table.modify h.queues q (fun y => { y with retire := nextPart x.retire }) }))

/-- A packet taken: its journal word is written before any effect of it, an operation stands for what it has to do, and head,
slot and v follow one after another (R335). -/
def takePacket (s : State) (q : Nat) (x : Queue) (r : RingHead) (p : Packet) (cw : W64) (wait : HubWait) : State :=
  (writeRaw s (cellsOf (r.block + 0x28) 8 (journalWord r.head p.kind))).modHub (fun h => { h with
    queues := Table.set h.queues q { x with taken := x.taken + 1, retire := 1 }
    ops := h.ops ++ [⟨h.nextOp, q, x.taken, p.kind, cw, wait⟩]
    nextOp := h.nextOp + 1 })

/-! The checks of R332. -/

/-- A byte of a dword. -/
def byteOf (w : W64) (k : Nat) : Nat := w.toNat / 2 ^ (8 * k) % 256

/-- The checks of a dword of a packet whose bits `used` are fields that satisfy `ok`: the fields' own offset, then each
byte that is reserved whole (R332). R12 says that the device ignores the reserved bytes of packets, R332 that a packet with
one that is nonzero is rejected: the model follows R332 (DESIGN CHOICE, log entry 57). -/
def dwordCheck (o : Nat) (used w : W64) (ok : Bool) : List (Nat × Bool) :=
  (if used = 0 then []
   else [(o, ok && (upto 8).all (fun k => decide (byteOf used k = 0) || decide (byteOf (w &&& ~~~used) k = 0)))]) ++
  ((upto 8).filter (fun k => decide (byteOf used k = 0))).map (fun k => (o + k, decide (byteOf w k = 0)))

/-- A mask of all bits of a dword. -/
def allBits : W64 := BitVec.allOnes 64

/-- The offset of the first check that fails (R332). -/
def firstFail (l : List (Nat × Bool)) : Option Nat := (l.find? (fun e => !e.2)).map Prod.fst

/-- Whether bits [62:8] of a slot word are zero (R328). -/
def slotWordGood (w : W64) : Bool := decide (w.toNat % 2 ^ 63 / 256 = 0)

/-- Whether a range may be reached for a need by a queue (R332). -/
def reaches (s : State) (x : Queue) (need : Need) (va len : Nat) : Bool :=
  (rangeBad s x.ctx x.asid 0 need va len).isNone && decide (va + len ≤ 2 ^ 56)

/-- Whether a completion word passes its check (R355). -/
def cwGood (s : State) (x : Queue) (cw : W64) : Bool :=
  decide (cw = 0) || (decide (cw.toNat % 8 = 0) && reaches s x Need.store cw.toNat 8)

/-- Whether an ASID is being torn down (R337). -/
def Hub.isDying (h : Hub) (asid : Nat) : Bool := h.dying.contains asid

/-- A packet of a kind started: on a dying ASID it completes ABORTED; one that fails a check is rejected; else `start`
runs on the state in which it has been taken, with the number of its operation (R331, R332, R337, R355). -/
def packetStep (q : Nat) (p : Packet) (kind : Nat) (checks : State → Queue → List (Nat × Bool))
    (start : State → Queue → Nat → Option State) (s : State) : Option State :=
  match nextPacket s q with
  | none => none
  | some (x, r, p') =>
    if p' ≠ p || p.kind ≠ kind then none
    else
      let good := cwGood s x p.cw
      let cw := if good then p.cw else 0
      if s.hub.isDying x.asid then some (takePacket s q x r p cw (.word 8 0 false))
      else match firstFail ([(0, slotWordGood p.slotWord), (8, good)] ++ checks s x) with
        | some o => some (takePacket s q x r p cw (.word 7 o false))
        | none => start (takePacket s q x r p cw .wellspring) x s.hub.nextOp

/-- An operation changed to wait for something. -/
def State.hubWait (s : State) (op : Nat) (w : HubWait) : State :=
  s.modHub (fun h => h.onOp op (fun o => { o with wait := w }))

/-- An operation due with a status and a result. -/
def State.hubDue (s : State) (op status result : Nat) : State := s.hubWait op (.word status result false)

/-- Who the hub is for a queue: no task, no group. -/
def hubWho (x : Queue) : Who := ⟨0, 0, 0, 0, x.ctx, x.asid, 0, 0, []⟩

/-- Records of the hub, one for each address (R212, R330). -/
def State.hubRecords (s : State) (ctx asid kind op : Nat) (vas : List Nat) : State :=
  vas.foldl (fun st va => st.addRecord (hubRecord st ctx asid va kind op)) s

/-- The dwords of a payload from one on, all reserved. -/
def reservedFrom (p : Packet) (o : Nat) : List (Nat × Bool) :=
  [(0x10, p.w10), (0x18, p.w18), (0x20, p.w20), (0x28, p.w28), (0x30, p.w30), (0x38, p.w38)].flatMap
    (fun e => if o ≤ e.1 then dwordCheck e.1 0 e.2 true else [])

/-! LAUNCH and SWEEP (R178, R191, R330). -/

/-- Whether an address may hold the TCB of a new root (R330, log entry 21). -/
def tcbGood (s : State) (x : Queue) (va : W64) : Bool :=
  decide (va.toNat % 256 = 0) && reaches s x Need.store va.toNat 256 && !(inPool va.toNat) &&
  decide (va.toNat < Config.mereAlias) &&
  (match Table.get? s.tasks (rootKey x.asid va.toNat) with
   | some t => decide (t.state = .done)
   | none => true)

/-- Whether every byte of a template can be read now. -/
def templateThere (s : State) (x : Queue) (va : W64) : Bool :=
  decide (rangeAbsent s x.ctx x.asid Need.load 6 va.toNat (va.toNat + 256) = [])

/-- Whether a template passes (R169, R170): one that is not resident is not read yet. -/
def templateOk (s : State) (x : Queue) (va : W64) : Bool :=
  decide (va.toNat % 256 = 0) && reaches s x Need.load va.toNat 256 &&
  (!(templateThere s x va) || templateGood ((templateBytes s (hubWho x) none va.toNat).map Prod.fst))

/-- The bits of an allowance. -/
def allowanceBits : W64 := 0xFFFFFFFFFFFF

/-- The checks that LAUNCH and SWEEP share: TCB, template, allowance, core (R332). -/
def launchChecks (p : Packet) (s : State) (x : Queue) : List (Nat × Bool) :=
  dwordCheck 0x10 allBits p.w10 (tcbGood s x p.w10) ++ dwordCheck 0x18 allBits p.w18 (templateOk s x p.w18) ++
  dwordCheck 0x20 allowanceBits p.w20 true ++ dwordCheck 0x28 0x1FF p.w28 (decide (W64.bits p.w28 8 0 < Config.cores))

/-- A root task of a template, a TCB address and a core (R165, R178, R330). -/
def rootTask (x : Queue) (b : List Byte) (va core alw op : Nat) : Task :=
  { taskOfTemplate b va with
    isRoot := true
    ctx := x.ctx
    asid := x.asid
    place := core
    alw := alw
    launch := some op }

/-- LAUNCH once taken: the root task is created (R330). A template that is not resident holds the packet back. -/
def launchStart (p : Packet) (s0 s : State) (x : Queue) (op : Nat) : Option State :=
  if !(templateThere s0 x p.w18) then none
  else
    let b := (templateBytes s0 (hubWho x) none p.w18.toNat).map Prod.fst
    some (s.create (rootKey x.asid p.w10.toNat) (rootTask x b p.w10.toNat p.w28.toNat p.w20.toNat op) (b.drop 128))

/-- LAUNCH (R330 kind 1). -/
def execLaunch (q : Nat) (p : Packet) (s : State) : Result :=
  event (packetStep q p 1 (fun s x => launchChecks p s x ++ reservedFrom p 0x30) (launchStart p s) s)

/-- The bits of the extents of a SWEEP. -/
def extentBits : W64 := 0xFFFFFFFFFFFF

/-- The crew TCBs of a sweep, one on each named core, numbered from `i` (R171, R191). -/
def sweepCrews (x : Queue) (b : List Byte) (root id first alw n : Nat) (handle : W64) : List Nat → State → State
  | [], s => s
  | i :: is, s =>
    match s.poolSlot x.ctx with
    | none => sweepCrews x b root id first alw n handle is s
    | some slot =>
      let units := if alw = Config.unmetered then alw else alw / n + (if i = 0 then alw % n else 0)
      let t := { taskOfTemplate b slot with
        ctx := x.ctx
        asid := x.asid
        place := first + i
        swcrew := true
        parent := some root
        parentHandle := handle
        inc := Table.getD s.incs slot 0
        alw := units
        sweep := some id }
      sweepCrews x b root id first alw n handle is (({ s with fresh := s.fresh + 1 } : State).create slot t (b.drop 128))

/-- Whether 64 sweeps are live, or the pool or the context's quota lacks n slots (R168, R330). -/
def sweepFull (s : State) (ctx n : Nat) : Bool :=
  let held := (s.tasks.filter (fun e => !e.2.isRoot && decide (e.2.ctx = ctx))).length
  let quota := match Table.get? s.hub.ctxs ctx with
    | some c => c.quota
    | none => 0
  decide (Config.sweeps ≤ s.hub.sweeps.length) || decide (Config.poolSlots < (usedSlots s).length + n) ||
  decide (quota < held + n)

/-- SWEEP once taken (R191, R192, R330). The sweep TCB is created READY, and runs no code: once it has a resident place it
drains until its last crew returns (R165, R173, log entry 35). That a dependence count of its template holds the crews alone is
a DESIGN CHOICE (log entry 66). -/
def sweepStart (p : Packet) (s0 s : State) (x : Queue) (op : Nat) : Option State :=
  if !(templateThere s0 x p.w18) then none
  else
    let n := p.w38.toNat
    let alw := p.w20.toNat
    if sweepFull s x.ctx n then some (s.hubDue op 2 0)
    else
      let b := (templateBytes s0 (hubWho x) none p.w18.toNat).map Prod.fst
      let key := rootKey x.asid p.w10.toNat
      let id := s.hub.nextSweep
      let t := { rootTask x b p.w10.toNat p.w28.toNat (if alw = Config.unmetered then alw else 0) op with
        kids := n, sweep := some id }
      let dim := fun k => W64.bits p.w30 (16 * k + 15) (16 * k) + 1
      let s1 := ((s.writeTcb key (s.readied t) (b.drop 128)).startSweep key).modHub (fun h => { h with
        sweeps := Table.set h.sweeps id ⟨key, dim 0, dim 1, dim 2, 0⟩, nextSweep := id + 1 })
      some (sweepCrews x b key id p.w28.toNat alw n t.handle (upto n) s1)

/-- SWEEP (R191, R330 kind 2). -/
def execSweep (q : Nat) (p : Packet) (s : State) : Result :=
  event (packetStep q p 2 (fun s x => launchChecks p s x ++ dwordCheck 0x30 extentBits p.w30 true ++
    dwordCheck 0x38 0x1FF p.w38 (decide (1 ≤ W64.bits p.w38 8 0) &&
      decide (p.w28.toNat + W64.bits p.w38 8 0 ≤ Config.cores)))
    (sweepStart p s) s)

/-! COPY (R268, R330). -/

/-- The length that the addresses of a COPY are checked for: one beyond its limit fails at its own field (R332). -/
def copyLength (p : Packet) : Nat := if p.w20.toNat < 2 ^ 36 then p.w20.toNat else 0

/-- COPY (R330 kind 3): the hub's engine has the copy until HUB_COPY_COMPLETE. -/
def execCopy (q : Nat) (p : Packet) (s : State) : Result :=
  event (packetStep q p 3 (fun s x =>
      dwordCheck 0x10 allBits p.w10 (reaches s x Need.copyOut p.w10.toNat (copyLength p)) ++
      dwordCheck 0x18 allBits p.w18 (reaches s x Need.copyIn p.w18.toNat (copyLength p)) ++
      dwordCheck 0x20 allBits p.w20 (decide (p.w20.toNat < 2 ^ 36)) ++ reservedFrom p 0x28)
    (fun s _ op => some (s.hubWait op (.copy p.w10 p.w18 p.w20.toNat 0))) s)

/-- HUB_COPY_COMPLETE: every unit is performed and the completion is due; a page that is absent or has changed makes the
copy wait with a record instead (R268, R330). -/
def hubCopyComplete (op : Nat) (s : State) : Option State :=
  match s.hub.ops.find? (fun o => decide (o.id = op)) with
  | none => none
  | some o => match o.wait, Table.get? s.hub.queues o.queue with
    | .copy dst src len records, some x =>
      if records ≠ 0 then none
      else
        let rows : List CopyRow := [⟨dst, src, len⟩]
        match copyTrouble s (hubWho x) rows with
        | [] =>
          let s1 := ((writeCopied s (copyCells s (hubWho x) (copySequence rows))).refuseUnits (copySequence rows)).noteTiles
            (rowsHit rows)
          some (({ s1 with fresh := s1.fresh + 1 } : State).hubDue op 0 0)
        | vas => some ((s.hubRecords x.ctx x.asid 7 op vas).hubWait op (.copy dst src len vas.length))
    | _, _ => none

/-- HUB_COPY_COMPLETE (R321, R330). -/
def execHubCopyComplete (op : Nat) (s : State) : Result := event (hubCopyComplete op s)

/-! WAITWORD and FILLWORD (R225, R330). -/

/-- A WAITWORD or FILLWORD presented at its word: it proceeds, parks in the Tarn, or waits with a record. A word that can
no longer be reached ends the packet as rejected at its field. -/
def presentWord (s : State) (o : HubOp) (x : Queue) (va : Nat) (need : Need) (waits : Nat → HubWait) : Option State :=
  match translate s x.ctx x.asid need va with
  | .bad => some (s.hubDue o.id 7 0x10)
  | .absent _ => some ((s.hubRecords x.ctx x.asid 2 o.id [va]).hubWait o.id (waits 1))
  | .phys pa => match tryHub s pa o.id with
    | some r => some (walk r.2 r.1)
    | none => if tarnRoom s pa then some { s with tarn := s.tarn ++ [⟨pa, .hub o.id⟩] } else none

/-- The n-th operation presented, if it is a WAITWORD or FILLWORD that waits neither in the Tarn nor on a record. -/
def presentOp (s : State) (o : HubOp) : Option State :=
  match Table.get? s.hub.queues o.queue with
  | none => none
  | some x =>
    if s.tarn.any (fun e => decide (e.user = .hub o.id)) then none
    else match o.wait with
      | .waitword va take 0 => presentWord s o x va.toNat Need.take (fun n => .waitword va take n)
      | .fillword va value force 0 => presentWord s o x va.toNat Need.fill (fun n => .fillword va value force n)
      | .waitword _ _ _ | .fillword _ _ _ _ | .copy _ _ _ _ | .fence | .word _ _ _ | .wellspring => none

/-- An operation that has just started waiting for a word, presented at once. -/
def startWord (s : State) (op : Nat) (w : HubWait) : State :=
  let s1 := s.hubWait op w
  match s1.hub.ops.find? (fun o => decide (o.id = op)) with
  | some o => (presentOp s1 o).getD s1
  | none => s1

/-- Whether a word may be named by WAITWORD or FILLWORD (R225, R332). -/
def wordGood (s : State) (x : Queue) (need : Need) (va : W64) : Bool :=
  decide (va.toNat % 8 = 0) && reaches s x need va.toNat 8

/-- WAITWORD (R330 kind 4). -/
def execWaitword (q : Nat) (p : Packet) (s : State) : Result :=
  event (packetStep q p 4 (fun s x => dwordCheck 0x10 allBits p.w10 (wordGood s x Need.take p.w10) ++
      dwordCheck 0x18 1 p.w18 true ++ reservedFrom p 0x20)
    (fun s _ op => some (startWord s op (.waitword p.w10 (p.w18.getLsbD 0) 0))) s)

/-- FILLWORD (R330 kind 5). -/
def execFillword (q : Nat) (p : Packet) (s : State) : Result :=
  event (packetStep q p 5 (fun s x => dwordCheck 0x10 allBits p.w10 (wordGood s x Need.fill p.w10) ++
      dwordCheck 0x18 allBits p.w18 true ++ dwordCheck 0x20 1 p.w20 true ++ reservedFrom p 0x28)
    (fun s _ op => some (startWord s op (.fillword p.w10 p.w18 (p.w20.getLsbD 0) 0))) s)

/-! Capture windows (R310, R312, R330). -/

/-- A context changed, where there is one. -/
def State.modCtx (s : State) (ctx : Nat) (f : Ctx → Ctx) : State :=
  s.modHub (fun h => { h with ctxs := Table.modify h.ctxs ctx f })

/-- The window of a context opened: every core where its crews run takes a set, as far as one is free (R310). -/
def openCapture (s : State) (ctx block : Nat) : State :=
  let s1 := s.modCtx ctx (fun c => { c with capture := some block })
  (Table.keys s1.cores).foldl (fun st c => if hasCrew st c ctx && setFits st c ctx then st.loadSet c ctx else st) s1

/-- The window of a context closed: loaded sets are written back and freed (R310, R312). -/
def closeCapture (s : State) (ctx : Nat) : State :=
  let s1 := (Table.keys s.cores).foldl (fun st c =>
    (st.writeSet c ctx).modCore c (fun k => { k with sets := Table.erase k.sets ctx })) s
  s1.modCtx ctx (fun c => { c with capture := none })

/-- CAPTURE_START (R330 kind 6). -/
def execCaptureStart (q : Nat) (p : Packet) (s : State) : Result :=
  event (packetStep q p 6 (fun s x => dwordCheck 0x10 allBits p.w10
      (reaches s x Need.load p.w10.toNat (512 * Config.cores) && reaches s x Need.store p.w10.toNat (512 * Config.cores)) ++
      reservedFrom p 0x18)
    (fun s x op => some ((openCapture s x.ctx p.w10.toNat).hubDue op 0 0)) s)

/-- CAPTURE_STOP (R330 kind 7). -/
def execCaptureStop (q : Nat) (p : Packet) (s : State) : Result :=
  event (packetStep q p 7 (fun _ _ => reservedFrom p 0x10)
    (fun s x op => some ((closeCapture s x.ctx).hubDue op 0 0)) s)

/-! GRANT, CANCEL, INVAL, FENCE (R330). -/

/-- The root task that a handle of a packet names, with inc = 0 (R330). -/
def rootNamed (s : State) (x : Queue) (h : W64) : Option Nat :=
  match namedBy s x.ctx x.asid h with
  | .task t => if h.toNat % 256 = 0 && decide (t = rootKey x.asid (h.toNat / 256 * 256)) then some t else none
  | .gone | .bad => none

/-- GRANT packet (R181, R330 kind 8): applied by the root's Wellspring. -/
def execGrantPacket (q : Nat) (p : Packet) (s : State) : Result :=
  event (packetStep q p 8 (fun s x => dwordCheck 0x10 allBits p.w10 (rootNamed s x p.w10).isSome ++
      dwordCheck 0x18 allBits p.w18 true ++ reservedFrom p 0x20)
    (fun s x op => some (s.send ⟨.grant p.w18.toNat, rootNamed s x p.w10, 0, none, none, some op, hubKey⟩)) s)

/-- CANCEL packet (R183, R330 kind 10). -/
def execCancelPacket (q : Nat) (p : Packet) (s : State) : Result :=
  event (packetStep q p 10 (fun s x => dwordCheck 0x10 allBits p.w10 (rootNamed s x p.w10).isSome ++ reservedFrom p 0x18)
    (fun s x op => some (s.send ⟨.cancel, rootNamed s x p.w10, 0, none, none, some op, hubKey⟩)) s)

/-- How much of [va, va + len) lies on mapped pages of an ASID; pages do not overlap. -/
def mappedBytes (s : State) (asid va len : Nat) : Nat :=
  total (s.hub.pages.map (fun p =>
    if p.asid = asid then min (va + len) (p.va + pageBytes p.size) - max va p.va else 0))

/-- INVAL (R246, R330 kind 9): lines of the range leave every core's instruction cache. -/
def execInval (q : Nat) (p : Packet) (s : State) : Result :=
  event (packetStep q p 9 (fun s x =>
      dwordCheck 0x10 allBits p.w10 (decide (mappedBytes s x.asid p.w10.toNat p.w18.toNat = p.w18.toNat)) ++
      dwordCheck 0x18 allBits p.w18 true ++ reservedFrom p 0x20)
    (fun s x op => some ((s.dropLines (fun asid block => decide (asid = x.asid) &&
      decide (block * 256 < p.w10.toNat + p.w18.toNat) && decide (p.w10.toNat < block * 256 + 256) &&
      decide (p.w18 ≠ 0))).hubDue op 0 0)) s)

/-- FENCE packet (R330 kind 11): due once every earlier packet of its queue has completed. -/
def execFencePacket (q : Nat) (p : Packet) (s : State) : Result :=
  event (packetStep q p 11 (fun _ _ => reservedFrom p 0x10) (fun s _ op => some (s.hubWait op .fence)) s)

/-! Completion (R329, R355). -/

/-- A completion due: its word written and its vector signalled; an absent page takes a record first (R329, R355). A remainder
that bits [63:16] do not hold has become a free value before (State.deliver, DESIGN CHOICE, log entry 19). -/
def completeOp (s : State) (o : HubOp) (status result : Nat) : State :=
  let gone := fun (st : State) => st.modHub (fun h => { h with ops := h.ops.filter (fun y => decide (y.id ≠ o.id)) })
  match Table.get? s.hub.queues o.queue with
  | none => gone s
  | some x =>
    if o.cw = 0 then gone s
    else match translate s x.ctx x.asid Need.store o.cw.toNat with
      | .bad => gone s
      | .absent _ => (s.hubRecords x.ctx x.asid 0 o.id [o.cw.toNat]).hubWait o.id (.word status result true)
      | .phys pa =>
        let word := BitVec.ofNat 64 (status + result * 2 ^ 16)
        let mailbox := match findPage s x.asid o.cw.toNat with
          | some p => p.m
          | none => false
        let s1 := if mailbox then fillWord s pa word else firmwareWord s pa word
        gone (if x.vec = 0 then s1 else s1.modHub (fun h => { h with msix := h.msix ++ [x.vec] }))

/-- Whether a FENCE's turn has come: no earlier packet of its queue is outstanding (R330). -/
def fenceDue (s : State) (o : HubOp) : Bool :=
  decide (o.wait = .fence) && s.hub.ops.all (fun y => decide (y.queue ≠ o.queue) || decide (o.index ≤ y.index))

/-- What an operation does by itself next: its completion, a FENCE's turn, or its word presented again. -/
def opTurn (s : State) (o : HubOp) : Option State :=
  match o.wait with
  | .word status result false => some (completeOp s o status result)
  | .fence => if fenceDue s o then some (s.hubDue o.id 0 0) else none
  | .waitword _ _ _ | .fillword _ _ _ _ => presentOp s o
  | .word _ _ true | .copy _ _ _ _ | .wellspring => none

/-- A packet of a reserved kind, or of an admin kind, at the head of a queue is rejected with offset 0 (R332). -/
def rejectReserved (s : State) (q : Nat) : Option State :=
  match nextPacket s q with
  | none => none
  | some (x, r, p) =>
    if 1 ≤ p.kind && decide (p.kind ≤ 11) then none
    else
      let good := cwGood s x p.cw
      some (takePacket s q x r p (if good then p.cw else 0)
        (if s.hub.isDying x.asid then .word 8 0 false else .word 7 0 false))

end Sys2Proof.Machine
end

