-- ==== Sys2Proof/Machine/Reset.lean ====
section
/-! DEFINITION. The end of contexts and ASIDs (R279, R283, R337) and the reset of one core (R284, R285). -/

namespace Sys2Proof.Machine

/-! Contexts and ASIDs. -/

/-- The ASID of a hub operation's queue. -/
def opAsid (s : State) (o : HubOp) : Nat := (queueWho s o.queue).2

/-- The hub operations of an ASID that is torn down: those that wait on memory complete ABORTED; a completion word whose
page is absent is discarded (R337). -/
def abortOps (asid : Nat) (s : State) : State :=
  let mine := fun (o : HubOp) => decide (opAsid s o = asid)
  let discarded := fun (o : HubOp) => mine o && (match o.wait with
    | .word _ _ asked => asked
    | .copy _ _ _ _ | .waitword _ _ _ | .fillword _ _ _ _ | .fence | .wellspring => false)
  let ended := fun (o : HubOp) => match o.wait with
    | .copy _ _ _ _ | .waitword _ _ _ | .fillword _ _ _ _ | .fence => o.due 8 0
    | .word _ _ _ | .wellspring => o
  s.modHub (fun h => { h with
    ops := (h.ops.filter (fun o => !(discarded o))).map (fun o => if mine o then ended o else o) })

/-- An ASID is marked dying and its tasks end with a status: ABORTED at a teardown, LOST after an error (R283, R337). Its
records are discarded, its packets that wait complete ABORTED. -/
def doomAsid (asid status : Nat) (s : State) : State :=
  let ops := (s.hub.ops.filter (fun o => decide (opAsid s o = asid))).map HubOp.id
  let keep := fun (l : List FaultRec) => l.filter (fun r => decide (r.asid ≠ asid))
  let s1 := s.modHub (fun h => { h with
    dying := Table.insertNat h.dying asid
    recWait := keep h.recWait
    ring := keep h.ring
    taken := keep h.taken
    anew := keep h.anew
    replies := keep h.replies
    backing := h.backing.filter (fun b => decide (b.1 ≠ asid)) })
  let others := s1.tarn.filter (fun e => match e.user with
    | .hub op => !(ops.contains op)
    | .split _ _ _ => true)
  let s2 := { abortOps asid s1 with tarn := others }
  stopAgain asid (endRoots (fun t => decide (t.asid = asid)) status s2)
where
  /-- The groups of tasks that had stopped before: what their splits waited to present is discarded with its records. -/
  stopAgain (asid : Nat) (s : State) : State :=
    (s.tasks.filter (fun e => decide (e.2.asid = asid) && e.2.stopped)).foldl (fun st e =>
      (crewOf st e.1).foldl (fun x g => x.stopGroup e.2.place g.1) st) s

/-- Whether a core holds an operation of an ASID (R337). -/
def Core.busyAsid (k : Core) (asid : Nat) : Bool :=
  k.loads.any (fun o => decide (o.who.asid = asid)) || k.stores.any (fun o => decide (o.who.asid = asid)) ||
  k.copies.any (fun o => decide (o.who.asid = asid)) || k.mats.any (fun o => decide (o.who.asid = asid))

/-- Whether a queue still counts: it has a packet to take, one that has not completed, or one whose update is not written
whole (R335, R337, log entry 22). -/
def queueLive (s : State) (q : Nat) : Bool :=
  s.hub.ops.any (fun o => decide (o.queue = q)) || (nextPacket s q).isSome || (retireQueue q s).isSome

/-- Whether the drain count of a dying ASID is 0 (R337). -/
def drained (s : State) (asid : Nat) : Bool :=
  s.tasks.all (fun e => decide (e.2.asid ≠ asid) || (e.2.isRoot && decide (e.2.state = .done))) &&
  s.cores.all (fun e => !(e.2.busyAsid asid)) &&
  s.hub.queues.all (fun e => decide (e.2.asid ≠ asid) || !(queueLive s e.1)) &&
  (s.hub.recWait ++ s.hub.ring ++ s.hub.taken ++ s.hub.anew ++ s.hub.replies).all (fun r => decide (r.asid ≠ asid))

/-- The full/empty bits of a physical range discarded: its words are empty (R224). That an access which waits on such a word
finds it empty, as after any other change of the word, is a DESIGN CHOICE (log entry 67). -/
def clearFull (s : State) (pa len : Nat) : State :=
  let words := s.full.filter (fun w => decide (pa ≤ 8 * w) && decide (8 * w < pa + len))
  walk (words.map (8 * ·)) { s with full := s.full.filter (fun w => !(decide (pa ≤ 8 * w) && decide (8 * w < pa + len))) }

/-- The cores without what they keep for an ASID and its contexts. -/
def State.forgetContexts (s : State) (asid : Nat) (ctxs : List Nat) : State :=
  { s with cores := Table.mapVals s.cores (fun k => { k with
      fills := k.fills.filter (fun f => decide (f.1 ≠ asid))
      sets := k.sets.filter (fun e => !(ctxs.contains e.1))
      seen := k.seen.filter (fun e => decide (e.1 ≠ asid))
      lastCtr := k.lastCtr.filter (fun e => !(ctxs.contains e.1))
      offAt := k.offAt.filter (fun e => !(ctxs.contains e.1)) }) }

/-- ASID_RECYCLE: an ASID whose drain count is 0 is free; what it held is gone (R337). -/
def asidRecycle (asid : Nat) (s : State) : Option State :=
  if !(s.hub.isDying asid) || !(drained s asid) then none
  else
    let ctxs := (s.hub.ctxs.filter (fun e => decide (e.2.asid = asid))).map Prod.fst
    let mine := s.hub.pages.filter (fun p => decide (p.asid = asid))
    let s1 := mine.foldl (fun st p => if p.m then clearFull st p.pa (pageBytes p.size) else st) s
    let s2 := s1.modHub (fun h => { h with
      dying := Table.removeNat h.dying asid
      pages := h.pages.filter (fun p => decide (p.asid ≠ asid))
      ctxs := h.ctxs.filter (fun e => decide (e.2.asid ≠ asid))
      queues := h.queues.filter (fun e => decide (e.2.asid ≠ asid)) })
    let s3 := { s2 with tasks := s2.tasks.filter (fun e => decide (e.2.asid ≠ asid)) }
    some ((s3.dropLines (fun a _ => decide (a = asid))).forgetContexts asid ctxs)

/-! The reset of a core (R284). -/

/-- Whether a task is held in memory, so that a reset of its core does not affect it (R284). -/
def isPreempted (s : State) (tid : Nat) : Bool :=
  match Table.get? s.tasks tid with
  | some t => decide (t.state = .preempted)
  | none => false

/-- The stores of a resetting core: those that have left it are performed, the others are discarded; which have left is a
free choice, with no store after a release marker ahead of one before it (R243, R284, log entry 23). Those of a PREEMPTED task,
which the reset does not affect, have left (R284). -/
def settleStores (c : Nat) (s : State) : State :=
  let k := s.core c
  let left := (((upto k.stores.length).zip k.stores).filter (fun e =>
    Config.leftCore s.fresh e.1 || isPreempted s e.2.who.task)).map Prod.snd
  let mayLeave := fun (o : StoreOp) => isPreempted s o.who.task ||
    k.stores.all (fun y => decide (o.epoch ≤ y.epoch) || left.contains y)
  let s1 := (left.filter mayLeave).foldl (fun st o => writeCells st o.cells) s
  ({ s1 with fresh := s1.fresh + 1 } : State).modCore c (fun x => { x with stores := [], markers := [] })

/-- The units a copy of a resetting core has written, a free choice among those it could write (R271, R284). -/
def settleCopy (s : State) (o : CopyOp) : State :=
  let moves := (copyWritten s o).flatMap (copyUnit o)
  let s1 := (writeCopied s (copyCells s o.who moves)).refuseUnits moves
  { s1 with fresh := s1.fresh + 1 }

/-- The copies of a resetting core that stay: those of PREEMPTED tasks, whether their tokens go to an image or to a frame that
is gone (R82, R270, R284). -/
def keepsCopy (s : State) (o : CopyOp) : Bool := isPreempted s o.who.task

/-- The tasks that a reset of a core stops: the residents of its Wellspring (R173, R284). -/
def resetTasks (s : State) (c : Nat) : List Nat :=
  (s.tasks.filter (fun e => decide (e.2.place = c) && e.2.holdsPlace)).map Prod.fst

/-- Those of them that no other one is above, and that are not unwinding already (R284). -/
def resetTops (s : State) (c : Nat) : List Nat :=
  let all := resetTasks s c
  all.filter (fun tid => !(all.any (fun a => descends s a 64 tid)) && (match Table.get? s.tasks tid with
    | some t => decide (t.state ≠ .unwinding) && t.unwinder.isNone
    | none => false))

/-- A restartable task after its core's reset: READY again at once without live children, else once its descendants have
been unwound; the records of its closed tiles, whose operations the reset has dropped, are still written (R284, R308). -/
def restartTask (tid : Nat) (s : State) : State :=
  match Table.get? s.tasks tid with
  | none => s
  | some t =>
    let base := { t with
      rsv := 0, request := none, saving := none, sum := 0, saved := []
      tilerecs := (t.tilerecs.filter TileRec.closed).map (fun y => { y with ops := 0 }) }
    if t.kids = 0 then s.storeTask tid (s.readiedAgain tid base)
    else
      let ds := descendants s tid
      let s1 := ds.foldl (fun st d => st.modTask d (Task.joinUnwind tid)) s
      s1.storeTask tid { base with
        state := .unwinding, restarting := true, unwinder := some tid, stopped := true, sum := s.carriedBy ds }

/-- The reset of a core begins (R284): `command` says that CORE.RESET caused it. -/
def coreReset (c : Nat) (command : Bool) (s : State) : State :=
  let s1 := settleStores c s
  let s2 := (s1.core c).copies.foldl (fun st o => if keepsCopy s1 o then st else settleCopy st o) s1
  let all := resetTasks s2 c
  let tops := resetTops s2 c
  let restarts := fun (tid : Nat) => match Table.get? s2.tasks tid with
    | some t => t.restart
    | none => false
  -- every group of the core ends, and alw is that of the latest write-back
  let s3 := (Table.keys (s2.core c).groups).foldl (fun st slot => st.endGroup c slot) s2
  let s4 := s3.modCore c (fun k => { k with base := s.tick, copies := k.copies.filter (keepsCopy s2), mats := [], loads := [] })
  let s5 := all.foldl (fun st tid => st.modTask tid (fun t => { t with alw := t.written })) s4
  let s6 := tops.foldl (fun st tid => if restarts tid then restartTask tid st else st.beginUnwind tid 5) s5
  -- the other resident tasks belong to an unwinding, and stop, with the children they have created since (R189, R196)
  let s7 := all.foldl (fun st tid => match Table.get? st.tasks tid with
    | some t => match t.unwinder with
      | some r => if t.stopped then st else st.stopOrdered r tid
      | none => st
    | none => st) s6
  let s8 := s7.modCore c (fun k => { Core.reset with
    base := k.base
    inReset := true
    resetInfo := some (command, (tops.filter (fun t => !(restarts t))).length, (tops.filter restarts).length)
    copies := k.copies
    owners := k.owners
    lastIn := k.lastIn
    seen := k.seen
    lastCtr := k.lastCtr })
  { s8 with msgs := s8.msgs.map (fun m => match m.reply with
    | some r => if r.1 = c && !(m.issuer.any (isPreempted s8)) then { m with reply := none } else m
    | none => m) }

/-- What a completed admin command leaves: its completion word, physical, and MSI-X vector 0 (R325, R329). -/
def adminWord (s : State) (cw : W64) (status result : Nat) : State :=
  if cw = 0 then s
  else (firmwareWord s cw.toNat (BitVec.ofNat 64 (status + result * 2 ^ 16))).modHub (fun h => { h with msix := h.msix ++ [0] })

/-- The end of an admin command: it completes at once, or behind the command that waits (R333). -/
def adminDone (s : State) (cw : W64) (status result : Nat) : State :=
  if s.hub.adminWait = .none then adminWord s cw status result
  else s.modHub (fun h => { h with adminHeld := h.adminHeld ++ [(cw, status, result)] })

/-- The end of the admin command that waits, and of those behind it, in slot order (R333). -/
def adminEnd (s : State) (cw : W64) : State :=
  s.hub.adminHeld.foldl (fun st e => adminWord st e.1 e.2.1 e.2.2)
    (adminWord (s.modHub (fun h => { h with adminWait := .none, adminHeld := [] })) cw 0 0)

/-- CORE_RETURN_TO_SERVICE: cyc restarts from 0, the event of kind 4 is kept for the ring, and a CORE.RESET completes
(R285, R325). -/
def coreReturn (c : Nat) (s : State) : Option State :=
  let k := s.core c
  match k.resetInfo with
  | none => none
  | some (command, lost, again) =>
    if !k.inReset then none
    else
      let e : Event := ⟨4, [BitVec.ofNat 64 (c + b2n command * 2 ^ 9), BitVec.ofNat 64 lost, BitVec.ofNat 64 again]⟩
      let s1 := (s.putCore c { k with base := s.tick, inReset := false, resetInfo := none }).modHub (fun h => h.addEvent e)
      some (match s1.hub.adminWait with
        | .reset c' cw => if c' = c then adminEnd s1 cw else s1
        | .none | .destroy _ _ | .teardown _ _ => s1)

/-- CORE_RETURN_TO_SERVICE (R285). -/
def execCoreReturnToService (core : Nat) (s : State) : Result := event (coreReturn core s)

/-- ASID_RECYCLE (R337): the teardown command completes. -/
def execAsidRecycle (asid : Nat) (s : State) : Result :=
  event ((asidRecycle asid s).map (fun s1 => match s1.hub.adminWait with
    | .teardown a cw => if a = asid then adminEnd s1 cw else s1
    | .none | .destroy _ _ | .reset _ _ => s1))

end Sys2Proof.Machine
end

