-- ==== Sys2Proof/Machine/Admin.lean ====
section
/-! DEFINITION. The admin queue and its commands (R333, R334), with debug rights (R315 to R317), attestation (R338) and
power limits (R340). -/

namespace Sys2Proof.Machine

/-! Taking an admin packet. -/

/-- Whether an admin command may have to wait for its end: QUEUE.DESTROY, ASID.TEARDOWN and CORE.RESET (R333). -/
def mayWait (kind : Nat) : Bool := decide (kind = 0x83) || decide (kind = 0x86) || decide (kind = 0x88)

/-- The next admin packet: its control block and ring are physical. While a command waits, the ones behind it may start, but for
those that may have to wait themselves (R327, R333, log entry 77). -/
def adminPacket (s : State) : Option (RingHead × Packet) :=
  let b := s.hub.admq
  let base := physNat s none b 8 % 2 ^ 56
  let lsz := physNat s none (b + 8) 8 % 32
  let head := physNat s none (b + 0x18) 8
  let slot := base + 64 * (head % 2 ^ lsz)
  if !s.hub.ready || !s.hub.aen || decide (s.hub.adminRetire ≠ 0) || lsz = 0 || decide (16 < lsz) ||
     (decide (s.hub.adminWait ≠ .none) && mayWait (packetAt s slot).kind) then none
  else if (physNat s none slot 8).testBit 63 then some (⟨b, slot, head⟩, packetAt s slot) else none

/-- The place of a slot of an admin ring, physical (R327). -/
def adminSlot (s : State) (block t : Nat) : Option Nat :=
  some (physNat s none block 8 % 2 ^ 56 + 64 * (t % 2 ^ (physNat s none (block + 8) 8 % 32)))

/-- An admin packet taken: its journal word is written before any effect of it; head, slot and v follow (R335). -/
def takeAdmin (s : State) (r : RingHead) (p : Packet) : State :=
  (writeRaw s (cellsOf (r.block + 0x28) 8 (journalWord r.head p.kind))).modHub (fun h => { h with adminRetire := 1, adminAt := r.block })

/-- The next part of the admin queue's update written, if one is due, in the block whose packet was taken (R335). -/
def retireAdmin (s : State) : Option State :=
  if s.hub.adminRetire = 0 then none
  else some ((retirePart s s.hub.adminAt (adminSlot s s.hub.adminAt) s.hub.adminRetire).modHub (fun h => { h with
    adminRetire := nextPart h.adminRetire }))

/-- What a command comes to: it completes with a status and a result, or it waits. -/
inductive Answer where
  | done (s : State) (status result : Nat)
  | wait (s : State) (w : AdminWait)

/-- Whether an admin packet's completion-word address passes: physical and aligned (R355). -/
def adminCwGood (cw : W64) : Bool := decide (cw.toNat % 8 = 0) && decide (cw.toNat < 2 ^ 52)

/-- An admin packet rejected with an offset (R332); with a bad completion word nothing is written (R355). -/
def adminReject (s : State) (p : Packet) (o : Nat) : State := adminDone s (if adminCwGood p.cw then p.cw else 0) 7 o

/-- Whether the alarm's halt admits a kind: only ATTEST and ALARM.POLICY (R339). -/
def admits (s : State) (kind : Nat) : Bool := !s.hub.halted || decide (kind = 0x8B) || decide (kind = 0x8C)

/-- A command run: checked field by field, then its effect (R332, R333). -/
def adminStep (p : Packet) (kind : Nat) (checks : State → List (Nat × Bool)) (run : State → Answer) (s : State) :
    Option State :=
  match adminPacket s with
  | none => none
  | some (r, p') =>
    if p' ≠ p || p.kind ≠ kind || !(admits s kind) then none
    else
      let s1 := takeAdmin s r p
      match firstFail ([(0, slotWordGood p.slotWord), (8, adminCwGood p.cw)] ++ checks s) with
      | some o => some (adminReject s1 p o)
      | none => match run s1 with
        | .done s2 status result => some (adminDone s2 p.cw status result)
        | .wait s2 w => some (s2.modHub (fun h => { h with adminWait := w }))

/-- A context by its number. -/
def ctxAt (s : State) (n : Nat) : Option Ctx := Table.get? s.hub.ctxs n

/-- The queue-like view of a context, for the reach of an address in its ASID. -/
def ctxReach (s : State) (ctx : Nat) (need : Need) (va len : Nat) : Bool :=
  match ctxAt s ctx with
  | some c => reaches s ⟨0, ctx, c.asid, 0, false, 0, 0, false, some []⟩ need va len
  | none => true

/-! Contexts and queues. -/

/-- The bits of the first dword of CTX.CREATE. -/
def ctxBits : W64 := 0xF1F7FFF07FF
/-- The bits of an address of 56 bits. -/
def addrBits : W64 := 0xFFFFFFFFFFFFFF
/-- The bits of a field of 32 bits. -/
def wordBits : W64 := 0xFFFFFFFF

/-- The limits of a context's rights: P needs D (R334). -/
def rightsGood (w : W64) : Bool := !(w.getLsbD 41) || w.getLsbD 43

/-- The first free number below a limit. -/
def freeNumber (used : List Nat) (n : Nat) : Option Nat := lowestFree used 0 n

/-- The address of a field of 56 bits (R334). -/
def addrOf (w : W64) : Nat := w.toNat % 2 ^ 56
/-- The value of a field of 32 bits (R334). -/
def lowWord (w : W64) : Nat := w.toNat % 2 ^ 32

/-- Whether a stamp buffer passes: none, or aligned and on pages of the ASID that may be written; a size beyond its limit
fails at its own field (R309, R332, R334). -/
def stampGood (s : State) (ctx asid : Nat) (sbuf ssize : W64) : Bool :=
  decide (addrOf sbuf = 0) || (decide (sbuf.toNat % 64 = 0) &&
    reaches s ⟨0, ctx, asid, 0, false, 0, 0, false, some []⟩ Need.store (addrOf sbuf)
      (64 + 64 * (if lowWord ssize ≤ 2 ^ 24 then lowWord ssize else 0)))

/-- The header of a stamp buffer that has just been named, written as zero (R309). -/
def stampNamed (s : State) (ctx asid : Nat) (sbuf : W64) : State :=
  if sbuf = 0 then s else stampWrite s ctx asid sbuf.toNat (leBytes 64 0)

/-- CTX.CREATE run (R334). -/
def ctxCreateRun (p : Packet) (s : State) : Answer :=
  match freeNumber (Table.keys s.hub.ctxs) (2 ^ 20) with
  | none => .done s 2 0
  | some n =>
    let c : Ctx := ⟨W64.bits p.w10 10 0, W64.bits p.w10 30 16, W64.bits p.w10 36 32, p.w10.getLsbD 40, p.w10.getLsbD 41,
      p.w10.getLsbD 42, p.w10.getLsbD 43, p.w18.toNat, p.w20.toNat, none, [], [], false⟩
    .done (stampNamed (s.modHub (fun h => { h with ctxs := Table.set h.ctxs n c })) n c.asid p.w18) 0 n

/-- CTX_CREATE (R334 0x80). -/
def execCtxCreate (p : Packet) (s : State) : Result :=
  event (adminStep p 0x80 (fun s =>
    dwordCheck 0x10 ctxBits p.w10 (decide (W64.bits p.w10 30 16 ≤ Config.poolSlots) && decide (W64.bits p.w10 36 32 ≤ 24) &&
      rightsGood p.w10) ++
    dwordCheck 0x18 addrBits p.w18 (stampGood s (2 ^ 20) (W64.bits p.w10 10 0) p.w18 p.w20) ++
    dwordCheck 0x20 wordBits p.w20 (decide (lowWord p.w20 ≤ 2 ^ 24)) ++ reservedFrom p 0x28) (ctxCreateRun p) s)

/-- CTX.SET run (R334): the fields whose change bit is 1; debug rights that go stand until the boundary of R317. -/
def ctxSetRun (p : Packet) (s : State) : Answer :=
  let ch := fun k => p.w10.getLsbD (32 + k)
  let f := fun (c : Ctx) =>
    let c1 := if ch 0 then { c with quota := W64.bits p.w18 30 16 } else c
    let c2 := if ch 1 then { c1 with lmax := W64.bits p.w18 36 32 } else c1
    let c3 := if ch 2 then { c2 with
      mereF := p.w18.getLsbD 40
      mereP := p.w18.getLsbD 41
      helas := p.w18.getLsbD 42
      debug := p.w18.getLsbD 43
      revoked := c2.revoked || (c2.debug && !(p.w18.getLsbD 43)) } else c2
    if ch 3 then { c3 with sbuf := p.w20.toNat, ssize := p.w28.toNat } else c3
  let ctx := W64.bits p.w10 19 0
  let s1 := s.modCtx ctx f
  .done (if ch 3 then stampNamed s1 ctx (s.asidOf ctx) p.w20 else s1) 0 0

/-- CTX_SET (R334 0x81). -/
def execCtxSet (p : Packet) (s : State) : Result :=
  event (adminStep p 0x81 (fun s =>
    let c := ctxAt s (W64.bits p.w10 19 0)
    let ch := fun k => p.w10.getLsbD (32 + k)
    let top := match c with
      | some x => x.lmax
      | none => 0
    dwordCheck 0x10 0xF000FFFFF p.w10 c.isSome ++
    dwordCheck 0x18 ctxBits p.w18 ((!(ch 0) || decide (W64.bits p.w18 30 16 ≤ Config.poolSlots)) &&
      (!(ch 1) || decide (W64.bits p.w18 36 32 ≤ top)) && (!(ch 2) || rightsGood p.w18)) ++
    dwordCheck 0x20 addrBits p.w20 (!(ch 3) ||
      stampGood s (W64.bits p.w10 19 0) (s.asidOf (W64.bits p.w10 19 0)) p.w20 p.w28) ++
    dwordCheck 0x28 wordBits p.w28 (!(ch 3) || decide (lowWord p.w28 ≤ 2 ^ 24)) ++ reservedFrom p 0x30) (ctxSetRun p) s)

/-- The fields of a queue's control block that are set at its creation, written by firmware once the block's page is there: head
0, asid and ctx, the journal word 0, and zeros in the bytes that read as zero (R11, R327). -/
def fillBlock (s : State) (q : Nat) : Option State :=
  match Table.get? s.hub.queues q with
  | none => none
  | some x =>
    if !x.unwritten then none
    else (physOf s x.ctx x.asid x.block Need.load).map (fun pa =>
      (writeRaw s (imageCells (pa + 0x18) (leBytes 8 0 ++ leBytes 8 (x.asid + x.ctx * 2 ^ 32) ++ leBytes 24 0))).modHub
        (fun h => { h with queues := Table.modify h.queues q (fun y => { y with unwritten := false }) }))

/-- QUEUE.CREATE run (R327, R334): the fields that are set at creation are written once the block's page is there. -/
def queueCreateRun (p : Packet) (s : State) : Answer :=
  let ctx := W64.bits p.w18 19 0
  let asid := s.asidOf ctx
  match freeNumber (Table.keys s.hub.queues) (2 ^ 16) with
  | none => .done s 2 0
  | some n =>
    let s1 := s.modHub (fun h => { h with
      queues := Table.set h.queues n ⟨p.w10.toNat, ctx, asid, W64.bits p.w18 36 32, false, 0, 0, true, some []⟩ })
    .done ((fillBlock s1 n).getD s1) 0 n

/-- QUEUE_CREATE (R334 0x82). -/
def execQueueCreate (p : Packet) (s : State) : Result :=
  event (adminStep p 0x82 (fun s =>
    let ctx := W64.bits p.w18 19 0
    dwordCheck 0x10 addrBits p.w10 (decide (p.w10.toNat % 64 = 0) && ctxReach s ctx Need.load (addrOf p.w10) 64 &&
      ctxReach s ctx Need.store (addrOf p.w10) 64) ++
    dwordCheck 0x18 0x1F000FFFFF p.w18 ((ctxAt s ctx).isSome && decide (W64.bits p.w18 36 32 ≠ 1)) ++
    reservedFrom p 0x20) (queueCreateRun p) s)

/-- What is left of a queue's update, written (R335). -/
def retireAll (q : Nat) (s : State) : State :=
  let one := fun (x : State) => (retireQueue q x).getD x
  one (one (one s))

/-- A packet of a destroyed queue at a position of its ring, which is never started: its journal word is written, it completes
ABORTED, head goes behind it, its slot is emptied, and v = 0 (R333, R335). -/
def abortSlot (q block t slot : Nat) (s : State) : State :=
  match Table.get? s.hub.queues q with
  | none => s
  | some x =>
    let p := packetAt s slot
    let r : RingHead := ⟨block, slot, t⟩
    let s1 := takePacket s q x r p (if cwGood s x p.cw then p.cw else 0) (.word 8 0 false)
    let s2 := emptySlot (writeRaw s1 (cellsOf (block + 0x18) 8 ((t + 1) % 2 ^ 64))) slot
    (retirePart s2 block (fun _ => none) 3).modHub (fun h => { h with
      queues := Table.modify h.queues q (fun y => { y with retire := 0 }) })

/-- Positions of a destroyed queue's ring examined; those whose page is absent are kept for later (R333). -/
def flushSlots (q block : Nat) (slotOf : Nat → Option Nat) : List Nat → State → State
  | [], s => s
  | t :: ts, s => match slotOf t with
    | some slot => flushSlots q block slotOf ts (if slotFull s slot then abortSlot q block t slot s else s)
    | none => flushSlots q block slotOf ts (s.modHub (fun h => { h with
        queues := Table.modify h.queues q (fun y => { y with flush := y.flush.map (· ++ [t]) }) }))

/-- The positions of a ring from its head on, and how they are reached: of a queue whose block is there and names a ring (R327). -/
def ringPositions (s : State) (x : Queue) : Option (Nat × (Nat → Option Nat) × List Nat) :=
  (ringPlace s x).map (fun r =>
    let lsz := physNat s none (r.1 + 8) 8 % 32
    let head := physNat s none (r.1 + 0x18) 8
    (r.1, r.2, match x.flush with
      | some l => l
      | none => if physNat s none r.1 8 % 64 ≠ 0 || lsz = 0 || decide (16 < lsz) then []
          else (upto (2 ^ lsz)).map (head + ·)))

/-- What can be examined of a destroyed queue's ring examined, if there is something (R333). -/
def flushQueue (q : Nat) (s : State) : Option State :=
  match Table.get? s.hub.queues q with
  | none => none
  | some x =>
    if x.flush = some [] || x.unwritten || decide (x.retire ≠ 0) then none
    else match ringPositions s x with
      | none => none
      | some (block, slotOf, ts) =>
        if x.flush.isSome && ts.all (fun t => (slotOf t).isNone) then none
        else some (flushSlots q block slotOf ts (s.modHub (fun h => { h with
          queues := Table.modify h.queues q (fun y => { y with flush := some [] }) })))

/-- QUEUE.DESTROY run (R333): what of the ring cannot be reached is examined once its page is there. -/
def queueDestroyRun (p : Packet) (s : State) : Answer :=
  let q := p.w10.toNat
  let s1 := (retireAll q s).modHub (fun h => { h with
    queues := Table.modify h.queues q (fun x => { x with stopped := true, flush := none }) })
  .wait ((flushQueue q s1).getD s1) (.destroy q p.cw)

/-- QUEUE_DESTROY (R334 0x83). -/
def execQueueDestroy (p : Packet) (s : State) : Result :=
  event (adminStep p 0x83 (fun s => dwordCheck 0x10 0xFFFF p.w10 (Table.get? s.hub.queues (p.w10.toNat % 2 ^ 16)).isSome ++
    reservedFrom p 0x18) (queueDestroyRun p) s)

/-! Pages (R207, R224, R299, R334). -/

/-- Whether a page of a size may lie at a physical address: device memory below the reserved range, host memory, or a
page of a core's scratchpad (R198, R209, R341). -/
def pageLies (pa size : Nat) : Bool :=
  let n := pageBytes size
  decide (pa + n ≤ Config.reservedBase) || (decide (Config.hostBase ≤ pa) && decide (pa + n ≤ Config.mereBase)) ||
  (isMere pa && decide (mereCore pa < Config.cores) && decide (mereOffset pa + n ≤ 0x40000))

/-- Whether a backing of a size may lie at a physical address: device memory below the reserved range, or host memory
(R334, R341). -/
def backingLies (pa size : Nat) : Bool := pageLies pa size && !(isMere pa)

/-- The bits of a physical address. -/
def physBits : W64 := 0xFFFFFFFFFFFFF

/-- The address of a field of 52 bits (R334). -/
def physOfField (w : W64) : Nat := w.toNat % 2 ^ 52

/-- Whether a page overlaps a mapping of an ASID that is not exactly itself (R334). -/
def overlaps (s : State) (asid va size : Nat) : Bool :=
  s.hub.pages.any (fun p => decide (p.asid = asid) && decide (p.va < va + pageBytes size) &&
    decide (va < p.va + pageBytes p.size) && !(decide (p.va = va) && decide (p.size = size)))

/-- The instruction-cache lines of a page discarded in every core (R299). -/
def State.dropPageLines (s : State) (p : Page) : State :=
  s.dropLines (fun asid block => decide (asid = p.asid) && decide (p.va ≤ block * 256) &&
    decide (block * 256 < p.va + pageBytes p.size))

/-- The exact mapping of an ASID at an address and size. -/
def exactPage (s : State) (asid va size : Nat) : Option Page :=
  s.hub.pages.find? (fun p => decide (p.asid = asid) && decide (p.va = va) && decide (p.size = size))

/-- A mapping put in place of an old one: mailbox bits (R224), lines (R299), copies from a backing, and the records it
resolves (R326). A resident page that moves, or goes, counts a move (R299). -/
def replacePage (s : State) (old : Option Page) (new : Page) : State :=
  let rest := s.hub.pages.filter (fun p => !(decide (p.asid = new.asid) && decide (p.va = new.va)))
  let moves := match old with
    | some p => p.moves + (if p.res && (decide (p.pa ≠ new.pa) || !new.res) then 1 else 0)
    | none => 0
  let s1 := s.modHub (fun h => { h with
    pages := rest ++ [{ new with moves := moves }], backing := h.backing.filter (fun b => decide (b ≠ (new.asid, new.va))) })
  let afresh := new.m && (match old with
    | some p => !p.m || decide (p.pa ≠ new.pa)
    | none => true)
  let s2 := if afresh then clearFull s1 new.pa (pageBytes new.size) else s1
  let s3 := match old with
    | some p => if (p.x && !new.x) || decide (p.pa ≠ new.pa) || (p.res && !new.res) then s2.dropPageLines p else s2
    | none => s2
  s3.resolve.serveAnew new (s.hub.backing.contains (new.asid, new.va))

/-- MAP run (R334); a scratchpad's page is always resident (R209). -/
def mapRun (p : Packet) (s : State) : Answer :=
  let asid := p.w10.toNat
  let size := W64.bits p.w20 1 0
  let res := p.w20.getLsbD 8 || isMere (physOfField p.w28)
  let new : Page := ⟨asid, p.w18.toNat, size, p.w20.getLsbD 4, p.w20.getLsbD 5, p.w20.getLsbD 6, p.w20.getLsbD 7, res,
    p.w28.toNat, if !res && p.w20.getLsbD 9 then some p.w30.toNat else none, 0⟩
  .done (replacePage s (exactPage s asid p.w18.toNat size) new) 0 0

/-- MAP (R334 0x84). -/
def execMap (p : Packet) (s : State) : Result :=
  event (adminStep p 0x84 (fun s =>
    let size := W64.bits p.w20 1 0
    let n := pageBytes size
    let backed := !(p.w20.getLsbD 8) && p.w20.getLsbD 9
    dwordCheck 0x10 0x7FF p.w10 true ++
    dwordCheck 0x18 addrBits p.w18 (decide (p.w18.toNat % n = 0) && !(overlaps s (p.w10.toNat % 2 ^ 11) (addrOf p.w18) size)) ++
    dwordCheck 0x20 0x3F3 p.w20 (!(p.w20.getLsbD 7) || decide (physOfField p.w28 < Config.reservedEnd)) ++
    dwordCheck 0x28 physBits p.w28 (decide (p.w28.toNat % n = 0) && pageLies (physOfField p.w28) size) ++
    dwordCheck 0x30 physBits p.w30 (!backed || (decide (p.w30.toNat % n = 0) && backingLies (physOfField p.w30) size)) ++ reservedFrom p 0x38) (mapRun p) s)

/-- What the cores have seen of a page forgotten. -/
def State.forgetPage (s : State) (asid va : Nat) : State :=
  { s with cores := Table.mapVals s.cores (fun k => { k with
      seen := k.seen.filter (fun e => decide (e.1 ≠ asid) || decide (e.2.1 ≠ va)) }) }

/-- A page unmapped: its bits and its lines go (R224, R299). -/
def unmapPage (s : State) (p : Page) : State :=
  let s1 := s.modHub (fun h => { h with
    pages := h.pages.filter (fun q => decide (q ≠ p))
    backing := h.backing.filter (fun b => decide (b ≠ (p.asid, p.va))) })
  ((if p.m then clearFull s1 p.pa (pageBytes p.size) else s1).dropPageLines p |>.forgetPage p.asid p.va).serveAnew p
    (s.hub.backing.contains (p.asid, p.va))

/-- PROTECT run (R334). -/
def protectRun (p : Packet) (s : State) : Answer :=
  match exactPage s p.w10.toNat p.w18.toNat (W64.bits p.w20 1 0) with
  | none => .done s 0 0
  | some q =>
    if p.w20.getLsbD 15 then .done (unmapPage s q) 0 0
    else
      let new := { q with r := p.w20.getLsbD 4, w := p.w20.getLsbD 5, x := p.w20.getLsbD 6, m := p.w20.getLsbD 7 }
      let s1 := if q.m && !new.m then clearFull s q.pa (pageBytes q.size) else s
      .done (replacePage s1 (some q) new) 0 0

/-- PROTECT (R334 0x85). -/
def execProtect (p : Packet) (s : State) : Result :=
  event (adminStep p 0x85 (fun s =>
    let q := exactPage s (p.w10.toNat % 2 ^ 11) (addrOf p.w18) (W64.bits p.w20 1 0)
    let onHost := match q with
      | some x => decide (Config.reservedEnd ≤ x.pa)
      | none => false
    dwordCheck 0x10 0x7FF p.w10 true ++ dwordCheck 0x18 addrBits p.w18 q.isSome ++
    dwordCheck 0x20 0x80F3 p.w20 (p.w20.getLsbD 15 || !(p.w20.getLsbD 7) || !onHost) ++ reservedFrom p 0x28)
    (protectRun p) s)

/-- ASID_TEARDOWN (R334 0x86, R337): the ASID dies, and the command waits until it is recycled. -/
def execAsidTeardown (p : Packet) (s : State) : Result :=
  event (adminStep p 0x86 (fun _ => dwordCheck 0x10 0x7FF p.w10 true ++ reservedFrom p 0x18)
    (fun s => .wait (doomAsid p.w10.toNat 8 s) (.teardown p.w10.toNat p.cw)) s)

/-! PREEMPT, CORE.RESET, COUNTERS. -/

/-- The task a handle of an admin command names: one of the context given, or of any (R167, R334). -/
def taskNamed (s : State) (ctx : Option Nat) (h : W64) : Option (Nat × Task) :=
  s.tasks.find? (fun e => decide (e.2.handle = h) && decide (e.2.state ≠ .done) && (match ctx with
    | some c => decide (e.2.ctx = c)
    | none => true))

/-- PREEMPT run (R292, R334): a request stands for a RUNNING task; the result is the address of its crew image. -/
def preemptRun (p : Packet) (s : State) : Answer :=
  match taskNamed s none p.w10 with
  | none => .done s 0 0
  | some (tid, t) =>
    let s1 := if t.state = .running && t.request.isNone then
      s.modTask tid (fun x => { x with request := some (s.cyc t.place) }) else s
    .done s1 0 (areaPhys (imageOf tid) / 256)

/-- PREEMPT (R334 0x87). -/
def execPreempt (p : Packet) (s : State) : Result :=
  event (adminStep p 0x87 (fun s => dwordCheck 0x10 allBits p.w10 (taskNamed s none p.w10).isSome ++ reservedFrom p 0x18)
    (preemptRun p) s)

/-- CORE_RESET (R284, R334 0x88): the command waits until the core is back in service. -/
def execCoreReset (p : Packet) (s : State) : Result :=
  event (adminStep p 0x88 (fun _ => dwordCheck 0x10 0x1FF p.w10 (decide (W64.bits p.w10 8 0 < Config.cores)) ++ reservedFrom p 0x18)
    (fun s => .wait (if (s.core p.w10.toNat).inReset then s else coreReset p.w10.toNat true s) (.reset p.w10.toNat p.cw)) s)

/-- The registers of R312 of a set replaced by those of a block; a run that was open starts anew. -/
def CtrSet.configure (x b : CtrSet) : CtrSet :=
  { x with derived := b.derived, selects := b.selects, edges := b.edges, matchIds := b.matchIds, runs := List.replicate 16 0 }

/-- COUNTERS run (R312, R333): the registers go to the loaded set, or to the context's own counter block. -/
def countersRun (p : Packet) (s : State) : Answer :=
  let ctx := W64.bits p.w10 19 0
  let c := p.w18.toNat
  let b := setOfBlock (ctxBytes s ctx (s.asidOf ctx) p.w20.toNat 512)
  match Table.get? (s.core c).sets ctx, (ctxAt s ctx).bind Ctx.capture with
  | some x, _ => .done (s.modCore c (fun k => { k with sets := Table.set k.sets ctx (x.configure b) })) 0 0
  | none, some blocks =>
    let at' := blocks + 512 * c
    let own := setOfBlock (ctxBytes s ctx (s.asidOf ctx) at' 512)
    .done (ctxWrite s ctx (s.asidOf ctx) at' (blockOfSet (own.configure b))) 0 0
  | none, none => .done s 0 0

/-- COUNTERS (R334 0x89). -/
def execCounters (p : Packet) (s : State) : Result :=
  event (adminStep p 0x89 (fun s =>
    let ctx := W64.bits p.w10 19 0
    dwordCheck 0x10 0xFFFFF p.w10 (ctxAt s ctx).isSome ++
    dwordCheck 0x18 0x1FF p.w18 (decide (W64.bits p.w18 8 0 < Config.cores)) ++
    dwordCheck 0x20 addrBits p.w20 (decide (p.w20.toNat % 64 = 0) && ctxReach s ctx Need.load (addrOf p.w20) 512) ++
    reservedFrom p 0x28) (countersRun p) s)

/-! DEBUG (R315 to R317). -/

/-- The context of a DEBUG command. -/
def debugCtx (p : Packet) : Nat := W64.bits p.w10 19 0
/-- The operation of a DEBUG command. -/
def debugOp (p : Packet) : Nat := W64.bits p.w10 35 32

/-- The boundary of a revocation: halted groups resume, edits and stops go (R317). -/
def applyRevocation (ctx : Nat) (s : State) : State :=
  match ctxAt s ctx with
  | none => s
  | some c =>
    if !c.revoked then s
    else
      let s1 := s.modCtx ctx (fun x => { x with stops := [], edits := [], revoked := false })
      { s1 with cores := s1.cores.map (fun e => (e.1, { e.2 with groups := e.2.groups.map (fun g =>
          if s1.ctxOf e.1 g.1 = ctx then (g.1, { g.2 with halted := false, haltReq := false }) else g) })) }

/-- A DEBUG operation: the boundary of a revocation comes first, and the context must hold debug rights (R315, R317,
R334). -/
def debugStep (p : Packet) (op : Nat) (checks : State → List (Nat × Bool)) (run : State → Answer) (s : State) : Option State :=
  if debugOp p ≠ op || (adminPacket s).isNone then none
  else adminStep p 0x8A (fun st =>
    let rights := match ctxAt st (debugCtx p) with
      | some c => c.debug
      | none => false
    dwordCheck 0x10 0xF000FFFFF p.w10 rights ++ checks st) run (applyRevocation (debugCtx p) s)

/-- The checks of the stop operations. -/
def stopChecks (p : Packet) : List (Nat × Bool) := dwordCheck 0x18 0x3FFFFFF p.w18 true ++ reservedFrom p 0x20

/-- The stop an operation names. -/
def stopOf (p : Packet) : Stop := ⟨p.w18.setWidth 24, p.w18.getLsbD 24, p.w18.getLsbD 25⟩

/-- DEBUG_SET_STOP (R315): the named edges of the region are added. -/
def execDebugSetStop (p : Packet) (s : State) : Result :=
  event (debugStep p 0 (fun _ => stopChecks p) (fun s =>
    let x := stopOf p
    .done (s.modCtx (debugCtx p) (fun c =>
      let old := (c.stops.find? (fun y => decide (y.region = x.region))).getD ⟨x.region, false, false⟩
      { c with stops := c.stops.filter (fun y => decide (y.region ≠ x.region)) ++
          [⟨x.region, old.onEnter || x.onEnter, old.onLeave || x.onLeave⟩] })) 0 0) s)

/-- DEBUG_CLEAR_STOP (R315): the named edges of the region are removed. -/
def execDebugClearStop (p : Packet) (s : State) : Result :=
  event (debugStep p 1 (fun _ => stopChecks p) (fun s =>
    let x := stopOf p
    .done (s.modCtx (debugCtx p) (fun c => { c with
      stops := (c.stops.map (fun y => if y.region = x.region then
        ⟨y.region, y.onEnter && !x.onEnter, y.onLeave && !x.onLeave⟩ else y)).filter (fun y => y.onEnter || y.onLeave) })) 0 0) s)

/-- The group of a crew that a DEBUG command names: its core, slot and group. -/
def debugGroup (s : State) (p : Packet) : Option (Nat × Nat × Group) :=
  match taskNamed s (some (debugCtx p)) p.w18 with
  | none => none
  | some (tid, t) => ((crewOf s tid).find? (fun e => decide (e.2.gid = W64.bits p.w20 3 0))).map
      (fun e => (t.place, e.1, e.2))

/-- Whether the group a DEBUG command names is halted. -/
def debugHalted (s : State) (p : Packet) : Bool :=
  match debugGroup s p with
  | some (_, _, g) => g.halted
  | none => false

/-- The checks of the task and group of a DEBUG command. -/
def groupChecks (p : Packet) (s : State) (ok : Bool) : List (Nat × Bool) :=
  dwordCheck 0x18 allBits p.w18 (taskNamed s (some (debugCtx p)) p.w18).isSome ++ dwordCheck 0x20 0xF p.w20 ok

/-- DEBUG_HALT_COMMAND (R315): the group halts at its next edge. -/
def execDebugHaltCommand (p : Packet) (s : State) : Result :=
  event (debugStep p 2 (fun st => groupChecks p st (debugGroup st p).isSome ++ reservedFrom p 0x28) (fun s =>
    match debugGroup s p with
    | some (c, slot, _) => .done (s.modGroup c slot (fun g => { g with haltReq := true })) 0 0
    | none => .done s 0 0) s)

/-- The block of a group as DEBUG reads it (R295, R334). -/
def debugBlock (s : State) (c slot : Nat) (g : Group) : List Byte :=
  let k := s.core c
  let own := k.ownsAt slot
  groupBlock g ⟨false, slot, k.ggenOf slot, c, groupCounters k slot g, k.mats.filter (fun o => own o.who), s.cyc c, k.sgenOf⟩

/-- Whether a buffer of a DEBUG command can be reached and is resident. -/
def bufferThere (s : State) (p : Packet) (need : Need) (len : Nat) : Bool :=
  let ctx := debugCtx p
  ctxReach s ctx need (addrOf p.w28) len &&
  decide (rangeAbsent s ctx (s.asidOf ctx) need (len / 65536 + 2) (addrOf p.w28) (addrOf p.w28 + len) = [])

/-- The bytes DEBUG reads for the group it names. -/
def debugBytes (s : State) (p : Packet) : List Byte :=
  match debugGroup s p with
  | some (c, slot, g) => debugBlock s c slot g
  | none => []

/-- DEBUG_READ (R315, R334): the halted group's block goes to the buffer. -/
def execDebugRead (p : Packet) (s : State) : Result :=
  event (debugStep p 3 (fun st => groupChecks p st (debugHalted st p) ++
      dwordCheck 0x28 addrBits p.w28 (ctxReach st (debugCtx p) Need.store (addrOf p.w28) (lowWord p.w30) &&
        bufferThere st p Need.store (debugBytes st p).length) ++
      dwordCheck 0x30 wordBits p.w30 (decide ((debugBytes st p).length ≤ lowWord p.w30)) ++ reservedFrom p 0x38)
    (fun s => .done (ctxWrite s (debugCtx p) (s.asidOf (debugCtx p)) p.w28.toNat (debugBytes s p)) 0 0) s)

/-- The edit records of a list (R334): none where the list is malformed. -/
def parseEdits (task gid : Nat) : Nat → List Byte → Option (List Edit)
  | 0, _ => none
  | fuel + 1, b =>
    if b = [] then some []
    else
      let n := tfield b 6 2
      let cls := tfield b 0 1
      let size := 16 + (n + 7) / 8 * 8
      if b.length < size || decide (5 < cls) then none
      else (parseEdits task gid fuel (b.drop size)).map (fun l =>
        ⟨task, gid, cls, tfield b 1 1, tfield b 2 1 % 32, tfield b 4 2 % 1024, (b.drop 16).take n⟩ :: l)

/-- The list that a staging command gives, as edits. -/
def stagedEdits (s : State) (p : Packet) : Option (List Edit) :=
  match taskNamed s (some (debugCtx p)) p.w18 with
  | some (tid, _) => parseEdits tid (W64.bits p.w20 3 0) (lowWord p.w30 / 16 + 1)
      (ctxBytes s (debugCtx p) (s.asidOf (debugCtx p)) (addrOf p.w28) (lowWord p.w30))
  | none => none

/-- DEBUG_STAGE_EDIT (R316): the edits wait for a commit. -/
def execDebugStageEdit (p : Packet) (s : State) : Result :=
  event (debugStep p 4 (fun st => groupChecks p st (debugGroup st p).isSome ++
      dwordCheck 0x28 addrBits p.w28 (bufferThere st p Need.load (lowWord p.w30) && (stagedEdits st p).isSome) ++
      dwordCheck 0x30 wordBits p.w30 true ++ reservedFrom p 0x38)
    (fun s => .done (s.modCtx (debugCtx p) (fun c => { c with edits := c.edits ++ (stagedEdits s p).getD [] })) 0 0) s)

/-- Bytes put into a vector register from a lane on, whole lanes clearing their poison. -/
def VReg.putBytes (r : VReg) (lane : Nat) (bs : List Byte) : VReg :=
  ((upto bs.length).zip bs).foldl (fun x e =>
    let k := 4 * lane + e.1
    if k < 128 then x.putByte k e.2 (decide (e.1 / 4 * 4 + 4 ≤ bs.length)) false else x) r

/-- Whether a register an edit names is there: group-global, or in the frame of its index (R203, R296). -/
def Group.editReaches (g : Group) (e : Edit) : Bool :=
  let f := (frameList g)[e.frame]?
  match e.cls with
  | 0 => decide (0 < e.reg) && decide (e.reg < 64) && (decide (e.reg < 32) || f.isSome)
  | 1 => decide (e.reg < 128) && (decide (120 ≤ e.reg) || (match f with
      | some x => decide (e.reg < 8 * x.2.grans.length)
      | none => false))
  | 2 => decide (e.reg < 16)
  | 3 => (Table.get? g.tiles e.reg).isSome
  | 4 => (Table.get? g.accs e.reg).isSome
  | _ => decide (e.reg < g.entries.length)

/-- The bytes of an edit with their positions. -/
def Edit.bytes (e : Edit) : List (Nat × Byte) := (upto e.data.length).zip e.data

/-- One edit written into its group, the bytes that its data gives and no others; one whose register is not there changes nothing (R316, R334). -/
def Group.applyEdit (g : Group) (e : Edit) : Group :=
  let fr := ((frameList g)[e.frame]?.map Prod.fst).getD 0
  if !(g.editReaches e) then g
  else match e.cls with
  | 0 => g.putS fr e.reg ((e.bytes.take 8).foldl (fun x b => x.putByte b.1 b.2 (decide (8 ≤ e.data.length)) false)
      (g.readS fr e.reg))
  | 1 => g.putV fr e.reg ((g.readV fr e.reg).putBytes e.unit e.data)
  | 2 => g.putP e.reg ⟨(e.bytes.take 4).foldl (fun x b => Machine.putByte x b.1 b.2) (g.readP e.reg).val,
      (g.readP e.reg).poison && decide (e.data.length < 4)⟩
  | 3 =>
    let t := g.readT e.reg
    let clean := (upto 24).foldl (fun (q : BitVec 24) u =>
      if e.unit ≤ u && decide (64 * (u + 1) ≤ 64 * e.unit + e.data.length) then q &&& ~~~(1#24 <<< u) else q) t.poison
    g.putT e.reg { t with
      bytes := e.bytes.foldl (fun (l : List Byte) b => changeAt l (64 * e.unit + b.1) (fun _ => b.2)) t.bytes
      poison := clean }
  | 4 =>
    let a := g.readA e.reg
    g.putA e.reg { a with vals := e.bytes.foldl (fun (l : List W32) b =>
      let k := 64 * e.unit + b.1
      changeAt l (k / 4) (fun x => Machine.putByte x (k % 4) b.2)) a.vals }
  | _ =>
    let pc := fun (x : W64) => BitVec.ofNat 64 (leNat (e.data.take 8 ++ (leBytes 8 x.toNat).drop e.data.length))
    let f := fun (l : List Split) (i : Nat) => changeAt l i (fun sp => { sp with pc := pcField (pc sp.pc) })
    if e.reg < g.splits.length then { g with splits := f g.splits e.reg }
    else { g with spilled := f g.spilled (e.reg - g.splits.length) }

/-- DEBUG_COMMIT (R316): the staged edits of the halted group are written all at once. -/
def execDebugCommit (p : Packet) (s : State) : Result :=
  event (debugStep p 5 (fun st => groupChecks p st (debugHalted st p) ++ reservedFrom p 0x28) (fun s =>
    match debugGroup s p, ctxAt s (debugCtx p) with
    | some (c, slot, g), some x =>
      let mine := fun (e : Edit) => decide (e.task = g.task) && decide (e.gid = g.gid)
      .done ((s.putGroup c slot ((x.edits.filter mine).foldl Group.applyEdit g)).modCtx (debugCtx p) (fun y => { y with
        edits := y.edits.filter (fun e => !(mine e)) })) 0 0
    | _, _ => .done s 0 0) s)

/-- DEBUG_RESUME (R316): the group is released. -/
def execDebugResume (p : Packet) (s : State) : Result :=
  event (debugStep p 6 (fun st => groupChecks p st (debugGroup st p).isSome ++ reservedFrom p 0x28) (fun s =>
    match debugGroup s p with
    | some (c, slot, _) => .done (s.modGroup c slot (fun g => { g with halted := false, haltReq := false })) 0 0
    | none => .done s 0 0) s)

/-! ATTEST, ALARM.POLICY, POWER.LIMIT, HELAS.WINDOW. -/

/-- The nonce of an ATTEST as a number. -/
def nonceOf (p : Packet) : Nat :=
  p.w10.toNat + p.w18.toNat * 2 ^ 64 + p.w20.toNat * 2 ^ 128 + p.w28.toNat * 2 ^ 192

/-- The attestation report (R334, R338): the digests of the device and the signature are free values. -/
def attestReport (nonce : Nat) : List Byte :=
  let len := Config.attestLength nonce % 1281
  (upto 64).map Config.romDigest ++ (upto 64).map Config.configDigest ++ leBytes 32 nonce ++ leBytes 2 len ++ List.replicate 6 0 ++
  (upto len).map (fun k => Config.attestByte nonce (0xA8 + k))

/-- ATTEST run (R338): ABORTED in the zeroised state. -/
def attestRun (p : Packet) (s : State) : Answer :=
  if s.hub.zeroised then .done s 8 0
  else .done (writeCells s (imageCells p.w30.toNat (attestReport (nonceOf p)))) 0 0

/-- Whether the report of an ATTEST may lie at an address: a buffer of 1,536 bytes in host memory (R334). -/
def reportLies (pa : Nat) : Bool := decide (pa % 64 = 0) && decide (Config.hostBase ≤ pa) && decide (pa + 1536 ≤ Config.mereBase)

/-- ATTEST (R334 0x8B). -/
def execAttest (p : Packet) (s : State) : Result :=
  event (adminStep p 0x8B (fun _ =>
    dwordCheck 0x10 allBits p.w10 true ++ dwordCheck 0x18 allBits p.w18 true ++ dwordCheck 0x20 allBits p.w20 true ++
    dwordCheck 0x28 allBits p.w28 true ++ dwordCheck 0x30 physBits p.w30 (reportLies (physOfField p.w30)) ++
    reservedFrom p 0x38) (attestRun p) s)

/-- ALARM_POLICY (R334 0x8C, R339). -/
def execAlarmPolicy (p : Packet) (s : State) : Result :=
  event (adminStep p 0x8C (fun _ => dwordCheck 0x10 3 p.w10 (decide (W64.bits p.w10 1 0 ≠ 3)) ++ reservedFrom p 0x18)
    (fun s => .done (s.modHub (fun h => { h with policy := p.w10.toNat })) 0 0) s)

/-- The limit of a block in mW (R6). -/
def blockLimit (block index : Nat) : Nat :=
  match block with
  | 0 => if index % 3 = 0 then 5209 else 5208
  | 1 => 100000
  | 2 => 75000
  | _ => 100000

/-- Whether a block has an index (R334). -/
def blockIndexed (block index : Nat) : Bool :=
  match block with
  | 0 => decide (index < Config.cores)
  | 1 => decide (index < 4)
  | 2 => decide (index < 4)
  | _ => decide (index = 0)

/-- POWER_LIMIT (R334 0x8D, R340): the limit is set, and the limit now in force is the result. -/
def execPowerLimit (p : Packet) (s : State) : Result :=
  event (adminStep p 0x8D (fun _ =>
    let block := W64.bits p.w10 1 0
    let index := W64.bits p.w10 16 8
    dwordCheck 0x10 0x1FF03 p.w10 (blockIndexed block index) ++
    dwordCheck 0x18 wordBits p.w18 (decide (lowWord p.w18 ≤ blockLimit block index)) ++ reservedFrom p 0x20)
    (fun s => .done (s.modHub (fun h => { h with
      limits := Table.set h.limits (W64.bits p.w10 1 0 * 512 + W64.bits p.w10 16 8) p.w18.toNat })) 0 p.w18.toNat) s)

/-- A Helas port; one that has no entry is down with its window closed. -/
def Hub.port (h : Hub) (n : Nat) : Port := Table.getD h.ports n ⟨false, 0, 0, 0⟩

/-- HELAS_WINDOW (R321, R334 0x8E). -/
def execHelasWindow (p : Packet) (s : State) : Result :=
  event (adminStep p 0x8E (fun _ => dwordCheck 0x10 7 p.w10 true ++
    dwordCheck 0x18 0x1FFFFFFFFFF p.w18 (decide (p.w18.toNat % 64 = 0)) ++
    dwordCheck 0x20 0x3FFFFFFFFFF p.w20 (decide (p.w20.toNat % 64 = 0) && decide (p.w20.toNat % 2 ^ 42 ≤ 2 ^ 41)) ++
    reservedFrom p 0x28)
    (fun s => .done (s.modHub (fun h => { h with
      ports := Table.set h.ports p.w10.toNat { h.port p.w10.toNat with base := p.w18.toNat, len := p.w20.toNat } })) 0 0) s)

/-! What the hub does by itself. -/

/-- An admin packet that no command takes: a kind that is not an admin kind, a DEBUG operation that is reserved, or a kind
that the alarm's halt does not admit (R332, R339). -/
def adminStray (s : State) : Option State :=
  match adminPacket s with
  | none => none
  | some (r, p) =>
    if p.kind < 0x80 || decide (0x8E < p.kind) || !(admits s p.kind) then some (adminReject (takeAdmin s r p) p 0)
    else if p.kind = 0x8A && decide (6 < debugOp p) then
      let o := (firstFail [(0, slotWordGood p.slotWord), (8, adminCwGood p.cw), (0x10, false)]).getD 0x10
      some (adminReject (takeAdmin s r p) p o)
    else none

/-- Whether a destroyed queue has nothing left: its ring examined, no update of it due, no packet of it started (R333). -/
def queueGone (s : State) (q : Nat) : Bool :=
  !(s.hub.ops.any (fun o => decide (o.queue = q))) && (match Table.get? s.hub.queues q with
    | some x => decide (x.flush = some []) && decide (x.retire = 0)
    | none => true)

/-- A QUEUE.DESTROY examines what it can reach by now of its ring, and completes when the queue has nothing left (R333). -/
def destroyTurn (s : State) : Option State :=
  match s.hub.adminWait with
  | .destroy q cw => (flushQueue q s).orElse (fun _ =>
    if queueGone s q then some (adminEnd (s.modHub (fun h => { h with queues := Table.erase h.queues q })) cw) else none)
  | .none | .teardown _ _ | .reset _ _ => none

/-- The hub's next turn that no row of the table makes: the fields of a new queue's block, a completion, a FENCE, a word presented again, the end of a
QUEUE.DESTROY, and packets that are rejected by their kind. -/
def hubTurn (s : State) : Option State :=
  ((Table.keys s.hub.queues).findSome? (fillBlock s)).orElse (fun _ =>
    (s.hub.ops.findSome? (opTurn s)).orElse (fun _ =>
      (destroyTurn s).orElse (fun _ =>
        (adminStray s).orElse (fun _ => (Table.keys s.hub.queues).findSome? (rejectReserved s)))))

end Sys2Proof.Machine
end

