-- ==== Sys2Proof/Machine/World.lean ====
section
/-! DEFINITION. Errors (R279), the security alarm (R339), the watchdog (R336), power (R340), the Helas ports (R320 to R322),
the host port and its registers (R323 to R325), bring-up (R341) and provisioning (R338). -/

namespace Sys2Proof.Machine

/-! Uncorrectable errors (R279). -/

/-- The group in a slot changed, where there is one and it satisfies a test. -/
def onLive (s : State) (c slot : Nat) (ok : Group → Bool) (f : Group → Group) : Option State :=
  match s.group? c slot with
  | some g => if ok g then some (s.putGroup c slot (f g)) else none
  | none => none

/-- The ASIDs whose pages lie on a physical range, each once (R279). -/
def asidsAt (s : State) (pa len : Nat) : List Nat :=
  s.hub.pages.foldl (fun l p =>
    if p.pa < pa + len && decide (pa < p.pa + pageBytes p.size) then Table.insertNat l p.asid else l) []

/-- Every ASID of a list lost to an error in a shared structure, each with its event of kind 5 (R283, R325). -/
def loseAsids (structureCode : Nat) (asids : List Nat) (s : State) : State :=
  asids.foldl (fun st a => (doomAsid a 5 st).modHub (fun h =>
    h.addEvent ⟨5, [BitVec.ofNat 64 (a + structureCode * 2 ^ 16)]⟩)) s

/-- Whether a physical unit can be poisoned: device memory, host lines in the caches, a core's scratchpad. -/
def poisonable (pa : Nat) : Bool :=
  decide (pa < Config.reservedEnd) || hostSlot pa ||
  (isMere pa && decide (mereCore pa < Config.cores) && decide (mereAt (mereOffset pa) = .scratch))

/-- The contexts whose save image or spill area holds a physical address (R279, R303). -/
def areaContexts (s : State) (pa : Nat) : List Nat :=
  let within := fun (n len : Nat) => decide (areaPhys n / 64 ≤ pa / 64) && decide (pa / 64 * 64 < areaPhys n + len)
  (s.tasks.filter (fun e => decide (e.2.saved ≠ []) && within (imageOf e.1) e.2.imageBytes.length)).map (fun e => e.2.ctx) ++
  s.cores.flatMap (fun e => (e.2.groups.filter (fun x =>
    (decide (x.2.spilled ≠ []) && within (splitAreaOf e.1 x.1) 832) ||
    (decide (pennantPlaces < pennantDepth x.2) && within (pennantAreaOf e.1 x.1) 1024) ||
    (x.2.out && within (frameAreaOf e.1 x.1) (frameAreaBytes x.2 []).length))).map (fun x => s.ctxOf e.1 x.1))

/-- UNCORRECTABLE_ERROR, by its structure (R279). A unit of memory that holds a save image or a spill area is one of these too:
the context that owns it ends LOST. -/
def uncorrectable (site : ErrSite) (s : State) : Option State :=
  match site with
  | .memory pa =>
    if poisonable pa then
      some ((areaContexts s pa).foldl (fun st ctx => loseContext ctx st) { s with poison := Table.insertNat s.poison (pa / 64) })
    else none
  | .scalar c slot fr n => onLive s c slot
      (fun g => decide (0 < n) && decide (n < 64) && (decide (n < 32) || (Table.get? g.frames fr).isSome))
      (fun g => g.putS fr n { g.readS fr n with poison := true })
  | .vlane c slot fr n lane => onLive s c slot
      (fun g => decide (lane < 32) && decide (n < 128) && (decide (120 ≤ n) || decide (n < 8 * (g.frame fr).grans.length)))
      (fun g => g.putV fr n { g.readV fr n with poison := (g.readV fr n).poison ||| (1#32 <<< lane) })
  | .pred c slot n => onLive s c slot (fun _ => decide (n < 16)) (fun g => g.putP n { g.readP n with poison := true })
  | .tileUnit c slot n unit => onLive s c slot (fun g => decide (unit < 24) && (Table.get? g.tiles n).isSome)
      (fun g => g.putT n { g.readT n with poison := (g.readT n).poison ||| (1#24 <<< unit) })
  | .accQuarter c slot n quarter => onLive s c slot (fun g => decide (quarter < 4) && (Table.get? g.accs n).isSome)
      (fun g => g.putA n { g.readA n with poison := (g.readA n).poison ||| (1#4 <<< quarter) })
  | .chanLane tid ch i lane => match Table.get? s.tasks tid with
    | none => none
    | some t =>
      if decide (i < (chanOf t ch).full.length) && decide (lane < 32) then
        some (s.modTask tid (fun x => { x with chans := Table.modify x.chans ch (fun y => { y with
          full := changeAt y.full i (fun r => { r with poison := r.poison ||| (1#32 <<< lane) }) }) }))
      else none
  | .icacheLine c asid block =>
    if (s.core c).ilines.any (fun l => decide (l.asid = asid) && decide (l.block = block)) then
      some (s.modCore c (fun k => { k with
        ilines := k.ilines.filter (fun l => !(decide (l.asid = asid) && decide (l.block = block))) }))
    else none
  | .tlb c => if c < Config.cores then some s else none
  | .pageTable asid va => match findPage s asid va with
    | some p => some (loseAsids 0 (asidsAt s p.pa (pageBytes p.size)) s)
    | none => none
  | .dieTag pa => if poisonable pa then some (loseAsids 1 (asidsAt s pa 1) s) else none
  | .directory pa => if poisonable pa then some (loseAsids 2 (asidsAt s pa 1) s) else none
  | .tarn i => match s.tarn[i]? with
    | none => none
    | some e => match e.user with
      | .split c slot _ => some (loseContext (s.ctxOf c slot) s)
      | .hub op => match s.hub.ops.find? (fun o => decide (o.id = op)) with
        | some o => some (loseContext (queueWho s o.queue).1 s)
        | none => none
  | .wellhead n => match (Table.get? s.hub.sweeps n).bind (fun w => Table.get? s.tasks w.task) with
    | some t => some (loseContext t.ctx s)
    | none => none
  | .control c => if decide (c < Config.cores) && !(s.core c).inReset then some (coreReset c false s) else none
  | .image tid => match Table.get? s.tasks tid with
    | some t => if t.state = .preempted then some (loseContext t.ctx s) else none
    | none => none
  | .spillArea c slot => match s.group? c slot with
    | some g => if g.out || decide (g.spilled ≠ []) || decide (pennantPlaces < pennantDepth g) then some (loseContext (s.ctxOf c slot) s) else none
    | none => none

/-- UNCORRECTABLE_ERROR (R279). -/
def execUncorrectableError (site : ErrSite) (s : State) : Result := event (uncorrectable site s)

/-! The firmware complex. -/

/-- SECURITY_ALARM: the alarm bit, an event, and the policy (R325, R339). -/
def securityAlarm (sensor : Nat) (s : State) : Option State :=
  if 4 ≤ sensor then none
  else some (s.modHub (fun h => { h.addEvent ⟨2, [BitVec.ofNat 64 (sensor + h.policy * 2 ^ 8), Config.hubClock s.tick]⟩ with
    alarm := true
    halted := h.halted || decide (1 ≤ h.policy)
    zeroised := h.zeroised || decide (h.policy = 2)
    keyed := h.keyed && decide (h.policy ≠ 2) }))

/-- SECURITY_ALARM (R339). -/
def execSecurityAlarm (sensor : Nat) (s : State) : Result := event (securityAlarm sensor s)

/-- A queue's block whose journal word stands, replayed: head is set to nh, the slot before it is emptied, v is cleared
(R336). -/
def replayBlock (s : State) (block : Nat) (slotOf : Nat → Option Nat) : State × Nat :=
  let j := physNat s none (block + 0x28) 8
  if j % 2 = 0 then (s, 0)
  else
    let old := physNat s none (block + 0x18) 8
    let s1 := writeRaw s (cellsOf (block + 0x18) 8 (old / 2 ^ 48 * 2 ^ 48 + j / 2 ^ 16))
    (retirePart (retirePart s1 block slotOf 2) block slotOf 3, 1)

/-- The replay of one queue (R336): nothing of its update is left to write. -/
def replayQueue (s : State) (q : Nat) (x : Queue) : State × Nat :=
  match ringPlace s x with
  | none => (s, 0)
  | some r =>
    let y := replayBlock s r.1 r.2
    (y.1.modHub (fun h => { h with queues := Table.modify h.queues q (fun z => { z with retire := 0 }) }), y.2)

/-- The blocks of the admin queue that a restart examines: the one in force, and the one whose packet's update stands, where that is
another or aen is 0 by now (R335, R336). -/
def adminBlocks (h : Hub) : List Nat :=
  (if h.aen then [h.admq] else []) ++
  (if h.adminRetire ≠ 0 && !(h.aen && decide (h.admq = h.adminAt)) then [h.adminAt] else [])

/-- WATCHDOG_RESTART: every update that stands is replayed, and an event of kind 3 is kept (R325, R336). -/
def watchdogRestart (s : State) : Option State :=
  if !s.hub.ready then none
  else
    let one := fun (r : State × Nat) (x : State × Nat) => (x.1, r.2 + x.2)
    let r1 := s.hub.queues.foldl (fun r e => one r (replayQueue r.1 e.1 e.2)) (s, 0)
    let r2 := (adminBlocks s.hub).foldl (fun r b => one r (replayBlock r.1 b (adminSlot r.1 b))) r1
    let n := min 255 (s.hub.wdog + 1)
    some (r2.1.modHub (fun h => { h.addEvent ⟨3, [BitVec.ofNat 64 n, BitVec.ofNat 64 r2.2]⟩ with wdog := n, adminRetire := 0 }))

/-- WATCHDOG_RESTART (R336). -/
def execWatchdogRestart (s : State) : Result := event (watchdogRestart s)

/-- BRING_UP: the steps of R341 end, and ready is 1. -/
def execBringUp (s : State) : Result :=
  event (if s.hub.ready then none else some (s.modHub (fun h => { h with ready := true })))

/-- POWER_LIMIT_THROTTLE: a core lowers its own clock; no count, cost or result changes (R340). -/
def execPowerLimitThrottle (core : Nat) (s : State) : Result :=
  event (if core < Config.cores then some (s.modCore core (fun k => { k with slowed := true })) else none)

/-- PROVISIONING: the zeroised state ends (R338). -/
def execProvisioning (s : State) : Result :=
  event (if s.hub.zeroised then some (s.modHub (fun h => { h with zeroised := false, keyed := true })) else none)

/-! The Helas ports. -/

/-- The ports of a device (R320). -/
def helasPorts : Nat := 8

/-- A port replaced. -/
def Hub.putPort (h : Hub) (n : Nat) (p : Port) : Hub := { h with ports := Table.set h.ports n p }

/-- HELAS_LINK_CHANGE: an event of kind 6 is kept (R325). -/
def helasLinkChange (port : Nat) (up : Bool) (s : State) : Option State :=
  let p := s.hub.port port
  if helasPorts ≤ port || p.up == up then none
  else some (s.modHub (fun h => (h.putPort port { p with up := up }).addEvent
    ⟨6, [BitVec.ofNat 64 (port + b2n up * 2 ^ 8), BitVec.ofNat 64 (p.refused % 2 ^ 32)]⟩))

/-- HELAS_LINK_CHANGE (R325). -/
def execHelasLinkChange (port : Nat) (up : Bool) (s : State) : Result := event (helasLinkChange port up s)

/-- The cells of a 64-byte unit. -/
def unitCells (pa : Nat) (data : BitVec 512) (poison : Bool) : List (Nat × Byte × Bool) :=
  (cellsOf pa 64 data.toNat).map (fun c => (c.1, c.2, poison))

/-- HELAS_INBOUND_WRITE: performed inside the window of a port whose link is up, else discarded and counted (R321). -/
def helasInboundWrite (port pa : Nat) (data : BitVec 512) (poison : Bool) (s : State) : Option State :=
  let p := s.hub.port port
  if helasPorts ≤ port || decide (pa % 64 ≠ 0) || decide (2 ^ 41 ≤ pa) then none
  else if p.up && decide (p.base ≤ pa) && decide (pa + 64 ≤ p.base + p.len) then
    some (writeCopied s (unitCells pa data poison))
  else some (s.modHub (fun h => h.putPort port { p with refused := p.refused + 1 }))

/-- HELAS_INBOUND_WRITE (R321). -/
def execHelasInboundWrite (port pa : Nat) (data : BitVec 512) (poison : Bool) (s : State) : Result :=
  event (helasInboundWrite port pa data poison s)

/-! The host port. -/

/-- Whether an address lies in the range that firmware keeps (R323, R341). -/
def firmwareKeeps (pa : Nat) : Bool := decide (Config.reservedBase ≤ pa) && decide (pa < Config.reservedEnd)

/-- Whether an address names a 64-byte line of device memory. -/
def deviceLine (pa : Nat) : Bool := decide (pa % 64 = 0) && decide (pa < Config.reservedEnd)

/-- CXL_MEM_READ: the host receives a line and its poison; of the reserved range, zeros marked as poison (R323). -/
def cxlMemRead (pa : Nat) (s : State) : Option State :=
  if !(deviceLine pa) then none
  else
    let got := if firmwareKeeps pa then (0#512, true)
      else (BitVec.ofNat 512 (physNat s none pa 64), physPoison s none pa 64)
    some (s.modHub (fun h => { h with hostReads := h.hostReads ++ [got] }))

/-- CXL_MEM_READ (R323). -/
def execCxlMemRead (pa : Nat) (s : State) : Result := event (cxlMemRead pa s)

/-- CXL_MEM_WRITE: a line of device memory written, with its poison; in the reserved range it is discarded (R323). -/
def cxlMemWrite (pa : Nat) (data : BitVec 512) (poison : Bool) (s : State) : Option State :=
  if !(deviceLine pa) then none
  else if firmwareKeeps pa then some s
  else some (writeCopied s (unitCells pa data poison))

/-- CXL_MEM_WRITE (R323): the row names no poison, so its line comes in clean; a line that comes in poisoned is the
input `hostLine`. -/
def execCxlMemWrite (pa : Nat) (data : BitVec 512) (s : State) : Result := event (cxlMemWrite pa data false s)

/-- An event's bytes 8 to 63 (R325). -/
def eventPayload (e : Event) : List Byte :=
  ((e.payload.flatMap (fun (w : W64) => leBytes 8 w.toNat)) ++ List.replicate 56 0).take 56

/-- EVENT_WRITE: the oldest event goes to the next slot, if its full bit reads 0; vector 1 is signalled (R325). -/
def eventWrite (s : State) : Option State :=
  match s.hub.events with
  | [] => none
  | e :: rest =>
    let slot := eventSlot s.hub
    if !s.hub.ready || s.hub.evsz = 0 || decide (16 < s.hub.evsz) || eventSlotFull s then none
    else
      let s1 := writeCells s (imageCells (slot + 8) (eventPayload e))
      let s2 := writeCells s1 (cellsOf slot 8 (e.kind + 2 ^ 63))
      some (s2.modHub (fun h => { h with events := rest, evNext := h.evNext + 1, msix := h.msix ++ [1] }))

/-- EVENT_WRITE (R325). -/
def execEventWrite (s : State) : Result := event (eventWrite s)

/-- The closed fields of an admin queue's control block at their reset values, which firmware writes when the block is named: head
and the journal word 0, and zeros in the bytes that read as zero (R11, R327, log entry 78). -/
def nameAdmin (block : Nat) (s : State) : State :=
  if hostSlot block && decide (block ≠ s.hub.admq) then writeRaw s (imageCells (block + 0x18) (leBytes 40 0)) else s

/-- ADMQ_WRITE: admq and aen (R324). -/
def execAdmqWrite (value : W64) (s : State) : Result :=
  event (some ((nameAdmin (value.toNat % 2 ^ 52) s).modHub (fun h => { h with
    admq := value.toNat % 2 ^ 52, aen := value.getLsbD 63 })))

/-- ALARM_CLEAR: the alarm bit is W1C (R324). -/
def execAlarmClear (value : W64) (s : State) : Result :=
  event (some (s.modHub (fun h => { h with alarm := h.alarm && !(value.getLsbD 2) })))

/-- BAR0_REGISTER_WRITE: evtq and evsz, after which the ring is written from slot 0; any other byte of BAR0 is RZ
(R324, R325). The registers of offset 0 and 8 have rows of their own. -/
def bar0RegisterWrite (offset : Nat) (value : W64) (s : State) : Option State :=
  if offset = 0 || offset = 8 || decide (4096 ≤ offset) || decide (offset % 8 ≠ 0) then none
  else if offset = 0x10 then
    some (s.modHub (fun h => { h with
      evtq := value.toNat % 2 ^ 52, evsz := W64.bits value 60 56, evNext := 0 }))
  else some s

/-- BAR0_REGISTER_WRITE (R324). -/
def execBar0RegisterWrite (offset : Nat) (value : W64) (s : State) : Result := event (bar0RegisterWrite offset value s)

end Sys2Proof.Machine
end

