-- ==== Sys2Proof/Machine/Dispatch.lean ====
section
/-! DEFINITION. The dispatch: one arm for each constructor of Instr, each one call of its meaning. -/

namespace Sys2Proof.Machine

/-- One instruction or step of the table on a state. -/
def exec (i : Instr) (s : State) : Host.Outcome State Fault Refusal :=
  match i with
  | .add d a b => Sys2Proof.Machine.execAdd d a b s
  | .sub d a b => Sys2Proof.Machine.execSub d a b s
  | .mul d a b => Sys2Proof.Machine.execMul d a b s
  | .mulh d a b => Sys2Proof.Machine.execMulh d a b s
  | .mulhu d a b => Sys2Proof.Machine.execMulhu d a b s
  | .min d a b => Sys2Proof.Machine.execMin d a b s
  | .max d a b => Sys2Proof.Machine.execMax d a b s
  | .minu d a b => Sys2Proof.Machine.execMinu d a b s
  | .maxu d a b => Sys2Proof.Machine.execMaxu d a b s
  | .div d a b => Sys2Proof.Machine.execDiv d a b s
  | .divu d a b => Sys2Proof.Machine.execDivu d a b s
  | .rem d a b => Sys2Proof.Machine.execRem d a b s
  | .remu d a b => Sys2Proof.Machine.execRemu d a b s
  | .and d a b => Sys2Proof.Machine.execAnd d a b s
  | .or d a b => Sys2Proof.Machine.execOr d a b s
  | .xor d a b => Sys2Proof.Machine.execXor d a b s
  | .andn d a b => Sys2Proof.Machine.execAndn d a b s
  | .shl d a b => Sys2Proof.Machine.execShl d a b s
  | .shr d a b => Sys2Proof.Machine.execShr d a b s
  | .sar d a b => Sys2Proof.Machine.execSar d a b s
  | .rol d a b => Sys2Proof.Machine.execRol d a b s
  | .clz d a => Sys2Proof.Machine.execClz d a s
  | .popc d a => Sys2Proof.Machine.execPopc d a s
  | .mov d a => Sys2Proof.Machine.execMov d a s
  | .cmp cc d a b => Sys2Proof.Machine.execCmp cc d a b s
  | .sel d a b sel => Sys2Proof.Machine.execSel d a b sel s
  | .addi d a imm => Sys2Proof.Machine.execAddi d a imm s
  | .andi d a imm => Sys2Proof.Machine.execAndi d a imm s
  | .ori d a imm => Sys2Proof.Machine.execOri d a imm s
  | .xori d a imm => Sys2Proof.Machine.execXori d a imm s
  | .shli d a n => Sys2Proof.Machine.execShli d a n s
  | .shri d a n => Sys2Proof.Machine.execShri d a n s
  | .sari d a n => Sys2Proof.Machine.execSari d a n s
  | .li d imm => Sys2Proof.Machine.execLi d imm s
  | .lih d imm => Sys2Proof.Machine.execLih d imm s
  | .bz idx off => Sys2Proof.Machine.execBz idx off s
  | .bnz idx off => Sys2Proof.Machine.execBnz idx off s
  | .brv idx off => Sys2Proof.Machine.execBrv idx off s
  | .jmp off => Sys2Proof.Machine.execJmp off s
  | .call demand off => Sys2Proof.Machine.execCall demand off s
  | .callr demand a => Sys2Proof.Machine.execCallr demand a s
  | .jr a => Sys2Proof.Machine.execJr a s
  | .ret => Sys2Proof.Machine.execRet s
  | .unwind a => Sys2Proof.Machine.execUnwind a s
  | .fgrow k => Sys2Proof.Machine.execFgrow k s
  | .fshrink k => Sys2Proof.Machine.execFshrink k s
  | .meet => Sys2Proof.Machine.execMeet s
  | .ld w d a => Sys2Proof.Machine.execLd w d a s
  | .lds w d a => Sys2Proof.Machine.execLds w d a s
  | .st w d a => Sys2Proof.Machine.execSt w d a s
  | .amo op w sc d a => Sys2Proof.Machine.execAmo op w sc d a s
  | .cas w sc d a => Sys2Proof.Machine.execCas w sc d a s
  | .vamo op sc d a => Sys2Proof.Machine.execVamo op sc d a s
  | .fld sc d a => Sys2Proof.Machine.execFld sc d a s
  | .ftake sc d a => Sys2Proof.Machine.execFtake sc d a s
  | .fput sc d a => Sys2Proof.Machine.execFput sc d a s
  | .ffill sc d a => Sys2Proof.Machine.execFfill sc d a s
  | .fence k sc => Sys2Proof.Machine.execFence k sc s
  | .vadd t d a b => Sys2Proof.Machine.execVadd t d a b s
  | .vsub t d a b => Sys2Proof.Machine.execVsub t d a b s
  | .vmul t d a b => Sys2Proof.Machine.execVmul t d a b s
  | .vfma t d a b => Sys2Proof.Machine.execVfma t d a b s
  | .vmin t d a b => Sys2Proof.Machine.execVmin t d a b s
  | .vmax t d a b => Sys2Proof.Machine.execVmax t d a b s
  | .vabs t d a => Sys2Proof.Machine.execVabs t d a s
  | .vneg t d a => Sys2Proof.Machine.execVneg t d a s
  | .vand d a b => Sys2Proof.Machine.execVand d a b s
  | .vor d a b => Sys2Proof.Machine.execVor d a b s
  | .vxor d a b => Sys2Proof.Machine.execVxor d a b s
  | .vshl d a b => Sys2Proof.Machine.execVshl d a b s
  | .vshr d a b => Sys2Proof.Machine.execVshr d a b s
  | .vsar d a b => Sys2Proof.Machine.execVsar d a b s
  | .vsrrI32 d a b => Sys2Proof.Machine.execVsrrI32 d a b s
  | .vsrrI16x2 d a b => Sys2Proof.Machine.execVsrrI16x2 d a b s
  | .vdot2I16 d a b => Sys2Proof.Machine.execVdot2I16 d a b s
  | .vadd2I16 d a b => Sys2Proof.Machine.execVadd2I16 d a b s
  | .vcvt dt st d a => Sys2Proof.Machine.execVcvt dt st d a s
  | .vrcp d a => Sys2Proof.Machine.execVrcp d a s
  | .vrsq d a => Sys2Proof.Machine.execVrsq d a s
  | .vexp2 d a => Sys2Proof.Machine.execVexp2 d a s
  | .vlog2 d a => Sys2Proof.Machine.execVlog2 d a s
  | .vdiv d a b => Sys2Proof.Machine.execVdiv d a b s
  | .vdivu d a b => Sys2Proof.Machine.execVdivu d a b s
  | .vrem d a b => Sys2Proof.Machine.execVrem d a b s
  | .vremu d a b => Sys2Proof.Machine.execVremu d a b s
  | .vcmp cc t p a b => Sys2Proof.Machine.execVcmp cc t p a b s
  | .vsel d a b p => Sys2Proof.Machine.execVsel d a b p s
  | .vmov d a => Sys2Proof.Machine.execVmov d a s
  | .vbcast d a => Sys2Proof.Machine.execVbcast d a s
  | .vlane d a lane => Sys2Proof.Machine.execVlane d a lane s
  | .vslide down k d a b => Sys2Proof.Machine.execVslide down k d a b s
  | .vshfl d a b => Sys2Proof.Machine.execVshfl d a b s
  | .vred op t d a => Sys2Proof.Machine.execVred op t d a s
  | .vscan op t d a => Sys2Proof.Machine.execVscan op t d a s
  | .pand d a b => Sys2Proof.Machine.execPand d a b s
  | .por d a b => Sys2Proof.Machine.execPor d a b s
  | .pxor d a b => Sys2Proof.Machine.execPxor d a b s
  | .pnot d a => Sys2Proof.Machine.execPnot d a s
  | .pcnt d a => Sys2Proof.Machine.execPcnt d a s
  | .vld w d a => Sys2Proof.Machine.execVld w d a s
  | .vst w d a => Sys2Proof.Machine.execVst w d a s
  | .vldc w d a => Sys2Proof.Machine.execVldc w d a s
  | .vstc w d a => Sys2Proof.Machine.execVstc w d a s
  | .touch a => Sys2Proof.Machine.execTouch a s
  | .mfmt a => Sys2Proof.Machine.execMfmt a s
  | .mm d a b => Sys2Proof.Machine.execMm d a b s
  | .mmm d a b => Sys2Proof.Machine.execMmm d a b s
  | .tld d a => Sys2Proof.Machine.execTld d a s
  | .aclr d => Sys2Proof.Machine.execAclr d s
  | .aget d a => Sys2Proof.Machine.execAget d a s
  | .aput d a => Sys2Proof.Machine.execAput d a s
  | .cpy d a b => Sys2Proof.Machine.execCpy d a b s
  | .cpy2 d a => Sys2Proof.Machine.execCpy2 d a s
  | .take d => Sys2Proof.Machine.execTake d s
  | .push a ch => Sys2Proof.Machine.execPush a ch s
  | .pop d ch => Sys2Proof.Machine.execPop d ch s
  | .spawn d a b => Sys2Proof.Machine.execSpawn d a b s
  | .join d => Sys2Proof.Machine.execJoin d s
  | .done => Sys2Proof.Machine.execDone s
  | .grant d a b => Sys2Proof.Machine.execGrant d a b s
  | .signal a => Sys2Proof.Machine.execSignal a s
  | .cancel d a => Sys2Proof.Machine.execCancel d a s
  | .enq d a b => Sys2Proof.Machine.execEnq d a b s
  | .yield => Sys2Proof.Machine.execYield s
  | .mfs d sr => Sys2Proof.Machine.execMfs d sr s
  | .mts sr a => Sys2Proof.Machine.execMts sr a s
  | .trap code => Sys2Proof.Machine.execTrap code s
  | .eret => Sys2Proof.Machine.execEret s
  | .waitc loads stores copies matrix => Sys2Proof.Machine.execWaitc loads stores copies matrix s
  | .nop => Sys2Proof.Machine.execNop s
  | .ipf off => Sys2Proof.Machine.execIpf off s
  | .safe code => Sys2Proof.Machine.execSafe code s
  | .enter region => Sys2Proof.Machine.execEnter region s
  | .leave => Sys2Proof.Machine.execLeave s
  | .brk code => Sys2Proof.Machine.execBrk code s
  | .rdctr d ctr => Sys2Proof.Machine.execRdctr d ctr s
  | .illegalInstruction word => Sys2Proof.Machine.execIllegalInstruction word s
  | .meetBoundExpiry core slot entry => Sys2Proof.Machine.execMeetBoundExpiry core slot entry s
  | .splitFusion core slot older younger => Sys2Proof.Machine.execSplitFusion core slot older younger s
  | .splitRefill core slot => Sys2Proof.Machine.execSplitRefill core slot s
  | .splitRotation core slot => Sys2Proof.Machine.execSplitRotation core slot s
  | .frameGrant core => Sys2Proof.Machine.execFrameGrant core s
  | .escapeSpill core => Sys2Proof.Machine.execEscapeSpill core s
  | .escapeRefill core => Sys2Proof.Machine.execEscapeRefill core s
  | .activeSetAdmit core side => Sys2Proof.Machine.execActiveSetAdmit core side s
  | .icacheLineFill core line => Sys2Proof.Machine.execIcacheLineFill core line s
  | .loadReturn core slot op => Sys2Proof.Machine.execLoadReturn core slot op s
  | .storePerformed core op => Sys2Proof.Machine.execStorePerformed core op s
  | .waitcResume core slot entry => Sys2Proof.Machine.execWaitcResume core slot entry s
  | .copyComplete core op => Sys2Proof.Machine.execCopyComplete core op s
  | .copyCancelReport core op => Sys2Proof.Machine.execCopyCancelReport core op s
  | .matrixDrain core slot op residue dual => Sys2Proof.Machine.execMatrixDrain core slot op residue dual s
  | .tldComplete core slot op => Sys2Proof.Machine.execTldComplete core slot op s
  | .mmmRerun core slot op => Sys2Proof.Machine.execMmmRerun core slot op s
  | .faultRingRoom => Sys2Proof.Machine.execFaultRingRoom s
  | .faultRecordService => Sys2Proof.Machine.execFaultRecordService s
  | .backingCopyComplete copy => Sys2Proof.Machine.execBackingCopyComplete copy s
  | .faultReply reply => Sys2Proof.Machine.execFaultReply reply s
  | .tarnRetry core slot entry => Sys2Proof.Machine.execTarnRetry core slot entry s
  | .enqDeadline core slot entry => Sys2Proof.Machine.execEnqDeadline core slot entry s
  | .joinComplete core slot entry => Sys2Proof.Machine.execJoinComplete core slot entry s
  | .taskResident core => Sys2Proof.Machine.execTaskResident core s
  | .crewStart core => Sys2Proof.Machine.execCrewStart core s
  | .drainingComplete task => Sys2Proof.Machine.execDrainingComplete task s
  | .returnDelivery msg => Sys2Proof.Machine.execReturnDelivery msg s
  | .grantApply msg => Sys2Proof.Machine.execGrantApply msg s
  | .signalApply msg => Sys2Proof.Machine.execSignalApply msg s
  | .cancelApply msg => Sys2Proof.Machine.execCancelApply msg s
  | .unwindOrder task => Sys2Proof.Machine.execUnwindOrder task s
  | .unwindingComplete task => Sys2Proof.Machine.execUnwindingComplete task s
  | .crewSave task => Sys2Proof.Machine.execCrewSave task s
  | .forcedSave task => Sys2Proof.Machine.execForcedSave task s
  | .crewRestore core => Sys2Proof.Machine.execCrewRestore core s
  | .stampRecordWrite task tile => Sys2Proof.Machine.execStampRecordWrite task tile s
  | .mereWriteLand core op => Sys2Proof.Machine.execMereWriteLand core op s
  | .releaseMarkerComplete core marker => Sys2Proof.Machine.execReleaseMarkerComplete core marker s
  | .uncorrectableError site => Sys2Proof.Machine.execUncorrectableError site s
  | .coreReturnToService core => Sys2Proof.Machine.execCoreReturnToService core s
  | .securityAlarm sensor => Sys2Proof.Machine.execSecurityAlarm sensor s
  | .watchdogRestart => Sys2Proof.Machine.execWatchdogRestart s
  | .bringUp => Sys2Proof.Machine.execBringUp s
  | .powerLimitThrottle core => Sys2Proof.Machine.execPowerLimitThrottle core s
  | .helasLinkChange port up => Sys2Proof.Machine.execHelasLinkChange port up s
  | .helasInboundWrite port pa data poison => Sys2Proof.Machine.execHelasInboundWrite port pa data poison s
  | .cxlMemRead pa => Sys2Proof.Machine.execCxlMemRead pa s
  | .cxlMemWrite pa data => Sys2Proof.Machine.execCxlMemWrite pa data s
  | .eventWrite => Sys2Proof.Machine.execEventWrite s
  | .admqWrite value => Sys2Proof.Machine.execAdmqWrite value s
  | .alarmClear value => Sys2Proof.Machine.execAlarmClear value s
  | .bar0RegisterWrite offset value => Sys2Proof.Machine.execBar0RegisterWrite offset value s
  | .launch q p => Sys2Proof.Machine.execLaunch q p s
  | .sweep q p => Sys2Proof.Machine.execSweep q p s
  | .copy q p => Sys2Proof.Machine.execCopy q p s
  | .hubCopyComplete op => Sys2Proof.Machine.execHubCopyComplete op s
  | .waitword q p => Sys2Proof.Machine.execWaitword q p s
  | .fillword q p => Sys2Proof.Machine.execFillword q p s
  | .captureStart q p => Sys2Proof.Machine.execCaptureStart q p s
  | .captureStop q p => Sys2Proof.Machine.execCaptureStop q p s
  | .grantPacket q p => Sys2Proof.Machine.execGrantPacket q p s
  | .inval q p => Sys2Proof.Machine.execInval q p s
  | .cancelPacket q p => Sys2Proof.Machine.execCancelPacket q p s
  | .fencePacket q p => Sys2Proof.Machine.execFencePacket q p s
  | .ctxCreate p => Sys2Proof.Machine.execCtxCreate p s
  | .ctxSet p => Sys2Proof.Machine.execCtxSet p s
  | .queueCreate p => Sys2Proof.Machine.execQueueCreate p s
  | .queueDestroy p => Sys2Proof.Machine.execQueueDestroy p s
  | .map p => Sys2Proof.Machine.execMap p s
  | .protect p => Sys2Proof.Machine.execProtect p s
  | .asidTeardown p => Sys2Proof.Machine.execAsidTeardown p s
  | .asidRecycle asid => Sys2Proof.Machine.execAsidRecycle asid s
  | .preempt p => Sys2Proof.Machine.execPreempt p s
  | .coreReset p => Sys2Proof.Machine.execCoreReset p s
  | .counters p => Sys2Proof.Machine.execCounters p s
  | .debugSetStop p => Sys2Proof.Machine.execDebugSetStop p s
  | .debugClearStop p => Sys2Proof.Machine.execDebugClearStop p s
  | .debugHaltCommand p => Sys2Proof.Machine.execDebugHaltCommand p s
  | .debugRead p => Sys2Proof.Machine.execDebugRead p s
  | .debugStageEdit p => Sys2Proof.Machine.execDebugStageEdit p s
  | .debugCommit p => Sys2Proof.Machine.execDebugCommit p s
  | .debugResume p => Sys2Proof.Machine.execDebugResume p s
  | .attest p => Sys2Proof.Machine.execAttest p s
  | .alarmPolicy p => Sys2Proof.Machine.execAlarmPolicy p s
  | .powerLimit p => Sys2Proof.Machine.execPowerLimit p s
  | .helasWindow p => Sys2Proof.Machine.execHelasWindow p s
  | .provisioning => Sys2Proof.Machine.execProvisioning s

end Sys2Proof.Machine
end

