-- ==== Sys2Proof/Machine/Schedule.lean ====
section
/-! DEFINITION. What happens next: the fetch of an instruction (R40, R92, R130, R211), the choice of an issuing split (R130
to R132), the steps that happen at once, and the choice among agents (log entry 3). -/

namespace Sys2Proof.Machine

/-! Fetch. -/

/-- What the fetch of a split's instruction comes to. -/
inductive Fetch where
  /-- positions 1 and 2 of R40 -/
  | trap (cause : Nat)
  /-- a page that is not resident (R211) -/
  | absent
  /-- the block is not in the instruction cache (R130) -/
  | miss
  /-- the word, and whether it is poisoned (R40 position 3) -/
  | word (w : Nat) (poison : Bool)
  deriving DecidableEq, Repr

/-- The cache line that holds an address. -/
def Core.line (k : Core) (asid pc : Nat) : Option ILine :=
  k.ilines.find? (fun l => decide (l.asid = asid) && decide (l.block = pc / 256))

/-- The word of a line at an address. -/
def ILine.wordAt (l : ILine) (pc : Nat) : Nat := leNat ((l.bytes.drop (pc % 256)).take 4)

/-- Whether a core has still to make its first fetch from a page since the page last moved (R299). -/
def Core.unseen (k : Core) (p : Page) : Bool := decide (p.moves ≠ 0) && !(k.seen.contains (p.asid, p.va, p.moves))

/-- The fetch at a PC: the first from a page that was migrated or evicted is one from a page that is not there (R40, R130,
R299). -/
def fetchAt (s : State) (c asid pc : Nat) : Fetch :=
  match codePage s asid pc with
  | none => .trap 6
  | some p =>
    if !p.x then .trap 9
    else if (s.core c).unseen p then .absent
    else match (s.core c).line asid pc with
      | some l => .word (l.wordAt pc) (l.poison.getD (pc % 256 / 4) false)
      | none => if p.res then .miss else .absent

/-- The fetch of a split's instruction. -/
def View.fetch (v : View) (s : State) : Fetch := fetchAt s v.sel.core v.task.asid v.split.pc.toNat

/-- A fetch that misses: `slip` counts it, and the block is requested (R24, R130). -/
def missFetch (v : View) (s : State) : State :=
  ((s.onGroup v.sel (fun g => { g with
    slip := bumpStop g.slip
    splits := changeAt g.splits v.sel.idx (fun sp => { sp with missing := true }) })).requestLine v.sel.core v.task.asid
      (v.split.pc.toNat / 256)).signal v.sel.core v.task.ctx 6

/-- The page of an address noted as seen by a core (R299). -/
def State.seePage (s : State) (c asid pc : Nat) : State :=
  match codePage s asid pc with
  | some p => if (s.core c).unseen p then s.modCore c (fun k => { k with seen := k.seen ++ [(p.asid, p.va, p.moves)] }) else s
  | none => s

/-- A fetch from a page that is not resident, or has moved: a record of kind 3, and the split parks (R211, R299). -/
def parkFetch (v : View) (s : State) : State :=
  ((s.addRecords v.sel.core v.who 3 0 [v.split.pc.toNat]).seePage v.sel.core v.task.asid v.split.pc.toNat).onSplit v.sel
    (fun sp => { sp with state := .parked, wait := .fetch 1 })

/-- Whether a split's turn ends with its fetch, before anything issues (R130, R211). -/
def fetchOnly (s : State) (v : View) : Bool :=
  match v.fetch s with
  | .absent | .miss => true
  | .trap _ | .word _ _ => false

/-- The selected split's turn: it issues its instruction, traps at its fetch, or waits for its line. -/
def runSelected (sel : Sel) (s : State) : Result :=
  match s.view? with
  | none => .fault .noSplit
  | some v => match v.fetch s with
    | .trap cause => .next (takeTrap sel cause v.split.pc s).endCycle
    | .absent => .next (parkFetch v s)
    | .miss => .next (missFetch v s)
    | .word w poison =>
      if poison then .next (takeTrap sel 2 v.split.pc s).endCycle
      else match decodeWord w with
        | some i => exec i s
        | none => exec (.illegalInstruction (BitVec.ofNat 32 w)) s

/-- A group chosen for a cycle: it goes behind the others of its level, and the cycle is one of its issue opportunities
(R125, R131). -/
def State.bookGroup (s : State) (sel : Sel) : State :=
  s.onGroup sel (fun g => { g with lastIssue := s.tick + 1, opps := g.opps + 1 })

/-- A split selected for a cycle of its own; one that only fetches takes none. -/
def runSplit (sel : Sel) (s : State) : Result :=
  let fetches := match s.viewAt sel with
    | some v => fetchOnly s v
    | none => false
  runSelected sel { (if fetches then s else s.bookGroup sel) with cur := some sel, together := none }

/-! Several splits of one group in one cycle (R54, R61, R95, R132, R133, R176). -/

/-- Whether an entry is a split chosen at the start of a cycle, which has not had its turn. -/
def isChosen (sp x : Split) : Bool := decide (x.mask = sp.mask) && decide (x.pc = sp.pc) && decide (x.state = .ready)

/-- A group in which a chosen split that another's divergence has spilled stands at the end of the resident list, for its
turn in the same cycle (R132, R133). -/
def Group.lend (g : Group) (k : Nat) : Group :=
  match g.spilled[k]? with
  | some sp => { g with splits := g.splits ++ [sp], spilled := dropAt g.spilled k }
  | none => g

/-- The group after that turn: the split, if its entry stands, is back in its place of the spill area (R123). -/
def Group.stowBack (g : Group) (k now : Nat) (mask : W32) : Group :=
  match findPos (fun (x : Split) => decide (x.mask = mask)) g.splits with
  | some i => match g.splits[i]? with
    | some x => { g with splits := dropAt g.splits i, spilled := g.spilled.take k ++ x.stow now :: g.spilled.drop k }
    | none => g
  | none => g

/-- The counters see how many of the splits chosen for a group's cycle have issued in it (R311). -/
def State.markShared (first : Sel) (parts : List (Sel × Split)) (s : State) : State :=
  let waits := fun (sp : Split) => match s.group? first.core first.slot with
    | some g => g.entries.any (fun y => decide (y.mask = sp.mask) && decide (y.lastIssue ≠ s.tick + 1))
    | none => false
  let n := (parts.filter (fun e => !(waits e.2))).length
  if n < 2 then s
  else s.raise first.core (s.ctxOf first.core first.slot) ((1#64 <<< 3) ||| (if n = 4 then 1#64 <<< 4 else 0))

/-- Whether an entry has met in the present cycle with a bound of 0, and nothing of the cycle has met it (R120). -/
def metAlone (s : State) (g : Group) (sp : Split) : Bool :=
  decide (sp.state = .meet) && decide (sp.mrem = 0) && decide (sp.lastIssue = s.tick + 1) && !(g.meets sp)

/-- The splits of a group that met in a shared cycle with a bound of 0, and that nothing of the cycle has met, go on alone, those
that the cycle has spilled too (R120). -/
def expireMet (c slot : Nat) : Nat → State → State
  | 0, s => s
  | n + 1, s => match s.group? c slot with
    | none => s
    | some g => match findPos (metAlone s g) g.splits, findPos (metAlone s g) g.spilled with
      | some i, _ => expireMet c slot n ((s.putGroup c slot (g.expire i)).signal c (s.ctxOf c slot) 9)
      | none, some k =>
        expireMet c slot n (((s.putGroup c slot (g.expireSpilled k)).syncArea c slot g).signal c (s.ctxOf c slot) 9)
      | none, none => s

/-- The end of the turns of a shared cycle: `sat` is set where the cycle's instructions clipped, or where it was set and no MTS
of the cycle cleared it (R95); a MEET's bound of 0 ends with the cycle (R120). Where the core's other side issues in the cycle
too, how many splits have issued shows at its end. -/
def endShared (first : Sel) (parts : List (Sel × Split)) (x : Together) (s : State) : State :=
  let s1 := expireMet first.core first.slot 32 ({ s with together := none }.onGroup first (fun g => { g with
    sat := g.sat || (x.before.sat && !(x.clears.getD false)) }))
  (if s.hold then s1 else s1.markShared first parts).endCycle

/-- The turn of a chosen split in a shared cycle, where it now stands: in the table, or spilled in this cycle. -/
def turnOf (sel : Sel) (sp : Split) (t : State) : Result :=
  match t.group? sel.core sel.slot with
  | none => .fault .noSplit
  | some g => match findPos (isChosen sp) g.splits, findPos (isChosen sp) g.spilled with
    | some n, _ => runSelected { sel with idx := n } { t with cur := some { sel with idx := n } }
    | none, some k =>
      let at' : Sel := { sel with idx := g.splits.length }
      match runSelected at' { (t.onGroup sel (fun x => x.lend k)) with cur := some at' } with
      | .next t' => .next ((t'.onGroup sel (fun x => x.stowBack k (t.cyc sel.core) sp.mask)).storeSplitArea sel.core sel.slot)
      | .fault f => .fault f
      | .refused r => .refused r
    | none, none => .fault .noSplit

/-- The splits chosen for a cycle take effect in ascending order of lowest lane. Where one traps, it alone has its turn, from
the state `s` that the cycle found (R54). One whose task has stopped does not issue (R176). -/
def runShared (s : State) (first : Sel) (parts : List (Sel × Split)) : List (Sel × Split) → Together → State → Result
  | [], x, t => .next (endShared first parts x t)
  | (sel, sp) :: rest, x, t =>
    match turnOf sel sp t with
    | .next t' => match t'.together with
      | some x' => if x'.trapped then runSplit sel s else runShared s first parts rest x' t'
      | none => .next t'
    | .fault _ | .refused _ => runShared s first parts rest x t

/-- The splits at some places, each with its place. -/
def splitsAt (s : State) (sels : List Sel) : List (Sel × Split) :=
  sels.filterMap (fun e => (s.viewAt e).map (fun v => (e, v.split)))

/-- A cycle that several splits of one group share. -/
def runTogether (sels : List Sel) (s : State) : Result :=
  match sels with
  | [] => .fault .noSplit
  | sel :: _ => match s.group? sel.core sel.slot with
    | none => .fault .noSplit
    | some g =>
      let k := s.core sel.core
      let x : Together := ⟨g, k.loads, k.copies, k.mats, [], [], [], none, false⟩
      let parts := splitsAt s sels
      runShared s sel parts parts x ({ s.bookGroup sel with together := some x }.onGroup sel (fun y => { y with
        sat := false }))

/-- The turn of one side of a core: one split of a group, or several. -/
def runSide (sels : List Sel) (s : State) : Result :=
  match sels with
  | [sel] => runSplit sel s
  | _ => runTogether sels s

/-- The instruction that a selected split issues, if its fetch brings one. -/
def instrAt (s : State) (sel : Sel) : Option (View × Instr) :=
  match s.viewAt sel with
  | none => none
  | some v => match v.fetch s with
    | .word w false => (decodeWord w).map (fun i => (v, i))
    | .word _ true | .trap _ | .absent | .miss => none

/-- What the splits selected by a side ask of frame storage, as the cycle finds them: those that get as far as their demand, in
ascending order of lowest lane (R81). -/
def demandsOf (s : State) (sels : List Sel) : List (Nat × Bool) :=
  sels.filterMap (fun e => match instrAt s e with
    | some (v, i) =>
      if (shapeTrap v i).isNone && (matrixDelivery v i).isNone && (poisonDelivery v i).isNone && !(heldBack v.core v i) &&
         wouldIssue v i then frameDemand v i
      else none
    | none => none)

/-- The demands of a core's side 1 that stand before those of side 0 in one cycle: its group has the lower slot (R81). -/
def demandsAhead (s : State) (a b : List Sel) : List (Nat × Bool) :=
  if (b.head?.map Sel.slot).getD 0 < (a.head?.map Sel.slot).getD 0 then demandsOf s b else []

/-- The end of a cycle of a core in which both sides have issued: its frame requests are granted as far as they fit by now and
its channels are served, each in the order of the rules (R81, R138), and the counters see how many splits have issued (R311).
`s0` is the state that the cycle found. -/
def endSides (c : Nat) (sides : List (List Sel)) (s0 s : State) : State :=
  let s1 := serveCycle c s0 (grantShared c s0 (s.core c).requests.length s)
  let s2 := sides.foldl (fun st sels => match sels with
    | [] => st
    | sel :: _ => st.markShared sel (splitsAt s0 sels)) s1
  { s2 with hold := false, ahead := [] }.advance

/-- A cycle of a core in which its sides issue one after another, each from what the one before has left: debits are in their
order (R131, R176). -/
def runSides (sides : List (List Sel)) (s : State) : Result :=
  match sides with
  | [sels] => runSide sels s
  | [a, b] =>
    let turn := fun (sels : List Sel) (ahead : List (Nat × Bool)) (st : State) =>
      match runSide sels { st with hold := true, ahead := ahead } with
      | .next st' => st'
      | .fault _ | .refused _ => st
    .next (endSides ((sides.flatten.head?.map Sel.core).getD 0) sides s (turn b [] (turn a (demandsAhead s a b) s)))
  | _ => .fault .noSplit

/-! The choice of the issuing split (R130 to R132). -/

/-- Whether an instruction waits only because an engine is full (R265). -/
def engineWaits (v : View) : Instr → Bool
  | .cpy _ _ _ | .cpy2 _ _ => decide (Config.copyOps ≤ v.core.copies.length)
  | _ => false

/-- Whether an instruction's issue would come to something: a trap or a delivery, or sources and destinations clear
(R130, R258, R281). -/
def issueReady (v : View) (i : Instr) : Bool :=
  (shapeTrap v i).isSome || (matrixDelivery v i).isSome || (poisonDelivery v i).isSome ||
  (!(heldBack v.core v i) && !(engineWaits v i))

/-- Whether a split can be selected (R130). -/
def selectable (s : State) (v : View) : Bool :=
  v.live && !v.split.missing && (match v.fetch s with
    | .trap _ | .absent | .miss => true
    | .word w poison => poison || (match decodeWord w with
      | some i => issueReady v i
      | none => true))

/-- The resident splits of a group that can be selected, each with its place. -/
def selectables (s : State) (c slot : Nat) (g : Group) : List View :=
  (upto g.splits.length).filterMap (fun i => match s.viewAt ⟨c, slot, i⟩ with
    | some v => if selectable s v then some v else none
    | none => none)

/-- A split placed before the first that issued later than it: least recent first, table order else (R132). -/
def insertRecent (v : View) : List View → List View
  | [] => [v]
  | w :: ws => if v.split.lastIssue < w.split.lastIssue then v :: w :: ws else w :: insertRecent v ws

/-- A split placed by its lowest lane (R133). -/
def insertLane (v : View) : List View → List View
  | [] => [v]
  | w :: ws => if lowLane v.m < lowLane w.m then v :: w :: ws else w :: insertLane v ws

/-- Splits taken in order while their slices are disjoint from those of the ones taken, four at most (R132). -/
def takeDisjoint (l : List View) : List View :=
  l.foldl (fun (chosen : List View) v =>
    if chosen.length < 4 && chosen.all (fun w => (slicesOf v.m).all (fun k => !((slicesOf w.m).contains k))) then chosen ++ [v]
    else chosen) []

/-- The splits of a group that have the next turn: one that only fetches, or those that issue in one cycle, in ascending
order of lowest lane (R132, R133). -/
def splitChoice (s : State) (l : List View) : List Sel :=
  match l.find? (fetchOnly s) with
  | some v => [v.sel]
  | none => ((takeDisjoint (l.foldl (fun a v => insertRecent v a) [])).foldl (fun a v => insertLane v a) []).map View.sel

/-- Whether a split's group stands before another's (R131): higher priority, then less recently chosen, then lower
slot. -/
def groupBefore (a b : View) : Bool :=
  decide (b.task.prio < a.task.prio) || (decide (a.task.prio = b.task.prio) &&
    (decide (a.group.lastIssue < b.group.lastIssue) ||
      (decide (a.group.lastIssue = b.group.lastIssue) && decide (a.sel.slot < b.sel.slot))))

/-- The first of a list of splits by their groups. -/
def firstGroup : List View → Option View
  | [] => none
  | v :: vs => match firstGroup vs with
    | some w => some (if groupBefore w v then w else v)
    | none => some v

/-- The splits that a side of a core selects, of one group (R131, R132). -/
def sideChoice (s : State) (c side : Nat) : Option (List Sel) :=
  let k := s.core c
  let active := k.groups.filter (fun e => decide (e.1 % 2 = side) && k.active.any (fun a => decide (a.1 = e.1)))
  (firstGroup (active.filterMap (fun e => (selectables s c e.1 e.2).head?))).map
    (fun v => splitChoice s (selectables s c v.sel.slot v.group))

/-- What a core issues in its next cycle: one split of a side that only fetches, which takes no cycle, or what both sides
select, side 0 first (R131, R176). -/
def coreChoice (s : State) (c : Nat) : Option (List (List Sel)) :=
  let fetches := fun (l : List Sel) => match l with
    | [sel] => ((s.viewAt sel).map (fetchOnly s)).getD false
    | _ => false
  match (sideChoice s c 0).toList ++ (sideChoice s c 1).toList with
  | [] => none
  | [a, b] =>
    if fetches a then some [a] else if fetches b then some [b] else some [a, b]
  | l => some l

/-- The splits that may issue next, for each core. -/
def issueChoices (s : State) : List (List (List Sel)) :=
  if s.hub.halted then [] else (Table.keys s.cores).filterMap (coreChoice s)

/-! Steps that happen at once. -/

/-- The next state of an outcome that has one. -/
def asNext : Result → Option State
  | .next s => some s
  | .fault _ => none
  | .refused _ => none

/-- The steps of a group that happen at once. -/
def groupTurns (c slot : Nat) (g : Group) : List Instr :=
  let n := g.splits.length
  (upto n).flatMap (fun i => (upto n).filterMap (fun j => if i < j then some (Instr.splitFusion c slot i j) else none)) ++
  [.splitRefill c slot] ++ (upto n).map (fun i => Instr.meetBoundExpiry c slot i) ++
  (upto g.entries.length).flatMap (fun e => [Instr.waitcResume c slot e, .joinComplete c slot e, .enqDeadline c slot e,
    .tarnRetry c slot e])

/-- The steps of a core that happen at once, groups first; a grant comes before an escape spill, and a refill of the
active set before the rotation of split tables. -/
def coreTurns (s : State) (c : Nat) : List Instr :=
  let k := s.core c
  k.groups.flatMap (fun e => groupTurns c e.1 e.2) ++
  [.taskResident c, .activeSetAdmit c 0, .activeSetAdmit c 1, .frameGrant c, .escapeRefill c, .escapeSpill c] ++
  k.groups.map (fun e => Instr.splitRotation c e.1)

/-- The steps of the tasks that happen at once. -/
def taskTurns (s : State) : List Instr :=
  s.tasks.flatMap (fun e => (if e.2.request.isSome then [Instr.crewSave e.1, .forcedSave e.1] else []) ++
    e.2.tilerecs.map (fun t => Instr.stampRecordWrite e.1 t.number))

/-- Whether a split stands at an MM or MMM of its crew's open tile that may be the tile's first, with every source clear (R307;
which of several counts is DEDUCED, log entry 58). -/
def startsTile (s : State) (v : View) : Bool :=
  v.task.tilerecs.any (fun t => !t.closed && !t.computes && (t.events.getD 2 none).isNone) && v.live &&
  (match instrAt s v.sel with
   | some (_, .mm d a b) => decide (quartersOf v.m ≠ 0) && !(scoreboardHolds v (.mm d a b))
   | some (_, .mmm d a b) => decide (quartersOf v.m ≠ 0) && !(scoreboardHolds v (.mmm d a b))
   | _ => false)

/-- E3 of a tile whose first MM or MMM now has its sources clear (R307). -/
def tileTurn (s : State) : Option State :=
  if s.tasks.all (fun e => e.2.tilerecs.isEmpty) then none
  else
    let views := s.cores.flatMap (fun c => c.2.groups.flatMap (fun g =>
      (upto g.2.splits.length).filterMap (fun i => s.viewAt ⟨c.1, g.1, i⟩)))
    (views.find? (startsTile s)).map (fun v => s.modTask v.tid (fun t => { t with
      tilerecs := t.tilerecs.map (fun y => if y.closed then y else y.mark 2 (s.cyc v.sel.core) false) }))

/-- The steps of a core's stores, once one of them has waited as long as a store may (R234). -/
def overdueMoves (s : State) (c : Nat) : List Instr :=
  let k := s.core c
  if k.stores.any (fun o => decide (o.since + Config.storeBound < s.tick)) then
    (upto k.stores.length).flatMap (fun n => [Instr.storePerformed c n, .mereWriteLand c n]) ++ [.releaseMarkerComplete c 0]
  else []

/-- The first of a list of steps of the table that is enabled, made. -/
def firstEnabled (s : State) (l : List Instr) : Option State := l.findSome? (fun i => asNext (exec i s))

/-- The next step that happens at once, if there is one: a restored group's spill areas, an area or an image that has to be stored anew, a counter set to be
freed, a turn of the hub, a pass that begins, a step of the table. -/
def urgent (s : State) : Option State :=
  [dueTurn, areaTurn, imageTurn, setTurn, hubTurn, passTurn, tileTurn].findSome? (fun turn => turn s) |>.orElse (fun _ =>
    firstEnabled s (.faultRingRoom :: (Table.keys s.cores).flatMap (coreTurns s) ++ taskTurns s ++
      (Table.keys s.cores).flatMap (overdueMoves s)))

/-! The choice among agents. -/

/-- What may happen next. -/
inductive Choice where
  /-- what the sides of a core issue in one cycle, each splits of one group -/
  | issue (sides : List (List Sel))
  | row (i : Instr)
  /-- the next part of a queue's update, or of the admin queue's (R335) -/
  | retire (queue : Option Nat)
  /-- the head of the inbox -/
  | world
  /-- a cycle in which nothing issues -/
  | idle
  deriving DecidableEq, Repr

/-- Numbered elements of a list. -/
def places {α : Type} (l : List α) : List (Nat × α) := (upto l.length).zip l

/-- The steps by which a core's operations end. -/
def coreMoves (s : State) (c : Nat) : List Instr :=
  let k := s.core c
  (upto k.fills.length).map (fun n => Instr.icacheLineFill c n) ++
  (places k.loads).map (fun e => Instr.loadReturn c e.2.who.slot e.1) ++
  (upto k.stores.length).flatMap (fun n => [Instr.storePerformed c n, .mereWriteLand c n]) ++
  (upto k.markers.length).map (fun n => Instr.releaseMarkerComplete c n) ++
  (upto k.copies.length).flatMap (fun n => [Instr.copyComplete c n, .copyCancelReport c n]) ++
  (places k.mats).flatMap (fun e => [Instr.matrixDrain c e.2.who.slot e.1 0 0, .tldComplete c e.2.who.slot e.1,
    .mmmRerun c e.2.who.slot e.1]) ++
  (if k.inReset then [.coreReturnToService c] else [])

/-- The cores that own a task or have an entry. -/
def coresInUse (s : State) : List Nat := s.tasks.foldl (fun l e => Table.insertNat l e.2.place) []

/-- The steps of the Wellsprings. -/
def taskMoves (s : State) : List Instr :=
  (coresInUse s).flatMap (fun c => [Instr.crewStart c, .crewRestore c]) ++
  (upto s.msgs.length).flatMap (fun n => [Instr.returnDelivery n, .grantApply n, .signalApply n, .cancelApply n]) ++
  (Table.keys s.tasks).flatMap (fun t => [Instr.drainingComplete t, .unwindOrder t, .unwindingComplete t])

/-- The steps of the hub. -/
def hubMoves (s : State) : List Instr :=
  (if s.hub.ready then [] else [.bringUp]) ++ [.faultRecordService, .eventWrite] ++
  (upto s.hub.backing.length).map Instr.backingCopyComplete ++ (upto s.hub.replies.length).map Instr.faultReply ++
  s.hub.ops.map (fun o => Instr.hubCopyComplete o.id) ++
  (Table.keys s.hub.queues).filterMap (fun q => match nextPacket s q with
    | some x => decodePacket false q x.2.2
    | none => none) ++
  (match adminPacket s with
   | some x => (decodePacket true 0 x.2).toList
   | none => []) ++ s.hub.dying.map Instr.asidRecycle

/-- The steps that the world outside the device makes: errors, sensors, links, the host's accesses, the watchdog and
provisioning. -/
def isWorld : Instr → Bool
  | .uncorrectableError _ | .securityAlarm _ | .watchdogRestart | .powerLimitThrottle _ | .helasLinkChange _ _
  | .helasInboundWrite _ _ _ _ | .cxlMemRead _ | .cxlMemWrite _ _ | .admqWrite _ | .alarmClear _
  | .bar0RegisterWrite _ _ | .provisioning | .matrixDrain _ _ _ _ _ => true
  | _ => false

/-- The host's store of a dword to its own memory, with its poison (R323, R328). -/
def hostStore (pa : Nat) (value : W64) (poison : Bool) (s : State) : State :=
  if hostSlot pa && decide (pa % 8 = 0) then
    writeCopied s ((cellsOf pa 8 value.toNat).map (fun c => (c.1, c.2, poison)))
  else s

/-- A spill area's page changed by firmware (R126, R341). -/
def areaChange (n : Nat) (now : Option AreaState) (s : State) : State :=
  s.modHub (fun h => { h with areas := match now with
    | some a => Table.set h.areas n a
    | none => Table.erase h.areas n })

/-- The head of the inbox taken: a step of the world that is enabled happens, one that is not changes nothing. -/
def takeInput (s : State) : State :=
  match s.inbox with
  | [] => s
  | x :: rest =>
    let s1 := { s with inbox := rest }
    match x with
    | .hostStore pa value poison => hostStore pa value poison s1
    | .hostLine pa data poison => (cxlMemWrite pa data poison s1).getD s1
    | .area n now => areaChange n now s1
    | .row i => if isWorld i then (asNext (exec i s1)).getD s1 else s1

/-- The parts of packets' updates that may be written next (R335). -/
def retireMoves (s : State) : List Choice :=
  ((Table.keys s.hub.queues).filter (fun q => (retireQueue q s).isSome)).map (fun q => Choice.retire (some q)) ++
  (if (retireAdmin s).isSome then [.retire none] else [])

/-- Everything that may happen next. A cycle may pass without an issue where no split can issue. -/
def moves (s : State) : List Choice :=
  let issues := (issueChoices s).map Choice.issue
  let rows := ((Table.keys s.cores).flatMap (coreMoves s) ++ taskMoves s ++ hubMoves s).filter
    (fun i => (asNext (exec i s)).isSome)
  issues ++ rows.map Choice.row ++ retireMoves s ++ (if s.inbox = [] then [] else [.world]) ++
  (if issues = [] && s.hub.ready then [.idle] else [])

/-- A move made. -/
def perform (m : Choice) (s : State) : Result :=
  match m with
  | .issue sides => runSides sides s
  | .retire (some q) => event (retireQueue q s)
  | .retire none => event (retireAdmin s)
  | .row i => exec i s
  | .world => .next (takeInput s)
  | .idle => .next s.advance

/-- The move made next: the only one, or a free choice (log entry 3); with none, a cycle passes. -/
def choose (s : State) : Choice × State :=
  match moves s with
  | [] => (.idle, s)
  | [m] => (m, s)
  | ms => (ms.getD (Config.pick s.fresh ms.length % ms.length) .idle, { s with fresh := s.fresh + 1 })

/-! A state that fetches a given word. -/

/-- The virtual and physical address at which `State.withFetchWord` places a word, on a page of its own. -/
def placedAt : Nat := 0x10000

/-- The key of the root task that runs it, whose TCB lies on a second page. -/
def placedTask : Nat := rootKey 0 0x20000

/-- The pages of the placed program: code, and the TCB. -/
def placedPages : List Page :=
  [⟨0, placedAt, 0, true, false, true, false, true, placedAt, none, 0⟩,
   ⟨0, 0x20000, 0, true, true, false, false, true, 0x20000, none, 0⟩]

/-- The task of the placed program: unmetered, one group, with the largest shape of a group. -/
def placedRoot : Task :=
  { taskOfTemplate (List.replicate 256 0) 0x20000 with
    isRoot := true
    state := .running
    tiles := 8
    accs := 8
    egran := 15
    entry := BitVec.ofNat 64 placedAt
    alw := Config.unmetered
    written := Config.unmetered }

/-- The group of the placed program, its one split at the word. -/
def placedGroup : Group := startGroup placedTask placedRoot 0 (upto 15) 0 (upto 8) (upto 8)

/-- The instruction-cache line that holds the placed word. -/
def placedLine (w : Nat) : ILine :=
  ⟨0, placedAt / 256, leBytes 4 w ++ List.replicate 252 0, List.replicate 64 false⟩

/-- Core 0 with the placed program's crew in an active group. -/
def placedCore (w : Nat) : Core :=
  { Core.reset with
    groups := [(0, placedGroup)], owners := [(0, (placedTask, 0))], lastIn := [(0, (placedTask, 0))]
    ilines := [placedLine w], active := [(0, 0)] }

/-- The context of the placed program. -/
def placedCtx : Ctx := ⟨0, Config.poolSlots, 24, false, false, false, false, 0, 0, none, [], [], false⟩

/-- The hub in service, with the placed program's context and pages. -/
def placedHub : Hub := { Hub.reset with ready := true, ctxs := [(0, placedCtx)], pages := placedPages }

end Sys2Proof.Machine
end

