-- ==== Sys2Proof/Machine/Step.lean ====
section
/-! DEFINITION. One step of the device, and the state that fetches a given word next. -/

namespace Sys2Proof.Machine

/-- One step: what happens at once comes first; else one of the moves that may happen. -/
def step (s : State) : Host.Outcome State Fault Refusal :=
  match urgent s with
  | some s' => .next s'
  | none => perform (choose s).1 (choose s).2

/-- The state with a word placed where the next instruction is fetched. The OX4 runs a program only once the host has
brought it up and a packet has launched a task: what stands here is the state in which a crew with that word at its PC
runs alone on core 0 (log entry 25). -/
def State.withFetchWord (s : State) (_nbits w : Nat) : State :=
  { s with
    cur := none
    together := none
    hold := false
    inbox := []
    cores := [(0, placedCore w)]
    tasks := [(placedTask, placedRoot)]
    msgs := []
    mem := Memory.putAll s.mem (cellsOf placedAt 4 w)
    tarn := []
    hub := placedHub }

end Sys2Proof.Machine
end

