-- ==== Sys2Proof/Safety.lean ====
section
/-! DEFINITION. The terms in which claims about the device are made: when nothing stands in the way of an instruction
(R40), what an issue leaves alone, the results the rules give, and the invariant of memory. -/

namespace Sys2Proof.Machine

/-! When an instruction has its own effect. -/

/-- A split is selected, is live, and issues in a cycle of its own, which no other side of its core shares. -/
abbrev Selected (v : View) (s : State) : Prop := s.together = none ∧ s.hold = false ∧ s.view? = some v

/-- Nothing stands in the way of an instruction of a live split: the crew shape and the frame (R22, R40 positions 4 and
5), no fault or poisoned return that it would deliver (R258, R281), no pending write of a register it names (R60) and room
for its requests (R4), the debit fits or was made before (R31) and no source is poisoned (R143). -/
abbrev Ready (i : Instr) (v : View) (s : State) : Prop :=
  Selected v s ∧ shapeTrap v i = none ∧ matrixDelivery v i = none ∧ poisonDelivery v i = none ∧
  heldBack (s.core v.sel.core) v i = false ∧ (v.split.paid.isSome = true ∨ v.task.short (costOf v i) = false) ∧ firstPoison v i = none

/-- No store and no release marker of the split's core is outstanding. -/
abbrev Settled (v : View) : Prop := v.core.stores = [] ∧ v.core.markers = []

/-- The stores of R70 and R215. -/
def isStore : Instr → Bool
  | .st _ _ _ | .vst _ _ _ | .vstc _ _ _ => true
  | _ => false

/-! What an issue leaves alone. -/

/-- A core but for its groups, for what its counters sample, and for its record of elements held. -/
def Core.quiet (k : Core) : Core :=
  { k with groups := [], signals := [], sets := [], unitsDue := [], held := [], loose := [] }

/-- A group but for the registers of the five classes, its frames and `sat`. -/
def Group.bare (g : Group) : Group :=
  { g with s := [], v := [], p := [], tiles := [], accs := [], frames := [], sat := false }

/-- A frame but for its registers. -/
def Frame.bare (f : Frame) : Frame := { f with v := [], s := [] }

/-- Two groups hold the same in a register, its poison with it, as a frame names it. -/
def SameReg (g g' : Group) (fr : Nat) : RegRef → Prop
  | .s n => g'.readS fr n = g.readS fr n
  | .v n => g'.readV fr n = g.readV fr n
  | .p n => g'.readP n = g.readP n
  | .t n => g'.readT n = g.readT n
  | .a n q => (g'.readA n).elem = (g.readA n).elem ∧ (g'.readA n).poison.getLsbD q = (g.readA n).poison.getLsbD q ∧
      (q < 4 → ∀ e, e / 64 = q → (g'.readA n).vals.getD e 0 = (g.readA n).vals.getD e 0)

/-- Every register of every frame of the group is as before, but those listed: a frame-local one in frame `fr` alone. The
group's special registers other than `sat`, its splits, frame records, pennants and faults are as before. -/
structure Kept (g g' : Group) (fr : Nat) (dests : List RegRef) : Prop where
  regs   : ∀ fr' r, ¬(r ∈ dests ∧ (r.frameLocal = true → fr' = fr)) → SameReg g g' fr' r
  bare   : g'.bare = g.bare
  frames : ∀ fr', (g'.frame fr').bare = (g.frame fr').bare

/-- A group with what an issue records of its split, the split's PC at `pc` (R18, R37, R132). -/
def View.booked (v : View) (s : State) (pc : W64) (g : Group) : Group :=
  { g with
    splits := changeAt g.splits v.sel.idx (fun sp => { sp with
      pc := pc, lastIssue := s.tick + 1, entry := none, paid := none }) }

/-- The parts of the device that no instruction of this kind touches: they are as before. -/
structure SameWorld (s t : State) : Prop where
  cur   : t.cur = s.cur
  together : t.together = s.together
  hold  : t.hold = s.hold
  ahead : t.ahead = s.ahead
  inbox : t.inbox = s.inbox
  incs  : t.incs = s.incs
  hub   : t.hub = s.hub

/-- Every byte of memory reads as before, and its poison and full/empty bits are as before. -/
structure SameMemory (s t : State) : Prop where
  bytes  : ∀ a, Memory.get t.mem a = Memory.get s.mem a
  poison : t.poison = s.poison
  full   : t.full = s.full

/-- Every group but the issuing one is as before. -/
def OtherGroups (v : View) (s t : State) : Prop :=
  ∀ c n, ¬(c = v.sel.core ∧ n = v.sel.slot) → t.group? c n = s.group? c n

/-- The debit of an issue: only the issuing task's account changes, and not at all where its split had paid (R31). -/
def Debited (v : View) (s t : State) (cost : Nat) : Prop :=
  t.tasks = if v.split.paid.isSome then s.tasks else Table.modify s.tasks v.tid (fun x => x.charge cost)

/-- A trap has undone the debit made for the instruction before its split parked, if one was made, and nothing else has
changed of the tasks (R35, R42). -/
def Refunded (v : View) (s t : State) : Prop :=
  t.tasks = match v.split.paid with
    | some a => Table.modify s.tasks v.tid (fun x => x.credit a)
    | none => s.tasks

/-- An instruction has issued and completed: one cycle has passed (R9), its cost is debited, its PC is at `pc`, the group
holds `g`, the issuing core has changed by `f` beside its groups; and all else is as before. -/
structure Retires (i : Instr) (v : View) (s t : State) (pc : W64) (g : Group) (f : Core → Core) : Prop where
  tick   : t.tick = s.tick + 1
  world  : SameWorld s t
  memory : SameMemory s t
  msgs   : t.msgs = s.msgs
  tarn   : t.tarn = s.tarn
  fresh  : t.fresh = s.fresh
  tiles  : isStore i = false → t.tileWrites = s.tileWrites
  others : OtherGroups v s t
  group  : t.group? v.sel.core v.sel.slot = some (v.booked s pc g)
  cores  : ∀ c, (t.core c).quiet = if c = v.sel.core then f (s.core c).quiet else (s.core c).quiet
  tasks  : Debited v s t (costOf v i)

/-- The next PC in sequence (R18). -/
def View.nextPc (v : View) : W64 := v.split.pc + 4

/-! Traps. -/

/-- The split has entered its handler (R36, R276): `tca`, `tpc` and `tval` as given, its PC at tvb + 16 × cause, the
group in handler mode; every register of the five classes, all memory and every other group as before. -/
structure EntersHandler (v : View) (s t : State) (cause : Nat) (tpc tval : W64) : Prop where
  tick   : t.tick = s.tick + 1
  memory : SameMemory s t
  others : OtherGroups v s t
  group  : ∃ g, t.group? v.sel.core v.sel.slot = some g ∧ g.tca = BitVec.ofNat 4 cause ∧ g.tpc = pcField tpc ∧
    g.tval = tval ∧ g.handler = true ∧ (∀ fr r, SameReg v.group g fr r) ∧ g.sat = v.group.sat ∧ g.mfr = v.group.mfr ∧
    g.fcr = v.group.fcr ∧ g.tvb = v.group.tvb ∧ g.mb = v.group.mb ∧ g.dual = v.group.dual ∧
    ∃ sp, g.splits[v.sel.idx]? = some sp ∧ sp.pc = v.group.tvb + BitVec.ofNat 64 (16 * cause) ∧ sp.state = .ready ∧
      sp.mask = v.split.mask ∧ sp.frame = v.split.frame

/-- The state of a split in which a trap enters the handler: there is one, and the trap is no double trap (R37, R38). -/
abbrev HasHandler (v : View) : Prop := v.group.tvb ≠ 0 ∧ v.split.entry ≠ some v.split.pc

/-! The results of the rules. -/

/-- The signed and the unsigned integer of a scalar as the split reads it (R41). -/
def View.si (v : View) (n : Nat) : Int := (v.rs n).toInt
/-- The unsigned integer of a scalar as the split reads it (R41). -/
def View.ui (v : View) (n : Nat) : Nat := (v.rs n).toNat

/-! Exact values and rounding (R96, R98, R99). -/

/-- A bit pattern of a format that encodes a finite value (R96). -/
def IsFinite (f : Fmt) (x : Nat) : Prop := x < 2 ^ (1 + f.eb + f.fb) ∧ x / 2 ^ f.fb % 2 ^ f.eb ≠ 2 ^ f.eb - 1

/-- The value of a finite pattern in units of 2^−149, of which every finite value of the three formats is a whole number
(R96). -/
def fScaled (f : Fmt) (x : Nat) : Int :=
  let frac := x % 2 ^ f.fb
  let ex := x / 2 ^ f.fb % 2 ^ f.eb
  let shift := fun (e : Nat) => e + 151 - 2 ^ (f.eb - 1) - f.fb
  let mag := if ex = 0 then frac * 2 ^ (shift 0) else (frac + 2 ^ f.fb) * 2 ^ (shift (ex - 1))
  if x / 2 ^ (f.eb + f.fb) % 2 = 1 then -(mag : Int) else mag

/-- `r` is `round(x, f)` for the exact value x = n units of 2^−(149 + w) (R98): a value of f that brackets x, chosen by the
mode, or what the mode gives where |x| is beyond the largest finite value; its sign bit is the sign of an x that is not 0. -/
def RoundsTo (f : Fmt) (mode : RMode) (w : Nat) (n : Int) (r : Nat) : Prop :=
  let val := fun z => fScaled f z * 2 ^ w
  let top := val (fMax f false)
  (n ≠ 0 → (r / 2 ^ (f.eb + f.fb) % 2 = 1 ↔ n < 0)) ∧
  if n.natAbs ≤ top.natAbs then
    IsFinite f r ∧ (match mode with
      | .nearest => (∀ z, IsFinite f z → (val r - n).natAbs ≤ (val z - n).natAbs) ∧
          ∀ z, IsFinite f z → (val z - n).natAbs = (val r - n).natAbs → val z ≠ val r → r % 2 = 0
      | .zero => (0 ≤ n → 0 ≤ val r ∧ val r ≤ n ∧ ∀ z, IsFinite f z → val z ≤ n → val z ≤ val r) ∧
          (n ≤ 0 → val r ≤ 0 ∧ n ≤ val r ∧ ∀ z, IsFinite f z → n ≤ val z → val r ≤ val z)
      | .up => n ≤ val r ∧ ∀ z, IsFinite f z → n ≤ val z → val r ≤ val z
      | .down => val r ≤ n ∧ ∀ z, IsFinite f z → val z ≤ n → val z ≤ val r)
  else r = (match mode with
    | .nearest => if 2 * top + (top - val (fMax f false - 1)) ≤ 2 * (n.natAbs : Int) then fInf f (decide (n < 0))
        else fMax f (decide (n < 0))
    | .zero => fMax f (decide (n < 0))
    | .up => if n < 0 then fMax f true else fInf f false
    | .down => if n < 0 then fInf f true else fMax f false)

/-- The integer k to which a value of n units of 2^−149 rounds under a mode (R99). -/
def RoundsToInt (mode : RMode) (n k : Int) : Prop :=
  match mode with
  | .nearest => 2 * (k * 2 ^ 149 - n).natAbs ≤ 2 ^ 149 ∧ (2 * (k * 2 ^ 149 - n).natAbs = 2 ^ 149 → k % 2 = 0)
  | .zero => (k * 2 ^ 149).natAbs ≤ n.natAbs ∧ n.natAbs < (k * 2 ^ 149).natAbs + 2 ^ 149 ∧ (0 ≤ n → 0 ≤ k) ∧ (n ≤ 0 → k ≤ 0)
  | .up => n ≤ k * 2 ^ 149 ∧ k * 2 ^ 149 < n + 2 ^ 149
  | .down => k * 2 ^ 149 ≤ n ∧ n < k * 2 ^ 149 + 2 ^ 149

/-- The least and the greatest integer of a VCVT destination type (R93). -/
def intEnds (signed : Bool) : Int × Int := if signed then (-(2 ^ 31), 2 ^ 31 - 1) else (0, 2 ^ 32 - 1)

/-- The 32 bits and the clip of an integer converted to a type: the nearest value of the type's range (R94, R99). -/
def ClipsTo (signed : Bool) (k : Int) (r : W32 × Bool) : Prop :=
  r.1 = BitVec.ofInt 32 (max (intEnds signed).1 (min (intEnds signed).2 k)) ∧
  (r.2 = true ↔ k < (intEnds signed).1 ∨ (intEnds signed).2 < k)

/-- A condition of R64 on two scalars, as the rule's table gives it. -/
def condSpec (v : View) (a b : Nat) : Cond → Prop
  | .eq => v.ui a = v.ui b
  | .ne => v.ui a ≠ v.ui b
  | .lt => v.si a < v.si b
  | .ge => v.si b ≤ v.si a
  | .le => v.si a ≤ v.si b
  | .gt => v.si b < v.si a
  | .ltu => v.ui a < v.ui b
  | .geu => v.ui b ≤ v.ui a
  | .leu => v.ui a ≤ v.ui b
  | .gtu => v.ui b < v.ui a

/-- The major opcodes that R49 gives no instruction. -/
def reservedOpcodes : List Nat :=
  [0, 7, 8, 9, 10, 11, 12, 13, 14, 15, 0x17, 0x1E, 0x1F, 0x26, 0x27, 0x28, 0x29, 0x2A, 0x2B, 0x2C, 0x2D, 0x2E, 0x2F,
   0x48, 0x49, 0x4A, 0x4B, 0x4C, 0x4D, 0x4E, 0x4F, 0x57, 0x58, 0x59, 0x5A, 0x5B, 0x5C, 0x5D, 0x5E, 0x5F, 0x65, 0x66, 0x67,
   0x77, 0x7C, 0x7D, 0x7E, 0x7F]

/-- What the rules R62 and R64 to R69 say of the value an instruction writes, with the scalar it writes: the instructions
that write one scalar from scalars and raise no trap of their own. -/
def scalarRule (v : View) : Instr → Option (Nat × (W64 → Prop))
  | .add d a b => some (d, fun x => x = BitVec.ofNat 64 (v.ui a + v.ui b))
  | .sub d a b => some (d, fun x => x = BitVec.ofInt 64 (v.ui a - v.ui b))
  | .mul d a b => some (d, fun x => x = BitVec.ofNat 64 (v.ui a * v.ui b))
  | .mulh d a b => some (d, fun x => x = BitVec.ofInt 64 ((v.si a * v.si b) / 2 ^ 64))
  | .mulhu d a b => some (d, fun x => x.toNat = v.ui a * v.ui b / 2 ^ 64)
  | .min d a b => some (d, fun x => x.toInt = min (v.si a) (v.si b))
  | .max d a b => some (d, fun x => x.toInt = max (v.si a) (v.si b))
  | .minu d a b => some (d, fun x => x.toNat = min (v.ui a) (v.ui b))
  | .maxu d a b => some (d, fun x => x.toNat = max (v.ui a) (v.ui b))
  | .and d a b => some (d, fun x => x = v.rs a &&& v.rs b)
  | .or d a b => some (d, fun x => x = v.rs a ||| v.rs b)
  | .xor d a b => some (d, fun x => x = v.rs a ^^^ v.rs b)
  | .andn d a b => some (d, fun x => x = v.rs a &&& ~~~(v.rs b))
  | .shl d a b => some (d, fun x => x = BitVec.ofNat 64 (v.ui a * 2 ^ (v.ui b % 64)))
  | .shr d a b => some (d, fun x => x.toNat = v.ui a / 2 ^ (v.ui b % 64))
  | .sar d a b => some (d, fun x => x.toInt = v.si a / 2 ^ (v.ui b % 64))
  | .rol d a b => some (d, fun x => ∀ k, k < 64 → x.getLsbD ((k + v.ui b) % 64) = (v.rs a).getLsbD k)
  | .clz d a => some (d, fun x => if v.rs a = 0 then x = 64
      else x.toNat ≤ 63 ∧ 2 ^ (63 - x.toNat) ≤ v.ui a ∧ v.ui a < 2 ^ (64 - x.toNat))
  | .popc d a => some (d, fun x => x.toNat = ((List.range 64).filter (fun k => (v.rs a).getLsbD k)).length)
  | .mov d a => some (d, fun x => x = v.rs a)
  | .cmp cc d a b => some (d, fun x => (condSpec v a b cc → x = 1) ∧ (¬condSpec v a b cc → x = 0))
  | .sel d a b y => some (d, fun x => x = if v.rs y ≠ 0 then v.rs a else v.rs b)
  | .addi d a imm => some (d, fun x => x = BitVec.ofInt 64 (v.si a + imm.toInt))
  | .andi d a imm => some (d, fun x => x = v.rs a &&& BitVec.ofInt 64 imm.toInt)
  | .ori d a imm => some (d, fun x => x = v.rs a ||| BitVec.ofInt 64 imm.toInt)
  | .xori d a imm => some (d, fun x => x = v.rs a ^^^ BitVec.ofInt 64 imm.toInt)
  | .shli d a k => some (d, fun x => x = BitVec.ofNat 64 (v.ui a * 2 ^ k))
  | .shri d a k => some (d, fun x => x.toNat = v.ui a / 2 ^ k)
  | .sari d a k => some (d, fun x => x.toInt = v.si a / 2 ^ k)
  | .li d imm => some (d, fun x => x = BitVec.ofInt 64 imm.toInt)
  | .lih d imm => some (d, fun x => x = BitVec.ofNat 64 (v.ui d * 2 ^ 18 + imm.toNat))
  | _ => none

/-- What R63 says of the value a divide form writes, its divisor not being zero: the destination, the divisor, the value. -/
def divideRule (v : View) : Instr → Option (Nat × Nat × W64)
  | .div d a b => some (d, b, BitVec.ofInt 64 ((v.si a).tdiv (v.si b)))
  | .divu d a b => some (d, b, BitVec.ofNat 64 (v.ui a / v.ui b))
  | .rem d a b => some (d, b, BitVec.ofInt 64 (v.si a - v.si b * (v.si a).tdiv (v.si b)))
  | .remu d a b => some (d, b, BitVec.ofNat 64 (v.ui a % v.ui b))
  | _ => none

/-- The signed integer of a lane. -/
def View.sl (v : View) (n k : Nat) : Int := (v.lane n k).toInt
/-- The unsigned integer of a lane. -/
def View.ul (v : View) (n k : Nat) : Nat := (v.lane n k).toNat

/-- What R63 and R150 say of a lane that a lane divide form writes: the destination, the divisor register, the value. -/
def laneDivideRule (v : View) : Instr → Option (Nat × Nat × (Nat → W32))
  | .vdiv d a b => some (d, b, fun k => BitVec.ofInt 32 ((v.sl a k).tdiv (v.sl b k)))
  | .vdivu d a b => some (d, b, fun k => BitVec.ofNat 32 (v.ul a k / v.ul b k))
  | .vrem d a b => some (d, b, fun k => BitVec.ofInt 32 (v.sl a k - v.sl b k * (v.sl a k).tdiv (v.sl b k)))
  | .vremu d a b => some (d, b, fun k => BitVec.ofNat 32 (v.ul a k % v.ul b k))
  | _ => none

/-- The lanes of v(d) after a write under the split's mask: each active lane satisfies its rule and is not poisoned, each
inactive lane and its poison are as before (R113, R141, R353). -/
def WroteLanes (v : View) (g : Group) (d : Nat) (rule : Nat → W32 → Prop) : Prop :=
  ∀ k, k < 32 →
    (v.m.getLsbD k = true → rule k (laneAt (g.lanes v.fr d) k) ∧ (g.readV v.fr d).poison.getLsbD k = false) ∧
    (v.m.getLsbD k = false → laneAt (g.lanes v.fr d) k = v.lane d k ∧
      (g.readV v.fr d).poison.getLsbD k = (v.group.readV v.fr d).poison.getLsbD k)

/-- What the rules R144 to R147 and R155 to R158 say of lane k of the vector register an instruction writes, on integers
and bit patterns: the destination, and the lane's value. -/
def laneRule (v : View) : Instr → Option (Nat × (Nat → W32 → Prop))
  | .vadd .i32 d a b | .vadd .u32 d a b => some (d, fun k x => x = BitVec.ofNat 32 (v.ul a k + v.ul b k))
  | .vsub .i32 d a b | .vsub .u32 d a b => some (d, fun k x => x = BitVec.ofInt 32 (v.ul a k - v.ul b k))
  | .vmul .i32 d a b | .vmul .u32 d a b => some (d, fun k x => x = BitVec.ofNat 32 (v.ul a k * v.ul b k))
  | .vmin .i32 d a b => some (d, fun k x => x.toInt = min (v.sl a k) (v.sl b k))
  | .vmin .u32 d a b => some (d, fun k x => x.toNat = min (v.ul a k) (v.ul b k))
  | .vmax .i32 d a b => some (d, fun k x => x.toInt = max (v.sl a k) (v.sl b k))
  | .vmax .u32 d a b => some (d, fun k x => x.toNat = max (v.ul a k) (v.ul b k))
  | .vabs .i32 d a => some (d, fun k x => x = BitVec.ofInt 32 |v.sl a k|)
  | .vneg .i32 d a => some (d, fun k x => x = BitVec.ofInt 32 (-(v.sl a k)))
  | .vand d a b => some (d, fun k x => x = v.lane a k &&& v.lane b k)
  | .vor d a b => some (d, fun k x => x = v.lane a k ||| v.lane b k)
  | .vxor d a b => some (d, fun k x => x = v.lane a k ^^^ v.lane b k)
  | .vshl d a b => some (d, fun k x => x = BitVec.ofNat 32 (v.ul a k * 2 ^ (v.ul b k % 32)))
  | .vshr d a b => some (d, fun k x => x.toNat = v.ul a k / 2 ^ (v.ul b k % 32))
  | .vsar d a b => some (d, fun k x => x.toInt = v.sl a k / 2 ^ (v.ul b k % 32))
  | .vsrrI32 d a b => some (d, fun k x => x.toInt =
      if v.ul b k % 32 = 0 then v.sl a k else (v.sl a k + 2 ^ (v.ul b k % 32 - 1)) / 2 ^ (v.ul b k % 32))
  | .vsrrI16x2 d a b => some (d, fun k x => ∀ e, e < 2 →
      let n := v.ul b k / 2 ^ (16 * e) % 16
      let y := ((v.lane a k).extractLsb' (16 * e) 16).toInt
      (x.extractLsb' (16 * e) 16).toInt = if n = 0 then y else (y + 2 ^ (n - 1)) / 2 ^ n)
  | .vsel d a b p => some (d, fun k x => x = if (v.group.pval p).getLsbD k then v.lane a k else v.lane b k)
  | .vmov d a => some (d, fun k x => x = v.lane a k)
  | .vbcast d a => some (d, fun _ x => x.toNat = v.ui a % 2 ^ 32)
  | .vslide true n d a b => some (d, fun k x => ∀ e, e < 2 → x.extractLsb' (16 * e) 16 =
      if 2 * k + e + n ≤ 63 then elem16 (v.rv a) (2 * k + e + n) else elem16 (v.rv b) (2 * k + e + n - 64))
  | .vslide false n d a b => some (d, fun k x => ∀ e, e < 2 → x.extractLsb' (16 * e) 16 =
      if n ≤ 2 * k + e then elem16 (v.rv a) (2 * k + e - n) else elem16 (v.rv b) (64 - n + (2 * k + e)))
  | .vshfl d a b => some (d, fun k x => x = v.lane a (v.ul b k % 32))
  | _ => none

/-- The bits of a lane that a type uses (R46, R93). -/
def View.fl (v : View) (t : VType) (n k : Nat) : Nat := if t = .f32 then v.ul n k else v.ul n k % 2 ^ 16

/-- What R144, R145, R152 and R153 say of lane k on a floating-point type: the destination, and the lane's value by the
operations of Machine/Number.lean on bit patterns. -/
def floatRule (v : View) : Instr → Option (Nat × (Nat → Nat))
  | .vadd t d a b => if t.isFloat then some (d, fun k => fAdd (fmtOf t) v.mode (v.fl t a k) (v.fl t b k)) else none
  | .vsub t d a b => if t.isFloat then some (d, fun k => fSub (fmtOf t) v.mode (v.fl t a k) (v.fl t b k)) else none
  | .vmul t d a b => if t.isFloat then some (d, fun k => fMul (fmtOf t) v.mode (v.fl t a k) (v.fl t b k)) else none
  | .vfma t d a b => if t.isFloat then
      some (d, fun k => fFma (fmtOf t) v.mode (v.fl t a k) (v.fl t b k) (v.fl t d k)) else none
  | .vmin t d a b => if t.isFloat then some (d, fun k => fMinMax (fmtOf t) false (v.fl t a k) (v.fl t b k)) else none
  | .vmax t d a b => if t.isFloat then some (d, fun k => fMinMax (fmtOf t) true (v.fl t a k) (v.fl t b k)) else none
  | .vabs t d a => if t.isFloat then some (d, fun k => fAbsNeg (fmtOf t) false (v.fl t a k)) else none
  | .vneg t d a => if t.isFloat then some (d, fun k => fAbsNeg (fmtOf t) true (v.fl t a k)) else none
  | .vrcp d a => some (d, fun k => fRcp v.mode (v.ul a k))
  | .vrsq d a => some (d, fun k => fRsq v.mode (v.ul a k))
  | .vexp2 d a => some (d, fun k => fExp2 v.mode (v.ul a k))
  | .vlog2 d a => some (d, fun k => fLog2 v.mode (v.ul a k))
  | _ => none

/-- What R148, R151 and R99 say of the lanes an instruction writes that may clip: the destination, a lane's exact value as
an integer and its clipped value, for the integer destinations. -/
def clipRule (v : View) : Instr → Option (Nat × (Nat → W32 × Bool))
  | .vdot2I16 d a b => some (d, fun k =>
      let y := v.sl d k + signed16 (v.lane a k) 0 * signed16 (v.lane b k) 0 +
        signed16 (v.lane a k) 1 * signed16 (v.lane b k) 1
      (BitVec.ofInt 32 (max (-(2 ^ 31)) (min y (2 ^ 31 - 1))), decide (y < -(2 ^ 31)) || decide (2 ^ 31 - 1 < y)))
  | .vadd2I16 d a b => some (d, fun k =>
      let y := fun e => signed16 (v.lane a k) e + signed16 (v.lane b k) e
      let c := fun e => max (-(2 ^ 15)) (min (y e) (2 ^ 15 - 1))
      (BitVec.ofInt 16 (c 1) ++ BitVec.ofInt 16 (c 0), decide (c 0 ≠ y 0) || decide (c 1 ≠ y 1)))
  | .vcvt dt st d a => some (d, fun k => convert v.mode dt st (v.lane a k))
  | _ => none

/-- What R154 and R161 say of bit k of the predicate an instruction writes: the destination, and the bit. -/
def predicateRule (v : View) : Instr → Option (Nat × (Nat → Bool))
  | .vcmp cc t p a b => some (p, fun k => vcondHolds cc t (v.lane a k) (v.lane b k))
  | .pand d a b => some (d, fun k => (v.group.pval a).getLsbD k && (v.group.pval b).getLsbD k)
  | .por d a b => some (d, fun k => (v.group.pval a).getLsbD k || (v.group.pval b).getLsbD k)
  | .pxor d a b => some (d, fun k => (v.group.pval a).getLsbD k != (v.group.pval b).getLsbD k)
  | .pnot d a => some (d, fun k => !(v.group.pval a).getLsbD k)
  | _ => none

/-- The value r of R159 after lane `j`: the lowest active lane, and then each further active lane up to `j`. -/
def runValue (step : W32 → W32 → W32) (src : Lanes) (m : W32) (j : Nat) : W32 :=
  match (lanesOf m).filter (fun k => decide (k ≤ j)) with
  | [] => 0
  | k :: ks => ks.foldl (fun r l => step r (laneAt src l)) (laneAt src k)

/-- A value r as R159 writes it: a NaN of .f32 as the canonical NaN, any other with its bits unchanged. -/
def writtenRun (t : VType) (r : W32) : W32 :=
  if t = .f32 ∧ fDecode fp32 r.toNat = .nan then 0x7FC00000 else r

/-- What R156, R159 and R162 say of the value an instruction writes to a scalar from vector registers or predicates. -/
def gatherRule (v : View) : Instr → Option (Nat × W64)
  | .vlane d a l => some (d, BitVec.ofNat 64 (v.ul a l))
  | .pcnt d a => some (d, BitVec.ofNat 64 ((List.range 32).filter (fun k => v.m.getLsbD k && (v.group.pval a).getLsbD k)).length)
  | .vred op t d a => some (d,
      let r := writtenRun t (runValue (redStep v.mode op t) (v.rv a) v.m 31)
      if t = .i32 then BitVec.ofInt 64 r.toInt else BitVec.ofNat 64 r.toNat)
  | _ => none

/-! Control flow. -/

/-- The target of a branch: the PC + 4 × the signed offset (R44, R76). -/
def View.target {w : Nat} (v : View) (off : BitVec w) : W64 := BitVec.ofInt 64 (v.split.pc.toInt + 4 * off.toInt)

/-- Where R76 and R77 send a split: the instructions that only set the PC. JR's target is aligned and in range. -/
def branchRule (v : View) : Instr → Option W64
  | .bz x off => some (if v.rs x = 0 then v.target off else v.nextPc)
  | .bnz x off => some (if v.rs x ≠ 0 then v.target off else v.nextPc)
  | .jmp off => some (v.target off)
  | .jr a => if v.ui a % 4 = 0 ∧ v.ui a < 2 ^ 56 then some (v.rs a) else none
  | _ => none

/-- The group with the issuing split waiting at its MEET (R118, R120). -/
def View.atMeet (v : View) (s : State) : Group :=
  let g := v.booked s v.split.pc v.group
  { g with splits := changeAt g.splits v.sel.idx (fun sp => { sp with
      state := .meet, meet := v.split.pc, mrem := v.group.mb.toNat, mfrom := s.cyc v.sel.core + 1 }) }

/-- An instruction has issued, and beyond its own group, core and account nothing has changed but the cycle count. -/
structure Issued (i : Instr) (v : View) (s t : State) : Prop where
  tick   : t.tick = s.tick + 1
  world  : SameWorld s t
  memory : SameMemory s t
  msgs   : t.msgs = s.msgs
  tarn   : t.tarn = s.tarn
  others : OtherGroups v s t
  tasks  : Debited v s t (costOf v i)

/-- An entry but for the origin it belongs to. -/
def Split.sansOrigin (sp : Split) : Split := { sp with origin := 0 }

/-- The two entries a divergent BRV makes of its split (R117): N goes on in sequence with the lanes not taken, T at the
target with the lanes taken. -/
def View.splitN (v : View) (taken : W32) : Split := { v.split with
  mask := v.m &&& ~~~taken, pc := v.nextPc, state := .ready, lastIssue := 0, entry := none, paid := none }
/-- See `View.splitN`. -/
def View.splitT (v : View) (taken : W32) (pc : W64) : Split := { v.split with
  mask := v.m &&& taken, pc := pc, state := .ready, lastIssue := 0, entry := none, paid := none }

/-- No merge stands: every waiting entry has a split of its origin that has not arrived where it waits (R118). -/
def Group.NoMeeting (g : Group) : Prop :=
  ∀ w ∈ g.entries, w.state = .meet → ∃ sp ∈ g.entries, g.ofOrigin w.origin sp = true ∧ arrived w sp = false

/-- The demand and the target of a call whose target is good (R80). -/
def callRule (v : View) : Instr → Option (Nat × W64)
  | .call n off => some (n, v.target off)
  | .callr n a => if v.ui a % 4 = 0 ∧ v.ui a < 2 ^ 56 then some (n, v.rs a) else none
  | _ => none

/-- The frame a call makes (R27, R28, R80): its granules, the return PC, the caller, one level deeper, every register zero
but the marker in s63. -/
def View.newFrame (v : View) (fr : Nat) (grans : List Nat) : Frame :=
  ⟨grans, v.nextPc, some v.fr, v.frame.depth + 1, v.core.sgenOf fr, [],
   [(63, ⟨BitVec.ofNat 64 ((v.core.sgenOf fr).toNat * 256 + (v.frame.depth + 1)), false⟩)]⟩

/-- The group after a call: the new frame beside the others, and the split in it. -/
def View.called (v : View) (fr : Nat) (grans : List Nat) : Group := { v.group with
  frames := Table.set v.group.frames fr (v.newFrame fr grans)
  splits := changeAt v.group.splits v.sel.idx (fun sp => { sp with frame := fr }) }

/-- The core after a call: the owner of the new frame's granule is named (R203). -/
def View.calledCore (v : View) (fr : Nat) (k : Core) : Core :=
  { k with owners := Table.set k.owners fr (v.tid, v.group.gid) }

/-- The group with its split moved to another of its frames. -/
def View.inFrame (v : View) (fr : Nat) : Group :=
  { v.group with splits := changeAt v.group.splits v.sel.idx (fun sp => { sp with frame := fr }) }

/-- The group-global registers of a group are as before (R20): s1 to s31, v120 to v127, the predicates, the tiles and the
accumulators; and its special registers. -/
structure SameGlobals (g g' : Group) : Prop where
  s      : g'.s = g.s
  v      : g'.v = g.v
  p      : g'.p = g.p
  tiles  : g'.tiles = g.tiles
  accs   : g'.accs = g.accs
  sat    : g'.sat = g.sat
  bare   : { g'.bare with splits := [] } = { g.bare with splits := [] }

/-- A vector register of the split's frame, with its poison. -/
def View.rvreg (v : View) (n : Nat) : VReg := v.group.readV v.fr n

/-- The request at the head of a core's queue is to be granted (R81, R288): its demand fits and no escape refill stands before
it; its split, as it stands with its wait ended, is live, delivers nothing, and is held by no pending register. -/
structure GrantTurn (s : State) (c : Nat) (r : FrameReq) (rest : List FrameReq) (idx : Nat) (g : Group) (v : View) :
    Prop where
  head    : (s.core c).requests = r :: rest
  group   : s.group? c r.slot = some g
  lane    : g.byLane r.lane = some idx
  first   : refillBlocks s c r.arrived = false
  fits    : demandFits s c r.grans r.scalar = true
  view    : (State.onSplit (s.modCore c (fun k => { k with requests := rest, lastGrant := s.cyc c })) ⟨c, r.slot, idx⟩
    (fun sp => { sp with state := .ready, wait := .none })).viewAt ⟨c, r.slot, idx⟩ = some v
  live    : v.live = true ∧ s.hub.halted = false
  clear   : shapeTrap v r.instr = none ∧ matrixDelivery v r.instr = none ∧ poisonDelivery v r.instr = none ∧
    scoreboardHolds v r.instr = false

/-- The request at the head of a core's queue is granted (R81, R288): it is its turn, its split can pay, and no source of its
instruction is poisoned. -/
structure GrantNext (s : State) (c : Nat) (r : FrameReq) (rest : List FrameReq) (idx : Nat) (g : Group) (v : View) :
    Prop where
  turn    : GrantTurn s c r rest idx g v
  pays    : v.split.paid.isSome = true ∨ v.task.short (costOf v r.instr) = false
  sources : firstPoison v r.instr = none

/-! Accesses. -/

/-- An address lies in a range. -/
def Within (a pa n : Nat) : Prop := pa ≤ a ∧ a < pa + n

/-- No byte of a range belongs to a field of a queue's control block or of a stamp buffer that is closed to stores (R11, R308,
R309, R327). -/
def Open (s : State) (pa n : Nat) : Prop := ∀ k, k < n → blockFixed s (pa + k) = false

/-- Every address of an access is aligned to its width (R71, R215, R220, R225). -/
def Aligned (v : View) (i : Instr) : Prop := ∀ r ∈ requestsOf v i, r.va.toNat % accessBytes i = 0

/-- The page of every address of an access allows it, resident or not (R71, R207). -/
def Allowed (v : View) (s : State) (i : Instr) : Prop :=
  ∀ r ∈ requestsOf v i, translate s v.task.ctx v.task.asid (accessNeed i) r.va.toNat ≠ .bad

/-- Where an address of an access lies in memory, its page resident. -/
def placeOf (v : View) (s : State) (i : Instr) (r : LaneReq) : Option Nat :=
  match translate s v.task.ctx v.task.asid (accessNeed i) r.va.toNat with
  | .phys pa => some pa
  | .absent _ | .bad => none

/-- Every address of an access is resident, in plain memory (no Mere register, no TCB pool), and no part of a TCB that the
task may not write (R354). -/
def Plain (v : View) (s : State) (i : Instr) : Prop :=
  ∀ r ∈ requestsOf v i, ∃ pa, placeOf v s i r = some pa ∧ pa + accessBytes i ≤ Config.mereBase ∧
    (pa + accessBytes i ≤ Config.reservedBase ∨ Config.reservedEnd ≤ pa) ∧
    (accessWrites i = true → tcbForbids s v.tid pa = false)

/-- `n` bytes of memory from a physical address as a number, least significant byte first (R8). -/
def wordAt (m : List Host.Cell) (pa : Nat) : Nat → Nat
  | 0 => 0
  | n + 1 => wordAt m pa n + (Memory.get m (pa + n)).toNat * 256 ^ n

/-- No byte of a range is poisoned. -/
def Clean (s : State) (pa n : Nat) : Prop := ∀ k, k < n → s.poison.contains ((pa + k) / 64) = false

/-- The new value of an atomic at a word that holds `old` (R221, R222), if it writes: the exact low bytes. -/
def atomicRule (v : View) (n old : Nat) : Instr → Nat
  | .amo .add _ _ d _ => (old + v.ui d) % 2 ^ (8 * n)
  | .amo .swap _ _ d _ => v.ui d % 2 ^ (8 * n)
  | .amo .and _ _ d _ => old &&& (v.ui d % 2 ^ (8 * n))
  | .amo .or _ _ d _ => old ||| (v.ui d % 2 ^ (8 * n))
  | .amo .xor _ _ d _ => old ^^^ (v.ui d % 2 ^ (8 * n))
  | .amo .minu _ _ d _ => min old (v.ui d % 2 ^ (8 * n))
  | .amo .maxu _ _ d _ => max old (v.ui d % 2 ^ (8 * n))
  | .amo .min _ _ d _ =>
    if (BitVec.ofNat (8 * n) (v.ui d)).toInt < (BitVec.ofNat (8 * n) old).toInt then v.ui d % 2 ^ (8 * n) else old
  | .amo .max _ _ d _ =>
    if (BitVec.ofNat (8 * n) old).toInt < (BitVec.ofNat (8 * n) (v.ui d)).toInt then v.ui d % 2 ^ (8 * n) else old
  | .cas _ _ d _ => if old = v.ui d % 2 ^ (8 * n) then v.ui (d + 1) % 2 ^ (8 * n) else old
  | _ => old

/-- The loads of R70 and R215. -/
def isLoad : Instr → Bool
  | .ld _ _ _ | .lds _ _ _ | .vld _ _ _ | .vldc _ _ _ => true
  | _ => false

/-- The full/empty accesses and the atomics (R220, R225). -/
def isWordAccess : Instr → Bool
  | .amo _ _ _ _ _ | .cas _ _ _ _ | .vamo _ _ _ _ | .fld _ _ _ | .ftake _ _ _ | .fput _ _ _ | .ffill _ _ _ => true
  | _ => false

/-- An address of an access is one that R354 closes to it: a part of a TCB that its task may not write, whether its page is
resident or not (R207). -/
def ClosedTo (v : View) (s : State) (i : Instr) (r : LaneReq) : Prop :=
  accessWrites i = true ∧ ((∃ pa, placeOf v s i r = some pa ∧ tcbForbids s v.tid pa = true) ∨
    placeOf v s i r = none ∧ tcbForbidsAt s v.task.asid v.tid r.va.toNat = true)

/-- The access that an instruction makes may be made: aligned, allowed by its page, resident or not, and not one that
R354 closes. -/
def Granted (v : View) (s : State) (i : Instr) : Prop :=
  ∀ r ∈ requestsOf v i, r.va.toNat % accessBytes i = 0 ∧
    translate s v.task.ctx v.task.asid (accessNeed i) r.va.toNat ≠ .bad ∧ ¬ClosedTo v s i r

/-- The one request of a scalar access, and where it lies: granted, resident and in plain memory, for a write in none of
the fields that R11 closes. -/
def OneWord (v : View) (s : State) (i : Instr) (r : LaneReq) (pa : Nat) : Prop :=
  requestsOf v i = [r] ∧ Granted v s i ∧ placeOf v s i r = some pa ∧ pa + accessBytes i ≤ Config.mereBase ∧
  (accessWrites i = true → Open s pa (accessBytes i))

/-- A split waits in the Tarn with an access of the given instructions (R226). -/
def Awaits (s : State) (e : TarnEntry) (is : Instr → Prop) : Prop :=
  ∃ c slot lane g sp acc, e.user = .split c slot lane ∧ s.group? c slot = some g ∧ g.atLane lane = some sp ∧
    sp.wait = .tarn acc ∧ is acc.instr

/-- The value a load gives for the `n` bytes `x` (R70, R215): LDS extends the sign, the others extend with zeros. -/
def loadedRule (n x : Nat) : Instr → W64
  | .lds _ _ _ => BitVec.ofInt 64 (BitVec.ofNat (8 * n) x).toInt
  | _ => BitVec.ofNat 64 x

/-- Whether any lane's page is resident, and whether any lane's is not. -/
def placed (v : View) (s : State) (i : Instr) (r : LaneReq) : Bool := (placeOf v s i r).isSome

/-- The bytes a store carries, lane by lane, least significant first (R8, R70, R216, R217). -/
def storedCells (v : View) (s : State) (i : Instr) : List (Nat × Byte) :=
  (requestsOf v i).flatMap (fun r => (List.range (accessBytes i)).map (fun k =>
    ((placeOf v s i r).getD 0 + k, BitVec.ofNat 8 (r.x.toNat / 256 ^ k))))

/-- The new value of one step of a VAMO (R221, R223). -/
def vectorAtomic (op : AmoOp) (old x : Nat) : Nat :=
  match op with
  | .add => (old + x) % 2 ^ 32
  | .swap => x
  | .and => old &&& x
  | .or => old ||| x
  | .xor => old ^^^ x
  | .minu => min old x
  | .maxu => max old x
  | .min => if (BitVec.ofNat 32 x).toInt < (BitVec.ofNat 32 old).toInt then x else old
  | .max => if (BitVec.ofNat 32 old).toInt < (BitVec.ofNat 32 x).toInt then x else old

/-- The cells of a core's stores that are not performed, in the order of their issue. -/
def Core.pendingCells (k : Core) : List (Nat × Byte) := k.stores.flatMap StoreOp.cells

/-- A byte of memory once every store of a core is performed: the youngest store's to it, else the one that stands (R74,
R218). -/
def pendingByte (s : State) (k : Core) (a : Nat) : Byte :=
  match (k.pendingCells.filter (fun e => decide (e.1 = a))).getLast? with
  | some e => e.2
  | none => Memory.get s.mem a

/-- `n` such bytes as a number, least significant byte first (R8). -/
def pendingWord (s : State) (k : Core) (pa : Nat) : Nat → Nat
  | 0 => 0
  | n + 1 => pendingWord s k pa n + (pendingByte s k (pa + n)).toNat * 256 ^ n

/-- The group as the end of a load's wait leaves its splits: an FLD or FTAKE goes on behind its instruction (R226). -/
def LoadOp.woken (o : LoadOp) (g : Group) : Group :=
  match o.wake with
  | some lane => g.resume lane
  | none => g

/-- p15 after a load's return: set for the lanes that arrived, clear for those of absent pages (R70, R210). -/
def ArrivedBits (o : LoadOp) (g g' : Group) : Prop :=
  ∀ k, k < 32 → (g'.pval 15).getLsbD k =
    if o.set.getLsbD k then true else if o.clear.getLsbD k then false else (g.pval 15).getLsbD k

/-- An outstanding load of a group that holds its slot. -/
structure Outstanding (s : State) (c slot n : Nat) (o : LoadOp) (g : Group) : Prop where
  here  : (s.core c).loads[n]? = some o
  slotIs : o.who.slot = slot
  due   : o.arrived = false
  owned : (s.core c).owns o.who = true
  group : s.group? c slot = some g

/-- The register of a load is no longer there: its frame is freed, or it lies above the frame's present size (R75, R83). -/
def CutOff (k : Core) (g : Group) (frame : Nat) (gen : BitVec 8) (r : RegRef) : Prop :=
  r.frameLocal = true ∧ (k.sgenOf frame ≠ gen ∨ ∃ n, r = .v n ∧ 8 * (g.frame frame).grans.length ≤ n)

/-- Every group but the one in a slot of a core is as before. -/
def OthersOf (c slot : Nat) (s t : State) : Prop := ∀ c' n, ¬(c' = c ∧ n = slot) → t.group? c' n = s.group? c' n

/-- Memory is as before but for the bytes of the fault ring (R212). -/
structure SameButRing (s t : State) : Prop where
  bytes  : ∀ a, ¬Within a (areaPhys ringArea) (64 * ringPlaces) → Memory.get t.mem a = Memory.get s.mem a
  poison : ∀ u, ¬Within (64 * u) (areaPhys ringArea) (64 * ringPlaces) → t.poison.contains u = s.poison.contains u
  full   : t.full = s.full

/-- A matrix instruction has issued and handed an operation to the array: one cycle has passed, its cost is debited, and
nothing but the group's bookkeeping, the operations of the array and the number of free choices made has changed. -/
structure Handed (i : Instr) (v : View) (s t : State) (o : MatOp) : Prop where
  tick   : t.tick = s.tick + 1
  world  : SameWorld s t
  memory : SameMemory s t
  msgs   : t.msgs = s.msgs
  tarn   : t.tarn = s.tarn
  others : OtherGroups v s t
  group  : t.group? v.sel.core v.sel.slot = some (v.booked s v.nextPc v.group)
  mats   : (t.core v.sel.core).mats = v.core.mats ++ [o]
  who    : o.who = v.who
  due    : o.drained = false ∧ o.absent = false ∧ o.records = 0
  serial : o.serial = s.fresh ∧ t.fresh = s.fresh + 1
  tasks  : Debited v s t (costOf v i)

/-- A matrix operation outstanding that its group, still in its slot, waits for. -/
structure InArray (s : State) (c slot n : Nat) (o : MatOp) (g : Group) : Prop where
  here    : (s.core c).mats[n]? = some o
  slotIs  : o.who.slot = slot
  due     : o.drained = false
  present : o.absent = false
  owned   : (s.core c).owns o.who = true
  group   : s.group? c slot = some g

/-- A pass of MMs that has begun, by its first operation, all of one group and accumulator (R255). -/
structure PassBegun (s : State) (c slot n : Nat) (o : MatOp) (g : Group) : Prop where
  first   : InArray s c slot n o g
  started : o.started = true
  heads   : o.pass = o.serial
  members : ∀ m ∈ passOf (s.core c) o.pass, m.kind = .mm ∧ m.target = o.target ∧ m.who.slot = slot ∧
    (s.core c).owns m.who = true

/-- Whether an operation of a pass writes an element of its accumulator where its quarter does not fault: one of a quarter it
names that no operation of a lower lane of its cycle writes (R61, R252). -/
def MatOp.puts (o : MatOp) (e : Nat) : Bool := o.quarters.getLsbD (e / 64) && !(o.lost.getLsbD e)

/-- No two operations of a pass write one element: quarters are pending until their results are written (R254). -/
def PassApart (l : List MatOp) : Prop := l.Pairwise (fun a b => ∀ e, e < 256 → ¬(a.puts e = true ∧ b.puts e = true))

/-- The cause with which a quarter of an operation of a pass faults: 3 where its carried residue differs, which kind 2 alone
has, else 4 where the copies of the pass differ in any element (R256, R257). -/
def quarterRule (o : MatOp) (residue dual : BitVec 4) (q : Nat) : Option Nat :=
  if mfrKind o.mfr = 2 ∧ residue.getLsbD q = true then some 3 else if dual ≠ 0 then some 4 else none

/-- An instruction that costs 1 has met a spill area whose page is not resident (R126, R303): its group is held with a
record of kind 5, no register has changed, and its split stands at it, the debit made. -/
structure HeldForArea (v : View) (s t : State) (area : Nat) : Prop where
  tick   : t.tick = s.tick + 1
  memory : SameButRing s t
  others : OtherGroups v s t
  tasks  : Debited v s t 1
  group  : ∃ g sp, t.group? v.sel.core v.sel.slot = some g ∧ g.stall = true ∧ (∀ fr r, SameReg v.group g fr r) ∧
    g.pennants = v.group.pennants ∧ g.splits[v.sel.idx]? = some sp ∧ sp.pc = v.split.pc ∧ sp.mask = v.m ∧
    sp.ptop = v.split.ptop ∧ sp.paid = some 1
  record : ∃ rec ∈ t.hub.ring ++ t.hub.recWait, rec.kind = 5 ∧ rec.core = v.sel.core ∧ rec.slot = v.sel.slot ∧
    rec.va = areaPhys area

/-- A move of a group's own has met a spill area whose page is not resident (R126, R287): the group is held with one record,
and nothing has moved. -/
structure MoveHeld (s t : State) (c slot area kind : Nat) (g : Group) : Prop where
  tick   : t.tick = s.tick
  memory : SameButRing s t
  tasks  : t.tasks = s.tasks
  others : OthersOf c slot s t
  group  : t.group? c slot = some { g with stall := true }
  record : ∃ rec ∈ t.hub.ring ++ t.hub.recWait, rec.kind = kind ∧ rec.core = c ∧ rec.slot = slot ∧ rec.va = areaPhys area

/-- A store that may be performed and writes one byte of the Mere map, in the window of a core that is in service. -/
structure MereByte (s : State) (c n : Nat) (o : StoreOp) (pa : Nat) (b : Byte) (m : MereAt) : Prop where
  here    : (s.core c).stores[n]? = some o
  may     : mayPerform (s.core c) n o = true
  cell    : o.cells = [(pa, b)]
  mere    : Config.mereBase ≤ pa
  core    : mereCore pa < Config.cores
  service : (s.core (mereCore pa)).inReset = false
  place   : mereAt (mereOffset pa) = m

/-- Everything outside the cells of a range of memory reads as before. -/
def SameOutside (s t : State) (pa n : Nat) : Prop :=
  ∀ a, (a < pa ∨ pa + n ≤ a) → Memory.get t.mem a = Memory.get s.mem a

/-- A group at crew start as R23, R24 and R110 give it: its registers, special registers and one split. -/
structure Fresh (g : Group) (tid n : Nat) (x : Task) : Prop where
  task    : g.task = tid
  gid     : g.gid = n
  stg     : g.stg = x.stages.toNat / 4 ^ n % 4
  scalars : ∀ fr k, (g.readS fr k).poison = false ∧ (g.readS fr k).val = if k = 1 then BitVec.ofNat 64 (x.va + 128) else 0
  vectors : ∀ fr k, g.readV fr k = VReg.zero
  preds   : ∀ k, k < 16 → g.readP k = ⟨if k = 15 then 0xFFFFFFFF else 0, false⟩
  special : g.sat = false ∧ g.mfr = 0 ∧ g.fcr = 0 ∧ g.tvb = 0 ∧ g.tca = 0 ∧ g.tpc = 0 ∧ g.tval = 0 ∧ g.mb = 256 ∧
    g.dual = false ∧ g.stale = 0 ∧ g.slip = 0
  tiles   : g.tiles.length = x.tiles ∧ ∀ e ∈ g.tiles, e.2.bytes = List.replicate 1536 0 ∧ e.2.poison = 0
  accs    : g.accs.length = x.accs ∧ ∀ e ∈ g.accs, e.2.vals = List.replicate 256 0 ∧ e.2.poison = 0
  split   : ∃ sp, g.splits = [sp] ∧ g.spilled = [] ∧ sp.pc = x.entry ∧ sp.mask = 0xFFFFFFFF ∧ sp.origin = 0 ∧
    sp.state = .ready ∧ sp.ptop = 0 ∧ (g.frame sp.frame).depth = 0 ∧ (g.frame sp.frame).grans.length = x.egran ∧
    (g.frame sp.frame).link = none ∧ (g.frame sp.frame).markGen = 0

/-- A split waits on a channel (R138). -/
def AtChannel (w : Wait) : Prop := ∃ ch, (∃ r, w = .push ch r) ∨ ∃ d, w = .pop ch d

/-- A special register of a group as MFS reads it (R24); the numbers the group does not own give 0 here. -/
def groupSpecial (g : Group) : Nat → W64
  | 2 => BitVec.ofNat 64 (if g.sat then 1 else 0)
  | 3 => BitVec.ofNat 64 g.mfr.toNat
  | 4 => BitVec.ofNat 64 g.fcr.toNat
  | 5 => g.tvb
  | 6 => BitVec.ofNat 64 g.tca.toNat
  | 7 => g.tpc
  | 8 => g.tval
  | 11 => BitVec.ofNat 64 g.gid
  | 13 => BitVec.ofNat 64 g.stg
  | 14 => BitVec.ofNat 64 g.mb.toNat
  | 15 => BitVec.ofNat 64 (if g.dual then 1 else 0)
  | 16 => BitVec.ofNat 64 g.stale.toNat
  | 17 => BitVec.ofNat 64 g.slip.toNat
  | _ => 0

/-- A group as a restore puts it back (R129, R297): its registers, special registers, pennants, origins and faults as saved,
its entries with the PC and mask they had, and its frames, in the order of R296, in the granules given. -/
structure PutBack (x g : Group) (scalars : List Nat) : Prop where
  globals  : g.s = x.s ∧ g.v = x.v ∧ g.p = x.p
  special  : ∀ n, groupSpecial g n = groupSpecial x n
  tiles    : g.tiles.map (fun e => (e.1, e.2.bytes, e.2.poison)) = x.tiles.map (fun e => (e.1, e.2.bytes, e.2.poison))
  accs     : g.accs.map (fun e => (e.1, e.2.vals, e.2.poison)) = x.accs.map (fun e => (e.1, e.2.vals, e.2.poison))
  state    : g.handler = x.handler ∧ g.pennants = x.pennants ∧ g.origins = x.origins ∧ g.mfaults = x.mfaults
  splits   : g.splits.map (fun sp => (sp.pc, sp.mask, sp.origin, sp.ptop)) =
    x.splits.map (fun sp => (sp.pc, sp.mask, sp.origin, sp.ptop))
  spilled  : g.spilled.map (fun sp => (sp.pc, sp.mask, sp.origin, sp.ptop)) =
    x.spilled.map (fun sp => (sp.pc, sp.mask, sp.origin, sp.ptop))
  frames   : ∀ j e, (frameList x)[j]? = some e → (g.frame (scalars.getD j 0)).v = e.2.v ∧
    (g.frame (scalars.getD j 0)).s = e.2.s ∧ (g.frame (scalars.getD j 0)).depth = e.2.depth ∧
    (g.frame (scalars.getD j 0)).retPc = e.2.retPc ∧ (g.frame (scalars.getD j 0)).markGen = e.2.markGen

/-! The bytes of a crew image (R205, R206, R294 to R296). -/

/-- The number of `w` bytes at an offset of a list, least significant first (R8). -/
def fieldAt (b : List Byte) (o w : Nat) : Nat := leNat ((b.drop o).take w)

/-- Lane L of a register less lane 0, as a signed number (R206). -/
def laneGap (r : VReg) (k : Nat) : Int := (laneAt r.lanes k - laneAt r.lanes 0).toInt

/-- Every lane of a register lies within `n` of lane 0, −`n` itself with it (R206). -/
abbrev Near (r : VReg) (n : Int) : Prop := ∀ k, k < 32 → -n ≤ laneGap r k ∧ laneGap r k < n

/-- All lanes of a register are equal (R206). -/
abbrev Level (r : VReg) : Prop := ∀ k, k < 32 → laneGap r k = 0

/-- The bytes that the record of a register takes (R206). -/
def recordLen (r : VReg) : Nat :=
  if r.poison ≠ 0 then 133 else if Level r then 5 else if Near r 128 then 36 else if Near r 32768 then 67 else 129

/-- The bytes that the records of `n` registers take. -/
def recordsLen (n : Nat) (r : Nat → VReg) : Nat := total ((List.range n).map (fun k => recordLen (r k)))

/-- The record of a register at an offset: its format byte, and its lanes in that format (R205, R206). -/
structure VectorLaid (b : List Byte) (o : Nat) (r : VReg) : Prop where
  poisoned : r.poison ≠ 0 → b.getD o 0 = 0x80 ∧ fieldAt b (o + 1) 4 = r.poison.toNat ∧
    ∀ k, k < 32 → fieldAt b (o + 5 + 4 * k) 4 = if r.poison.getLsbD k then 0 else (laneAt r.lanes k).toNat
  equal    : r.poison = 0 → Level r → b.getD o 0 = 1 ∧ fieldAt b (o + 1) 4 = (laneAt r.lanes 0).toNat
  delta8   : r.poison = 0 → ¬Level r → Near r 128 → b.getD o 0 = 2 ∧ fieldAt b (o + 1) 4 = (laneAt r.lanes 0).toNat ∧
    ∀ k, 0 < k → k < 32 → b.getD (o + 4 + k) 0 = BitVec.ofInt 8 (laneGap r k)
  delta16  : r.poison = 0 → ¬Near r 128 → Near r 32768 → b.getD o 0 = 3 ∧ fieldAt b (o + 1) 4 = (laneAt r.lanes 0).toNat ∧
    ∀ k, 0 < k → k < 32 → fieldAt b (o + 3 + 2 * k) 2 = (BitVec.ofInt 16 (laneGap r k)).toNat
  raw      : r.poison = 0 → ¬Near r 32768 → b.getD o 0 = 0 ∧
    ∀ k, k < 32 → fieldAt b (o + 1 + 4 * k) 4 = (laneAt r.lanes k).toNat

/-- The bytes that a frame takes (R296). -/
def frameLen (f : Frame) : Nat := 32 + recordsLen (8 * f.grans.length) (fun k => Table.getD f.v k VReg.zero) + 256

/-- A frame with its registers at an offset (R296). -/
structure FrameLaid (b : List Byte) (o : Nat) (z : SavedGroup) (e : Nat × Frame) : Prop where
  head    : fieldAt b o 8 = e.2.retPc.toNat % 2 ^ 56
  place   : fieldAt b (o + 8) 8 = ((match e.2.link with
    | some l => frameIndex z.group l
    | none => 0x7FF) + e.2.grans.length * 2 ^ 12 + e.2.depth * 2 ^ 16 + e.2.markGen.toNat * 2 ^ 24) % 2 ^ 64
  poison  : ∀ k, k < 32 → (fieldAt b (o + 16) 4).testBit k = (Table.getD e.2.s (32 + k) SReg.zero).poison
  slot    : fieldAt b (o + 24) 8 = (e.1 + (Table.getD z.gens e.1 0).toNat * 2 ^ 16) % 2 ^ 64
  vectors : ∀ k, k < 8 * e.2.grans.length →
    VectorLaid b (o + 32 + recordsLen k (fun n => Table.getD e.2.v n VReg.zero)) (Table.getD e.2.v k VReg.zero)
  scalars : ∀ k, k < 32 → fieldAt b (o + frameLen e.2 - 256 + 8 * k) 8 = (Table.getD e.2.s (32 + k) SReg.zero).val.toNat

/-- The saved MMMs of a group, those whose faults are not kept instead (R295). -/
def savedMmms (z : SavedGroup) : List MatOp := z.mats.filter (fun o => decide (o.kind = .mmm ∧ o.drained = false))

/-- The rows of A of the quarters that a saved MMM names, 4 of each (R295). -/
def savedRows (o : MatOp) : List Byte := (quarterList o.quarters).flatMap (fun q => ((o.rows.drop (4 * q)).take 4).flatten)

/-- Where the matrix faults of a group block begin: after the group header, the split list, the origin table and the pennant
stack (R295). -/
def faultsAt (g : Group) : Nat := 128 + 32 * g.entries.length + 32 + 4 * pennantDepth g

/-- Where the saved MMMs of a group block begin (R295). -/
def mmmsAt (g : Group) : Nat := faultsAt g + 16 * g.mfaults.length

/-- The bytes that some saved MMMs take (R295). -/
def mmmsLen (l : List MatOp) : Nat := total (l.map (fun o => 32 + (savedRows o).length))

/-- Where the registers of a group block begin (R295). -/
def registersAt (z : SavedGroup) : Nat := mmmsAt z.group + mmmsLen (savedMmms z)

/-- Where the tiles of a group block begin (R295). -/
def tilesAt (z : SavedGroup) : Nat := registersAt z + 64 + 248 + recordsLen 8 (fun k => Table.getD z.group.v (120 + k) VReg.zero)

/-- Where the frames of a group block begin (R295). -/
def framesAt (z : SavedGroup) : Nat := tilesAt z + 1540 * z.group.tiles.length + 1028 * z.group.accs.length

/-- A group block: its header, its entries, origins, pennants, matrix faults and saved MMMs, its registers, tiles, accumulators
and frames (R114, R115, R126, R205, R206, R295, R296). -/
structure BlockLaid (b : List Byte) (z : SavedGroup) : Prop where
  counts   : fieldAt b 0 8 = (z.group.entries.length + handlerIndex z.group * 2 ^ 8 + (if z.forced then 2 ^ 16 else 0) +
    pennantDepth z.group * 2 ^ 32) % 2 ^ 64
  modes    : fieldAt b 8 8 = z.group.mfr.toNat + z.group.fcr.toNat * 2 ^ 16 + (if z.group.sat then 2 ^ 18 else 0) +
    (if z.group.dual then 2 ^ 19 else 0) + z.group.mb.toNat * 2 ^ 32
  handler  : fieldAt b 0x10 8 = z.group.tvb.toNat ∧ fieldAt b 0x18 8 = z.group.tca.toNat ∧
    fieldAt b 0x20 8 = z.group.tpc.toNat ∧ fieldAt b 0x28 8 = z.group.tval.toNat
  drops    : fieldAt b 0x30 8 = z.group.stale.toNat + z.group.slip.toNat * 2 ^ 32
  ctrs     : fieldAt b 0x38 8 = z.ctrs.1 % 2 ^ 16 + z.ctrs.2.1 % 2 ^ 16 * 2 ^ 16 + z.ctrs.2.2.1 % 2 ^ 16 * 2 ^ 32 +
    z.ctrs.2.2.2 % 2 ^ 16 * 2 ^ 48
  poison   : (∀ k, 0 < k → k < 32 → (fieldAt b 0x40 4).testBit k = (z.group.readS 0 k).poison) ∧
    ∀ k, k < 16 → (fieldAt b 0x44 4).testBit k = (z.group.readP k).poison
  numbers  : fieldAt b 0x48 8 = (z.group.mfaults.length + (savedMmms z).length * 2 ^ 24 + z.group.frames.length * 2 ^ 32) % 2 ^ 64
  place    : fieldAt b 0x50 8 = (z.ggen.toNat + z.slot * 2 ^ 16 + z.core * 2 ^ 32) % 2 ^ 64
  zeros    : ∀ k, 0x58 ≤ k → k < 128 → b.getD k 0 = 0
  splits   : ∀ i sp, z.group.entries[i]? = some sp → fieldAt b (128 + 32 * i) 8 = sp.pc.toNat % 2 ^ 56 ∧
    fieldAt b (128 + 32 * i + 8) 8 = (sp.mask.toNat + frameIndex z.group sp.frame * 2 ^ 32 + sp.origin * 2 ^ 48 +
      (z.group.asShown sp).state.code * 2 ^ 56) % 2 ^ 64 ∧
    fieldAt b (128 + 32 * i + 16) 8 = (if (z.group.asShown sp).state = .meet then sp.meet.toNat % 2 ^ 56 else 0) ∧
    fieldAt b (128 + 32 * i + 24) 8 =
      ((if (z.group.asShown sp).state = .meet then sp.mrem * 2 ^ 32 else 0) + sp.ptop * 2 ^ 48) % 2 ^ 64
  origins  : ∀ o, 0 < o → o < 32 → b.getD (128 + 32 * z.group.entries.length + o) 0 = (match Table.get? z.group.origins o with
    | some p => BitVec.ofNat 8 (128 + p)
    | none => 0)
  pennants : ∀ k, k < pennantDepth z.group → fieldAt b (160 + 32 * z.group.entries.length + 4 * k) 4 =
    (Table.getD z.group.pennants k 0).toNat
  faults   : ∀ i f, z.group.mfaults[i]? = some f → fieldAt b (faultsAt z.group + 16 * i) 8 = f.tval.toNat ∧
    b.getD (faultsAt z.group + 16 * i + 8) 0 = BitVec.ofNat 8 f.cause
  mmms     : ∀ i o p, (savedMmms z)[i]? = some o → p = mmmsAt z.group + mmmsLen ((savedMmms z).take i) →
    fieldAt b p 8 = o.pc.toNat % 2 ^ 56 ∧ fieldAt b (p + 8) 8 = (o.target + o.quarters.toNat * 2 ^ 8) % 2 ^ 64 ∧
    fieldAt b (p + 16) 8 = o.bva.toNat ∧ fieldAt b (p + 24) 8 = o.mfr.toNat + (if o.dual then 2 ^ 16 else 0) ∧
    (b.drop (p + 32)).take (savedRows o).length = savedRows o
  globals  : (∀ k, k < 16 → fieldAt b (registersAt z + 4 * k) 4 = (z.group.pval k).toNat) ∧
    (∀ k, 0 < k → k < 32 → fieldAt b (registersAt z + 64 + 8 * (k - 1)) 8 = (z.group.readS 0 k).val.toNat) ∧
    ∀ k, k < 8 → VectorLaid b (registersAt z + 312 + recordsLen k (fun n => Table.getD z.group.v (120 + n) VReg.zero))
      (Table.getD z.group.v (120 + k) VReg.zero)
  storage  : (∀ e ∈ z.group.tiles, e.2.bytes.length = 1536) → (∀ e ∈ z.group.accs, e.2.vals.length = 256) →
    (∀ j e, z.group.tiles[j]? = some e → fieldAt b (tilesAt z + 1540 * j) 4 = e.2.poison.toNat ∧
      ∀ k, k < 1536 → b.getD (tilesAt z + 1540 * j + 4 + k) 0 = e.2.bytes.getD k 0) ∧
    (∀ j e, z.group.accs[j]? = some e →
      b.getD (tilesAt z + 1540 * z.group.tiles.length + 1028 * j) 0 = BitVec.ofNat 8 e.2.poison.toNat ∧
      ∀ k, k < 256 → fieldAt b (tilesAt z + 1540 * z.group.tiles.length + 1028 * j + 4 + 4 * k) 4 =
        (e.2.vals.getD k 0).toNat) ∧
    ∀ j e, (frameList z.group)[j]? = some e →
      FrameLaid b (framesAt z + total (((frameList z.group).take j).map (fun x => frameLen x.2))) z e

/-- The full slots of a task's channels, in channel and in ring order (R294). -/
def fullSlots (y : Task) : List VReg := y.chans.flatMap (fun e => e.2.full)

/-- The channels of a task are numbered below 16, each once, with at most 8 slots of which no more are full than there are (R137). -/
def ChannelsSound (y : Task) : Prop :=
  (Table.keys y.chans).Nodup ∧ ∀ e ∈ y.chans, e.1 < 16 ∧ 0 < e.2.depth ∧ e.2.depth ≤ 8 ∧ e.2.full.length ≤ e.2.depth ∧
    e.2.pushPos < 8 ∧ e.2.popPos < 8

/-- The image of a saved task, whose groups' blocks begin at `off`: its header, the full channel slots, the blocks one after
another behind them, and each block (R205, R294). -/
structure ImageLaid (b : List Byte) (y : Task) (off : Nat → Nat) : Prop where
  version : b.getD 0 0 = 1 ∧ b.getD 1 0 = BitVec.ofNat 8 (y.saved.length - 1)
  size    : fieldAt b 4 4 = b.length % 2 ^ 32
  task    : fieldAt b 8 8 = y.handle.toNat
  full    : ChannelsSound y → ∀ c x k, (c, x) ∈ y.chans → k < 8 →
    ((fieldAt b 0x10 16).testBit (8 * c + k) = true ↔ ∃ j, j < x.full.length ∧ (x.popPos + j) % x.depth = k)
  places  : ChannelsSound y → ∀ c, c < 16 → b.getD (0x20 + c) 0 = (match Table.get? y.chans c with
    | some x => BitVec.ofNat 8 (x.pushPos + 8 * x.popPos)
    | none => 0)
  resume  : (∀ z ∈ y.saved, z.group.entries.length ≤ 32) → ∀ g e z sp, y.saved[g]? = some z → z.group.entries[e]? = some sp →
    (fieldAt b 0x40 64).testBit (32 * g + e) = z.resume.any (fun l => sp.mask.getLsbD l)
  slots   : ∀ j r, (fullSlots y)[j]? = some r → VectorLaid b (256 + total (((fullSlots y).take j).map recordLen)) r
  first   : off 0 = 256 + total (y.chans.map (fun e => total (e.2.full.map recordLen)))
  blocks  : ∀ j z, y.saved[j]? = some z → j < 16 → fieldAt b (0x80 + 8 * j) 8 = off j % 2 ^ 64 ∧
    off (j + 1) = off j + z.block.length ∧ BlockLaid (b.drop (off j)) z

/-- A context's stamp buffer of `size` places lies, its header first, at the given places of plain memory, each its own
(R309). -/
structure BufferLaid (s : State) (ctx asid va size : Nat) (f : Nat → Nat) : Prop where
  reads  : ∀ k, k < 64 * (1 + size) → physOf s ctx asid (va + k) Need.load = some (f k)
  writes : ∀ k, k < 64 * (1 + size) → physOf s ctx asid (va + k) Need.store = some (f k)
  low    : ∀ k, k < 64 * (1 + size) → f k < Config.mereBase
  once   : ∀ j k, j < 64 * (1 + size) → k < 64 * (1 + size) → f j = f k → j = k

/-- The number of `w` bytes at an offset of what lies at the given places of memory, least significant first (R8). -/
def placedWord (m : List Host.Cell) (f : Nat → Nat) (o w : Nat) : Nat :=
  leNat ((List.range w).map (fun k => Memory.get m (f (o + k))))

/-- A stamp record of a closed tile at an offset (R308). -/
structure RecordLaid (m : List Host.Cell) (f : Nat → Nat) (p : Nat) (r : TileRec) (x : Task) (seq : Nat) : Prop where
  take   : placedWord m f p 8 = r.taken % 2 ^ 64
  events : ∀ i, i < 7 → placedWord m f (p + 8 + 4 * i) 4 = (match r.events.getD i none with
    | some e => min (e - r.taken) 0xFFFFFFFF
    | none => 0)
  coord  : placedWord m f (p + 0x24) 8 = r.coord.toNat
  task   : placedWord m f (p + 0x2C) 8 = x.handle.toNat
  pnnt   : placedWord m f (p + 0x34) 4 = (r.pnnt.map BitVec.toNat).getD 0
  valid  : placedWord m f (p + 0x38) 4 = (total ((List.range 7).map (fun i =>
    if (r.events.getD i none).isSome then 2 ^ i else 0)) + (if r.pnnt.isSome then 2 ^ 7 else 0) + x.place * 2 ^ 16) % 2 ^ 32
  seq    : placedWord m f (p + 0x3C) 4 = seq % 2 ^ 32

/-- The value MFS gives (R24, R26): the task's and the core's registers, else the group's. -/
def specialRule (v : View) (s : State) : Nat → W64
  | 0 => BitVec.ofNat 64 (if v.task.alw = Config.unmetered ∨ v.split.paid.isSome = true then v.task.alw else v.task.alw - 1)
  | 1 => BitVec.ofNat 64 v.task.rsv
  | 9 => BitVec.ofNat 64 (s.cyc v.sel.core)
  | 10 => BitVec.ofNat 64 v.task.va
  | 12 => BitVec.ofNat 64 v.sel.core
  | n => groupSpecial v.group n

/-- What a group's special register reads as after MTS of `x` over `old` (R11, R24): a read-only one keeps its value. -/
def mtsRule (old x : W64) : Nat → W64
  | 2 => if x.toNat % 2 = 1 then 0 else old
  | 3 | 14 => BitVec.ofNat 64 (x.toNat % 2 ^ 16)
  | 4 => BitVec.ofNat 64 (x.toNat % 4)
  | 5 => BitVec.ofNat 64 (x.toNat % 2 ^ 56 / 256 * 256)
  | 7 => BitVec.ofNat 64 (x.toNat % 2 ^ 56 / 4 * 4)
  | 8 => x
  | 15 => BitVec.ofNat 64 (x.toNat % 2)
  | 16 | 17 => BitVec.ofNat 64 (x.toNat % 2 ^ 32)
  | _ => old

/-- No debug stop of the context matches an ENTER or LEAVE of a region, and no halt of the group stands (R315). -/
def NoStop (v : View) (s : State) (region : BitVec 24) (entering : Bool) : Prop :=
  ∀ cx, Table.get? s.hub.ctxs v.task.ctx = some cx → (cx.debug || cx.revoked) = true →
    v.group.haltReq = false ∧ ∀ p ∈ cx.stops, p.region = region → (if entering then p.onEnter else p.onLeave) = false

/-- The state in which a split has a cycle of its own (R125, R131, R132): it is selected, and its group goes behind the others
of its level. -/
def State.chosen (s : State) (sel : Sel) : State := { s.bookGroup sel with cur := some sel, together := none }

/-- The group as an ENTER leaves it: its identifier on the split's pennant stack (R302, R304). -/
def View.entered (v : View) (r : BitVec 24) : Group :=
  { v.group with
    pennants := Table.set v.group.pennants v.split.ptop r
    splits := changeAt v.group.splits v.sel.idx (fun sp => { sp with ptop := v.split.ptop + 1 }) }

/-- The group as a LEAVE leaves it: its split's pennant stack without the top (R302, R304). -/
def View.leftRegion (v : View) : Group :=
  { v.group with splits := changeAt v.group.splits v.sel.idx (fun sp => { sp with ptop := v.split.ptop - 1 }) }

/-- A halted group (R315). -/
def Group.stopped (g : Group) : Group := { g with halted := true, haltReq := false }

/-- Every root task of a kind that has not ended is unwinding with a status (R283, R337). -/
def RootsEnd (s t : State) (test : Task → Prop) (status : Nat) : Prop :=
  ∀ k x, Table.get? s.tasks k = some x → x.isRoot = true → test x → x.state ≠ .done →
    ∃ y, Table.get? t.tasks k = some y ∧ y.state = .unwinding ∧ y.xstat = status

/-- Every page that lies on a physical range has its ASID dying, its root tasks LOST, and an event of kind 5 that names it
and the structure (R279, R283, R325). -/
def AsidsLost (s t : State) (pa len structureCode : Nat) : Prop :=
  ∀ p ∈ s.hub.pages, p.pa < pa + len → pa < p.pa + pageBytes p.size →
    p.asid ∈ t.hub.dying ∧ RootsEnd s t (fun x => x.asid = p.asid) 5 ∧
    (⟨5, [BitVec.ofNat 64 (p.asid + structureCode * 2 ^ 16)]⟩ : Event) ∈ t.hub.events

/-- The bytes of a 64-byte line after a write of it: the line's, but where R11 closes a field (R327). -/
def LineWritten (s t : State) (pa : Nat) (data : BitVec 512) : Prop :=
  (∀ k, k < 64 → Memory.get t.mem (pa + k) =
    if blockFixed s (pa + k) then Memory.get s.mem (pa + k) else BitVec.ofNat 8 (data.toNat / 256 ^ k)) ∧
  SameOutside s t pa 64

/-! The queues of the host. -/

/-- Two words of 8 bytes share no byte. -/
def Apart (a b : Nat) : Prop := a + 8 ≤ b ∨ b + 8 ≤ a

/-- Every dword of a packet's payload from an offset on is zero (R332). -/
def ZeroFrom (p : Packet) (o : Nat) : Prop :=
  (o ≤ 0x10 → p.w10 = 0) ∧ (o ≤ 0x18 → p.w18 = 0) ∧ (o ≤ 0x20 → p.w20 = 0) ∧ (o ≤ 0x28 → p.w28 = 0) ∧
  (o ≤ 0x30 → p.w30 = 0) ∧ (o ≤ 0x38 → p.w38 = 0)

/-- The bits of a dword outside a mask are zero. -/
def OnlyBits (used w : W64) : Prop := w &&& ~~~used = 0

/-- Nothing but memory and the hub has changed. -/
structure SameDevice (s t : State) : Prop where
  tick   : t.tick = s.tick
  fresh  : t.fresh = s.fresh
  cur    : t.cur = s.cur
  inbox  : t.inbox = s.inbox
  cores  : t.cores = s.cores
  tasks  : t.tasks = s.tasks
  incs   : t.incs = s.incs
  msgs   : t.msgs = s.msgs
  poison : t.poison = s.poison
  full   : t.full = s.full
  tarn   : t.tarn = s.tarn

/-- A packet of a kind stands next at a queue and passes the checks that every kind shares (R328, R331, R332, R355); its
control block lies in plain memory, and the number of its operation is new. -/
structure PacketNext (q : Nat) (p : Packet) (kind : Nat) (x : Queue) (r : RingHead) (s : State) : Prop where
  isNext   : nextPacket s q = some (x, r, p)
  hasKind  : p.kind = kind
  wordGood : p.slotWord.toNat % 2 ^ 63 / 256 = 0
  cwPasses : cwGood s x p.cw = true
  alive    : s.hub.isDying x.asid = false
  low      : r.block + 64 ≤ Config.mereBase
  newId    : ∀ o ∈ s.hub.ops, o.id ≠ s.hub.nextOp

/-- The packet has been taken (R335): its journal word stands with v = 1, the update of head, slot and v is due, its
operation waits as given, and memory outside the journal word and what the packet itself wrote reads as before. -/
structure PacketTaken (q : Nat) (p : Packet) (x : Queue) (r : RingHead) (wait : HubWait) (wrote : Nat → Prop)
    (s t : State) : Prop where
  tick  : t.tick = s.tick
  queue : t.hub.queues = Table.set s.hub.queues q { x with taken := x.taken + 1, retire := 1 }
  op    : t.hub.ops = s.hub.ops ++ [⟨s.hub.nextOp, q, x.taken, p.kind, p.cw, wait⟩]
  id    : t.hub.nextOp = s.hub.nextOp + 1
  word  : (∀ k, k < 8 → ¬wrote (r.block + 0x28 + k)) →
    wordAt t.mem (r.block + 0x28) 8 = (r.head + 1) % 2 ^ 48 * 2 ^ 16 + p.kind * 2 ^ 8 + 1
  bytes : ∀ a, ¬Within a (r.block + 0x28) 8 → ¬wrote a → Memory.get t.mem a = Memory.get s.mem a

/-- No byte of memory but those of taking a packet. -/
def nowhere : Nat → Prop := fun _ => False

/-- An admin packet of a kind stands next and passes the checks that every command shares (R328, R333, R339, R355); the
words it makes firmware write lie apart in plain memory. -/
structure AdminNext (p : Packet) (kind : Nat) (r : RingHead) (s : State) : Prop where
  isNext   : adminPacket s = some (r, p)
  hasKind  : p.kind = kind
  admitted : s.hub.halted = true → kind = 0x8B ∨ kind = 0x8C
  wordGood : p.slotWord.toNat % 2 ^ 63 / 256 = 0
  cwPasses : p.cw.toNat % 8 = 0 ∧ p.cw.toNat + 8 ≤ Config.mereBase
  low      : r.block + 64 ≤ Config.mereBase
  cwApart  : p.cw ≠ 0 → Apart p.cw.toNat (r.block + 0x28)
  settled  : s.hub.adminWait = .none

/-- An admin command has completed (R329, R333, R335): its journal word stands with v = 1, its completion word holds status
and result, and memory outside these words and what the command itself wrote reads as before. -/
structure AdminEnds (p : Packet) (r : RingHead) (status result : Nat) (wrote : Nat → Prop) (s t : State) : Prop where
  tick    : t.tick = s.tick
  journal : (∀ k, k < 8 → ¬wrote (r.block + 0x28 + k)) →
    wordAt t.mem (r.block + 0x28) 8 = (r.head + 1) % 2 ^ 48 * 2 ^ 16 + p.kind * 2 ^ 8 + 1
  word    : p.cw ≠ 0 → wordAt t.mem p.cw.toNat 8 = (status + result * 2 ^ 16) % 2 ^ 64
  bytes   : ∀ a, ¬Within a (r.block + 0x28) 8 → (p.cw ≠ 0 → ¬Within a p.cw.toNat 8) → ¬wrote a →
    Memory.get t.mem a = Memory.get s.mem a

/-- The hub after the completion of an admin command: the update of head, slot and v is due in the block of its packet, and
vector 0 is signalled with the completion word (R325, R329, R335). -/
def Hub.completed (h : Hub) (p : Packet) : Hub :=
  { h with adminRetire := 1, adminAt := h.admq, msix := if p.cw = 0 then h.msix else h.msix ++ [0] }

/-- A byte is none of those an admin packet is taken and completed with. -/
def Untouched (p : Packet) (r : RingHead) (a : Nat) : Prop :=
  ¬Within a (r.block + 0x28) 8 ∧ (p.cw ≠ 0 → ¬Within a p.cw.toNat 8)

/-- `n` bytes at a virtual address of a context lie at the given places of plain memory, each its own and none of them
touched by the admin packet. -/
structure Laid (s : State) (p : Packet) (r : RingHead) (ctx asid va n : Nat) (need : Need) (f : Nat → Nat) : Prop where
  lies  : ∀ k, k < n → physOf s ctx asid (va + k) need = some (f k)
  low   : ∀ k, k < n → f k < Config.mereBase
  once  : ∀ j k, j < n → k < n → f j = f k → j = k
  clear : ∀ k, k < n → Untouched p r (f k)

/-- Two ranges of 64 bytes share no byte. -/
def Disjoint64 (a b : Nat) : Prop := a + 64 ≤ b ∨ b + 64 ≤ a

/-- The ring of a queue, whose block is at `b`: the slot at each position from its head on lies at `f`, none where its page is
absent, in plain memory, and apart from the others and from the block (R327, R328). -/
structure RingHolds (s : State) (x : Queue) (b head lsz : Nat) (f : Nat → Option Nat) : Prop where
  block : physOf s x.ctx x.asid x.block Need.load = some b
  low   : b + 64 ≤ Config.mereBase
  base  : wordAt s.mem b 8 % 2 ^ 56 % 64 = 0
  size  : lsz = wordAt s.mem (b + 8) 8 % 32 ∧ 1 ≤ lsz ∧ lsz ≤ 16
  first : head = wordAt s.mem (b + 0x18) 8
  lies  : ∀ i, i < 2 ^ lsz →
    physOf s x.ctx x.asid (wordAt s.mem b 8 % 2 ^ 56 + 64 * ((head + i) % 2 ^ lsz)) Need.load = f i
  plain : ∀ i a, i < 2 ^ lsz → f i = some a → a + 64 ≤ Config.mereBase ∧ Disjoint64 a b ∧ Open s a 8
  apart : ∀ i j a c, i < 2 ^ lsz → j < 2 ^ lsz → i ≠ j → f i = some a → f j = some c → Disjoint64 a c

/-- The positions of a ring, from its head on, whose slots are full (R328). -/
def fullPositions (s : State) (lsz : Nat) (f : Nat → Option Nat) : List (Nat × Nat) :=
  (List.range (2 ^ lsz)).filterMap (fun i => match f i with
    | some a => if slotFull s a then some (i, a) else none
    | none => none)

/-- A byte after an edit whose data goes to the bytes from `start` on. -/
def Edit.over (e : Edit) (start p : Nat) (old : Byte) : Byte :=
  if start ≤ p ∧ p < start + e.data.length then e.data.getD (p - start) 0 else old

/-- A byte of a word. -/
def wordByte {w : Nat} (x : BitVec w) (k : Nat) : Byte := x.extractLsb' (8 * k) 8

/-- The frame that an edit names (R296, R334). -/
def Edit.frameOf (g : Group) (e : Edit) : Nat := ((frameList g)[e.frame]?.map Prod.fst).getD 0

/-- Every register of a group but one, of the edit's frame where it is local, is as before. -/
def OnlyRegister (g g' : Group) (fr : Nat) (q : RegRef) : Prop :=
  ∀ fr' r, ¬(r = q ∧ (r.frameLocal = true → fr' = fr)) → SameReg g g' fr' r

/-- A DEBUG command of an operation stands next, on a context that holds debug rights, none of them withdrawn (R315,
R317). -/
structure DebugNext (p : Packet) (op : Nat) (r : RingHead) (c : Ctx) (s : State) : Prop where
  admin  : AdminNext p 0x8A r s
  isOp   : debugOp p = op
  clean  : OnlyBits 0xF000FFFFF p.w10
  ctx    : Table.get? s.hub.ctxs (debugCtx p) = some c
  rights : c.debug = true ∧ c.revoked = false

end Sys2Proof.Machine
end

