-- ==== Sys2Proof/Certificates/Slice0/Obligations.lean ====
section
/-! DEFINITION. The statements for the provers: what the rules of spec/ say, of the model. -/

open Sys2Proof Sys2Proof.Machine

/-- For every well-formed encoded instruction, with every operand at every value its field admits, decoding the word that
encodes it gives that instruction. (R43, R45, R47, R48, R49, R50, R51) -/
def Obligations.DecodeOfEncode : Prop :=
  ∀ i : Instr, i.isEncoded = true → WellFormed i → decodeWord (encode i) = some i

/-- A 32-bit word that decodes to an instruction decodes to a well-formed encoded one whose encoding is that word:
decoding drops no bit, so every zero field of the word is zero and no two words mean one instruction. (R43, R44, R49,
R52) -/
def Obligations.EncodeOfDecode : Prop :=
  ∀ (w : Nat) (i : Instr), w < 2 ^ 32 → decodeWord w = some i → i.isEncoded = true ∧ WellFormed i ∧ encode i = w

/-- Words written bit by bit from the encodings of the spec decode to the instructions they stand for: ADD, ADDI, LI, CMP,
BZ, BRV, CALL, LD, AMO, FENCE, VADD, VCMP, VSLIDE, VLDC, MM, CPY2, PUSH, MFS, MTS, WAITC, ENTER. (R43, R45, R46, R49,
R50) -/
def Obligations.SampleWords : Prop :=
  decodeWord 0b0000001_0100001_0100010_0100011_0000 = some (.add 33 34 35) ∧
  decodeWord 0b0010000_0100001_0100010_11111111011 = some (.addi 33 34 (-5)) ∧
  decodeWord 0b0010101_0100001_111111111110011100 = some (.li 33 (-100)) ∧
  decodeWord 0b0000101_0100001_0100010_0100011_0010 = some (.cmp .lt 33 34 35) ∧
  decodeWord 0b0011000_0101_00_1111111111111111110 = some (.bz 5 (-2)) ∧
  decodeWord 0b0011000_1111_10_0000000000000000011 = some (.brv 15 3) ∧
  decodeWord 0b0011001_1111000_000000000000010000 = some (.call 120 16) ∧
  decodeWord 0b0100000_0000011_0000100_000_10_00_0000 = some (.ld .word 3 4) ∧
  decodeWord 0b0100001_0000011_0000100_010_11_00_0101 = some (.amo .max .dword .die 3 4) ∧
  decodeWord 0b0100101_0000000_0000000_011_01_00_0000 = some (.fence .rel .dev) ∧
  decodeWord 0b0110000_0000110_0000100_0000101_0010 = some (.vadd .f32 6 4 5) ∧
  decodeWord 0b0111101_0100011_0000100_0000101_0010 = some (.vcmp .lt .f32 3 4 5) ∧
  decodeWord 0b1000000_0000100_0000010_0000101_1011 = some (.vslide true 3 4 2 5) ∧
  decodeWord 0b1000110_0001000_0000010_000_01_00_0000 = some (.vldc .half 8 2) ∧
  decodeWord 0b1010001_0000010_0001100_0000111_0000 = some (.mm 2 12 7) ∧
  decodeWord 0b1100001_0100001_0000100_0000000_0000 = some (.cpy2 33 4) ∧
  decodeWord 0b1100011_0000000_0000111_0000000_1001 = some (.push 7 9) ∧
  decodeWord 0b1110000_0100001_0001001_0000000_0000 = some (.mfs 33 9) ∧
  decodeWord 0b1110000_0000101_0100001_0000000_0001 = some (.mts 5 33) ∧
  decodeWord 0b1110011_000000000_0000_1111_1111_0000 = some (.waitc 0 15 15 0) ∧
  decodeWord 0b1111000_0_000000000000000000000111 = some (.enter 7)

/-- A word of a reserved major opcode decodes to no instruction. A live split that issues a word that decodes to no
instruction enters its handler with cause 0, tpc the word's PC, tval the word; nothing is debited, and a debit made
before its split parked is undone. With no handler its task enters UNWINDING with status CANCELLED. (R52) -/
def Obligations.IllegalWords : Prop :=
  (∀ w : Nat, w < 2 ^ 32 → w / 2 ^ 25 ∈ reservedOpcodes → decodeWord w = none) ∧
  (∀ (word : W32) (v : View) (s : State), Selected v s → decodeWord word.toNat = none → HasHandler v →
    ∃ t, exec (.illegalInstruction word) s = .next t ∧ EntersHandler v s t 0 v.split.pc (word.setWidth 64) ∧
      Refunded v s t) ∧
  (∀ (word : W32) (v : View) (s : State), Selected v s → decodeWord word.toNat = none → v.group.tvb = 0 →
    ∃ t x, exec (.illegalInstruction word) s = .next t ∧ Table.get? t.tasks v.tid = some x ∧ x.state = .unwinding ∧
      x.xstat = 7 ∧ x.xcause = 0 ∧ x.xpc = v.split.pc ∧ x.xval = word.setWidth 64)

/-- At reset the hub is not ready, its registers read 0, no context, queue, page, record or operation exists, no task is
held, every core is at its own reset with no group, no store and every generation 0, nothing is full, nothing is
poisoned, the Tarn is empty and memory is in canonical form. That every byte of memory reads 0 and that nothing is
poisoned are the model's choices (log entries 4 and 5). (R324, R341, R78, R202, R224) -/
def Obligations.ResetState : Prop :=
  State.reset.hub.ready = false ∧ State.reset.hub.zeroised = false ∧ State.reset.hub.alarm = false ∧ State.reset.hub.wdog = 0 ∧ State.reset.hub.admq = 0 ∧
  State.reset.hub.aen = false ∧ State.reset.hub.evtq = 0 ∧ State.reset.hub.evsz = 0 ∧ State.reset.hub.ctxs = [] ∧
  State.reset.hub.queues = [] ∧ State.reset.hub.pages = [] ∧ State.reset.hub.ring = [] ∧ State.reset.hub.ops = [] ∧
  State.reset.tasks = [] ∧ State.reset.full = [] ∧ State.reset.poison = [] ∧ State.reset.tarn = [] ∧
  (∀ c, State.reset.core c = Core.reset ∧ (State.reset.core c).groups = [] ∧ (State.reset.core c).stores = [] ∧
    ∀ n, (State.reset.core c).sgenOf n = 0 ∧ (State.reset.core c).ggenOf n = 0) ∧
  (∀ c n, State.reset.group? c n = none) ∧ (∀ a, Memory.get State.reset.mem a = 0) ∧
  Memory.wf State.reset.mem = true

/-- Every instruction of R62 and R64 to R69 (ADD to LIH, but the divide forms) completes whenever nothing stands in its
way: its scalar takes the value its rule gives and is not poisoned, s0 stays zero, the PC becomes PC + 4, its cost is
debited, and every other register, special register, frame, split, group, core, task and byte of memory is as before.
(R21, R62, R64, R65, R66, R67, R68, R69) -/
def Obligations.ScalarResults : Prop :=
  ∀ (i : Instr) (v : View) (s : State) (d : Nat) (rule : W64 → Prop), scalarRule v i = some (d, rule) → WellFormed i →
    Ready i v s → ∃ t g x, exec i s = .next t ∧ Retires i v s t v.nextPc g id ∧ Kept v.group g v.fr [.s d] ∧
      g.sat = v.group.sat ∧ rule x ∧ g.readS v.fr d = if d = 0 then SReg.zero else ⟨x, false⟩

/-- DIV, DIVU, REM, REMU and their lane forms complete when the divisor (in every active lane, for the lane forms) is not
zero: the destination takes quotient or remainder, truncated toward zero and wrapping in the one overflowing case,
inactive lanes keep their value, and nothing else changes but PC and account. A scalar divide form whose divisor is
zero, and a lane divide form with a zero divisor in an active lane, enters the handler with cause 8, tpc its own PC
and tval 0: no register is written, and nothing is debited, and a debit made before the split parked is undone. (R63,
R150, R141, R353, R35, R36) -/
def Obligations.DivideResults : Prop :=
  (∀ (i : Instr) (v : View) (s : State) (d b : Nat) (x : W64), divideRule v i = some (d, b, x) → Ready i v s → v.rs b ≠ 0 →
    ∃ t g, exec i s = .next t ∧ Retires i v s t v.nextPc g id ∧ Kept v.group g v.fr [.s d] ∧ g.sat = v.group.sat ∧
      g.readS v.fr d = if d = 0 then SReg.zero else ⟨x, false⟩) ∧
  (∀ (i : Instr) (v : View) (s : State) (d b : Nat) (f : Nat → W32), laneDivideRule v i = some (d, b, f) → Ready i v s →
    (∀ k, k < 32 → v.m.getLsbD k = true → v.lane b k ≠ 0) →
    ∃ t g, exec i s = .next t ∧ Retires i v s t v.nextPc g id ∧ Kept v.group g v.fr [.v d] ∧ g.sat = v.group.sat ∧
      WroteLanes v g d (fun k x => x = f k)) ∧
  (∀ (i : Instr) (v : View) (s : State) (d b : Nat) (x : W64), divideRule v i = some (d, b, x) → Ready i v s → HasHandler v →
    v.rs b = 0 → ∃ t, exec i s = .next t ∧ EntersHandler v s t 8 v.split.pc 0 ∧ Refunded v s t) ∧
  (∀ (i : Instr) (v : View) (s : State) (d b : Nat) (f : Nat → W32), laneDivideRule v i = some (d, b, f) → Ready i v s →
    HasHandler v → (∃ k, k < 32 ∧ v.m.getLsbD k = true ∧ v.lane b k = 0) →
    ∃ t, exec i s = .next t ∧ EntersHandler v s t 8 v.split.pc 0 ∧ Refunded v s t)

/-- VADD, VSUB, VMUL, VMIN, VMAX on .i32 and .u32, VABS and VNEG on .i32, VAND, VOR, VXOR, VSHL, VSHR, VSAR, VSRR, VSEL,
VMOV, VBCAST, VSLIDE and VSHFL complete whenever nothing stands in their way: each active lane of v(d) takes the value
its rule gives and loses its poison, each inactive lane keeps both, the PC becomes PC + 4, and nothing else changes
but the account. (R141, R144, R145, R146, R147, R155, R156, R157, R158, R353) -/
def Obligations.VectorIntegers : Prop :=
  ∀ (i : Instr) (v : View) (s : State) (d : Nat) (rule : Nat → W32 → Prop), laneRule v i = some (d, rule) → WellFormed i →
    Ready i v s → ∃ t g, exec i s = .next t ∧ Retires i v s t v.nextPc g id ∧ Kept v.group g v.fr [.v d] ∧
      g.sat = v.group.sat ∧ WroteLanes v g d rule

/-- VADD, VSUB, VMUL, VFMA, VMIN, VMAX, VABS, VNEG on .f32, .bf16 and .f16, VRCP, VRSQ, VEXP2 and VLOG2 complete whenever
nothing stands in their way: each active lane of v(d) takes the result of its operation on the lane's bits under the
rounding mode of fcr, with bits [31:16] zero for a 16-bit type, each inactive lane keeps its value, and nothing else
changes but PC and account. The operations themselves are those of the model's number system; the precision in which
VEXP2 and VLOG2 are computed before they round is the model's choice (log entry 18). (R141, R144, R145, R152, R93,
R98) -/
def Obligations.VectorFloats : Prop :=
  ∀ (i : Instr) (v : View) (s : State) (d : Nat) (f : Nat → Nat), floatRule v i = some (d, f) → Ready i v s →
    ∃ t g, exec i s = .next t ∧ Retires i v s t v.nextPc g id ∧ Kept v.group g v.fr [.v d] ∧ g.sat = v.group.sat ∧
      WroteLanes v g d (fun k x => x = BitVec.ofNat 32 (f k))

/-- In each of the three formats and every rounding mode: a NaN operand gives the canonical NaN in a sum, difference,
product and fused product-sum. Infinities of either sign: two of one sign add to themselves, two of opposite signs to
NaN, and so for a difference with the second inverted; their product is an infinity of the product of the signs; zero
times an infinity, alone or in a fused product-sum, is NaN, and so is an infinite product added to an infinity of the
other sign. Zeros of either sign: a sum or difference of two whose signs agree keeps that sign, else it is −0 toward
−∞ and +0 in every other mode, and a product has the product of the signs. A comparison with a NaN is false but for
ne, and zeros of both signs compare equal. On finite operands a sum, difference, product and fused product-sum is the
exact value rounded once: the value is taken in whole units of 2^−149 (of 2^−298 for the products), and the result is
the neighbour the mode chooses among all the values of the format, or what the mode gives beyond the largest finite
value; an exact zero of two terms that cancel is +0, or −0 toward −∞. VCVT to a floating-point type rounds the same
way and never clips; to an integer type it rounds to an integer by the mode and clips to the range of the type, an
infinity to the nearer end and a NaN to 0, both with sat, and an integer source is clipped alone. Of two finite values
every condition compares the exact values, and an infinity stands beyond every finite value. VMIN and VMAX take the
smaller and the larger value, −0 before +0; with one NaN the other operand, with two the canonical NaN. VABS clears
the sign bit and VNEG inverts it, a NaN becoming canonical. VRCP, VRSQ, VEXP2 and VLOG2 give on NaN, zeros,
infinities, negative values and 1.0 what the table of R153 gives. (R94, R96, R97, R98, R99, R145, R151, R153) -/
def Obligations.FloatSpecials : Prop :=
  ∀ (f : Fmt) (mode : RMode) (x y c : Nat), f = fp32 ∨ f = fp16 ∨ f = bf16 →
    (fDecode f x = .nan ∨ fDecode f y = .nan → fAdd f mode x y = fNan f ∧ fSub f mode x y = fNan f ∧ fMul f mode x y = fNan f ∧
      fFma f mode x y c = fNan f ∧ fFma f mode c x y = fNan f) ∧
    (∀ a b d : Bool,
      fAdd f mode (fInf f a) (fInf f b) = (if a = b then fInf f a else fNan f) ∧
      fSub f mode (fInf f a) (fInf f b) = (if a = b then fNan f else fInf f a) ∧
      fMul f mode (fInf f a) (fInf f b) = fInf f (a != b) ∧
      fMul f mode (fZero f a) (fInf f b) = fNan f ∧ fMul f mode (fInf f a) (fZero f b) = fNan f ∧
      fFma f mode (fZero f a) (fInf f b) c = fNan f ∧ fFma f mode (fInf f a) (fZero f b) c = fNan f ∧
      fFma f mode (fInf f a) (fInf f b) (fInf f d) = if (a != b) = d then fInf f d else fNan f) ∧
    (∀ a b : Bool,
      fAdd f mode (fZero f a) (fZero f b) = fZero f (if a = b then a else decide (mode = .down)) ∧
      fSub f mode (fZero f a) (fZero f b) = fZero f (if a = b then decide (mode = .down) else a) ∧
      fMul f mode (fZero f a) (fZero f b) = fZero f (a != b)) ∧
    (fDecode f x = .nan ∨ fDecode f y = .nan → ∀ cc, fCond f cc x y = decide (cc = .ne)) ∧
    (∀ (a b : Bool) (cc : VCond), fCond f cc (fZero f a) (fZero f b) = decide (cc = .eq ∨ cc = .ge ∨ cc = .le)) ∧
    (IsFinite f x → IsFinite f y → fCond f .eq x y = decide (fScaled f x = fScaled f y) ∧
      fCond f .ne x y = decide (fScaled f x ≠ fScaled f y) ∧ fCond f .lt x y = decide (fScaled f x < fScaled f y) ∧
      fCond f .ge x y = decide (fScaled f y ≤ fScaled f x) ∧ fCond f .le x y = decide (fScaled f x ≤ fScaled f y) ∧
      fCond f .gt x y = decide (fScaled f y < fScaled f x)) ∧
    (∀ (a b : Bool) (cc : VCond), fCond f cc (fInf f a) (fInf f b) = decide (if a = b then cc = .eq ∨ cc = .ge ∨ cc = .le
      else if a then cc = .ne ∨ cc = .lt ∨ cc = .le else cc = .ne ∨ cc = .gt ∨ cc = .ge)) ∧
    (IsFinite f y → ∀ (a : Bool) (cc : VCond),
      fCond f cc (fInf f a) y = decide (if a then cc = .ne ∨ cc = .lt ∨ cc = .le else cc = .ne ∨ cc = .gt ∨ cc = .ge) ∧
      fCond f cc y (fInf f a) = decide (if a then cc = .ne ∨ cc = .gt ∨ cc = .ge else cc = .ne ∨ cc = .lt ∨ cc = .le)) ∧
    (∀ isMax : Bool, (fDecode f x = .nan → fDecode f y = .nan → fMinMax f isMax x y = fNan f) ∧
      (fDecode f x = .nan → fDecode f y ≠ .nan → fMinMax f isMax x y = y ∧ fMinMax f isMax y x = y) ∧
      (∀ a b : Bool, fMinMax f isMax (fZero f a) (fZero f b) = fZero f (if isMax then a && b else a || b)) ∧
      (∀ a b : Bool, fMinMax f isMax (fInf f a) (fInf f b) = fInf f (if isMax then a && b else a || b)) ∧
      (IsFinite f y → ∀ a : Bool, fMinMax f isMax (fInf f a) y = (if a = isMax then y else fInf f a) ∧
        fMinMax f isMax y (fInf f a) = (if a = isMax then y else fInf f a)) ∧
      (IsFinite f x → IsFinite f y → fScaled f x < fScaled f y →
        fMinMax f isMax x y = (if isMax then y else x) ∧ fMinMax f isMax y x = (if isMax then y else x))) ∧
    (fDecode f x = .nan → fAbsNeg f false x = fNan f ∧ fAbsNeg f true x = fNan f) ∧
    (∀ (neg : Bool) (m : Nat), m < 2 ^ (f.eb + f.fb) → x = fSign f neg + m → fDecode f x ≠ .nan →
      fAbsNeg f false x = m ∧ fAbsNeg f true x = fSign f (!neg) + m) ∧
    (f = fp32 → (fDecode f x = .nan → fRcp mode x = fNan f ∧ fRsq mode x = fNan f ∧ fExp2 mode x = fNan f ∧ fLog2 mode x = fNan f) ∧
      (∀ a : Bool, fRcp mode (fZero f a) = fInf f a ∧ fRsq mode (fZero f a) = fInf f a ∧ fExp2 mode (fZero f a) = 0x3F800000 ∧
        fLog2 mode (fZero f a) = fInf f true) ∧
      (∀ a : Bool, fRcp mode (fInf f a) = fZero f a ∧ fRsq mode (fInf f a) = (if a then fNan f else fZero f false) ∧
        fExp2 mode (fInf f a) = (if a then fZero f false else fInf f false) ∧
        fLog2 mode (fInf f a) = (if a then fNan f else fInf f false)) ∧
      (IsFinite f x → fScaled f x < 0 → fRsq mode x = fNan f ∧ fLog2 mode x = fNan f) ∧
      fRcp mode 0x3F800000 = 0x3F800000 ∧ fRsq mode 0x3F800000 = 0x3F800000 ∧ fExp2 mode 0x3F800000 = 0x40000000 ∧
      fLog2 mode 0x3F800000 = fZero f false) ∧
    (IsFinite f x → IsFinite f y →
      RoundsTo f mode 0 (fScaled f x + fScaled f y) (fAdd f mode x y) ∧
      RoundsTo f mode 0 (fScaled f x - fScaled f y) (fSub f mode x y) ∧
      RoundsTo f mode 149 (fScaled f x * fScaled f y) (fMul f mode x y) ∧
      (fScaled f x ≠ 0 → fScaled f x + fScaled f y = 0 → fAdd f mode x y = fZero f (decide (mode = .down))) ∧
      (fScaled f x ≠ 0 → fScaled f x = fScaled f y → fSub f mode x y = fZero f (decide (mode = .down))) ∧
      (IsFinite f c →
        RoundsTo f mode 149 (fScaled f x * fScaled f y + fScaled f c * 2 ^ 149) (fFma f mode x y c) ∧
        (fScaled f c ≠ 0 → fScaled f x * fScaled f y + fScaled f c * 2 ^ 149 = 0 →
          fFma f mode x y c = fZero f (decide (mode = .down))))) ∧
    (∀ (dt st : VType) (z : W32) (n : Int), n = fScaled (fmtOf st) (typeBits st z) → st.isFloat = true →
      (dt.isFloat = true → (convert mode dt st z).2 = false ∧
        (IsFinite (fmtOf st) (typeBits st z) → RoundsTo (fmtOf dt) mode 0 n (convert mode dt st z).1.toNat) ∧
        (∀ a : Bool, typeBits st z = fZero (fmtOf st) a → (convert mode dt st z).1.toNat = fZero (fmtOf dt) a) ∧
        (∀ a : Bool, typeBits st z = fInf (fmtOf st) a → (convert mode dt st z).1.toNat = fInf (fmtOf dt) a) ∧
        (fDecode (fmtOf st) (typeBits st z) = .nan → (convert mode dt st z).1.toNat = fNan (fmtOf dt))) ∧
      (dt.isFloat = false →
        (IsFinite (fmtOf st) (typeBits st z) → ∃ k, RoundsToInt mode n k ∧ ClipsTo (decide (dt = .i32)) k (convert mode dt st z)) ∧
        (∀ a : Bool, typeBits st z = fInf (fmtOf st) a → convert mode dt st z =
          (BitVec.ofInt 32 (if a then (intEnds (decide (dt = .i32))).1 else (intEnds (decide (dt = .i32))).2), true)) ∧
        (fDecode (fmtOf st) (typeBits st z) = .nan → convert mode dt st z = (0, true)))) ∧
    (∀ (dt st : VType) (z : W32) (n : Int), st.isFloat = false → n = (if st = .i32 then z.toInt else (z.toNat : Int)) →
      (dt.isFloat = true → (convert mode dt st z).2 = false ∧
        RoundsTo (fmtOf dt) mode 0 (n * 2 ^ 149) (convert mode dt st z).1.toNat ∧
        (n = 0 → (convert mode dt st z).1 = 0)) ∧
      (dt.isFloat = false → ClipsTo (decide (dt = .i32)) n (convert mode dt st z)))

/-- VDOT2.i16, VADD2.i16 and VCVT complete whenever nothing stands in their way: each active lane takes its exact result
clipped once, sat is set when an active lane clips and else is as before, inactive lanes keep their value, and nothing
else changes but PC and account. (R94, R95, R99, R148, R151, R141) -/
def Obligations.VectorClips : Prop :=
  ∀ (i : Instr) (v : View) (s : State) (d : Nat) (f : Nat → W32 × Bool), clipRule v i = some (d, f) → WellFormed i →
    Ready i v s → ∃ t g, exec i s = .next t ∧ Retires i v s t v.nextPc g id ∧ Kept v.group g v.fr [.v d] ∧
      WroteLanes v g d (fun k x => x = (f k).1) ∧
      (g.sat = true ↔ v.group.sat = true ∨ ∃ k, k < 32 ∧ v.m.getLsbD k = true ∧ (f k).2 = true)

/-- VCMP, PAND, POR, PXOR and PNOT complete whenever nothing stands in their way: bit L of the predicate takes its value
for each active lane L and is unchanged for each inactive one, and nothing else changes but PC and account. The
condition of a VCMP compares its lanes as signed integers for .i32, as unsigned ones for .u32, and as the values of
the format for a floating-point type. (R141, R154, R161, R353) -/
def Obligations.PredicateResults : Prop :=
  (∀ (i : Instr) (v : View) (s : State) (p : Nat) (f : Nat → Bool), predicateRule v i = some (p, f) → Ready i v s →
    ∃ t g, exec i s = .next t ∧ Retires i v s t v.nextPc g id ∧ Kept v.group g v.fr [.p p] ∧ g.sat = v.group.sat ∧
      ∀ k, k < 32 → (g.pval p).getLsbD k = if v.m.getLsbD k then f k else (v.group.pval p).getLsbD k) ∧
  (∀ (x y : W32), (vcondHolds .eq .i32 x y = decide (x = y) ∧ vcondHolds .ne .i32 x y = decide (x ≠ y) ∧
      vcondHolds .lt .i32 x y = decide (x.toInt < y.toInt) ∧ vcondHolds .ge .i32 x y = decide (y.toInt ≤ x.toInt) ∧
      vcondHolds .le .i32 x y = decide (x.toInt ≤ y.toInt) ∧ vcondHolds .gt .i32 x y = decide (y.toInt < x.toInt)) ∧
    (vcondHolds .eq .u32 x y = decide (x = y) ∧ vcondHolds .ne .u32 x y = decide (x ≠ y) ∧
      vcondHolds .lt .u32 x y = decide (x.toNat < y.toNat) ∧ vcondHolds .ge .u32 x y = decide (y.toNat ≤ x.toNat) ∧
      vcondHolds .le .u32 x y = decide (x.toNat ≤ y.toNat) ∧ vcondHolds .gt .u32 x y = decide (y.toNat < x.toNat)) ∧
    ∀ (c : VCond), vcondHolds c .f32 x y = fCond fp32 c x.toNat y.toNat ∧
      vcondHolds c .bf16 x y = fCond bf16 c (x.toNat % 2 ^ 16) (y.toNat % 2 ^ 16) ∧
      vcondHolds c .f16 x y = fCond fp16 c (x.toNat % 2 ^ 16) (y.toNat % 2 ^ 16))

/-- VLANE, PCNT and VRED write the lane, the count or the reduction of the active lanes in ascending order to their
scalar; VSCAN writes to each active lane the value reached after it; a NaN is written as the canonical NaN. Each
completes whenever nothing stands in its way and changes nothing else but PC and account. A step of a reduction adds,
or takes the smaller or the larger of two values: wrapping, signed or unsigned for the integer types, and as VADD,
VMIN and VMAX do for .f32. (R156, R159, R160, R162, R104) -/
def Obligations.Reductions : Prop :=
  (∀ (mode : RMode) (r x : W32), redStep mode .add .i32 r x = r + x ∧ redStep mode .add .u32 r x = r + x ∧
    redStep mode .add .f32 r x = BitVec.ofNat 32 (fAdd fp32 mode r.toNat x.toNat) ∧
    redStep mode .min .i32 r x = (if x.toInt < r.toInt then x else r) ∧ redStep mode .max .i32 r x = (if r.toInt < x.toInt then x else r) ∧
    redStep mode .min .u32 r x = (if x.toNat < r.toNat then x else r) ∧ redStep mode .max .u32 r x = (if r.toNat < x.toNat then x else r) ∧
    redStep mode .min .f32 r x = BitVec.ofNat 32 (fMinMax fp32 false r.toNat x.toNat) ∧
    redStep mode .max .f32 r x = BitVec.ofNat 32 (fMinMax fp32 true r.toNat x.toNat)) ∧
  (∀ (i : Instr) (v : View) (s : State) (d : Nat) (x : W64), gatherRule v i = some (d, x) → Ready i v s →
    ∃ t g, exec i s = .next t ∧ Retires i v s t v.nextPc g id ∧ Kept v.group g v.fr [.s d] ∧ g.sat = v.group.sat ∧
      g.readS v.fr d = if d = 0 then SReg.zero else ⟨x, false⟩) ∧
  (∀ (op : RedOp) (ty : VType) (d a : Nat) (v : View) (s : State), Ready (.vscan op ty d a) v s →
    ∃ t g, exec (.vscan op ty d a) s = .next t ∧ Retires (.vscan op ty d a) v s t v.nextPc g id ∧
      Kept v.group g v.fr [.v d] ∧ g.sat = v.group.sat ∧
      WroteLanes v g d (fun k x => x = writtenRun ty (runValue (redStep v.mode op ty) (v.rv a) v.m k)))

/-- BZ, BNZ and JMP, and JR to an aligned address below 2^56, complete whenever nothing stands in their way: the whole
split goes to the place the rule gives, their cost is debited, and nothing else changes. JR to a misaligned address
enters the handler with cause 7, to an aligned one at 2^56 or above with cause 6, its target in tval, nothing debited.
(R18, R19, R44, R76, R77, R35) -/
def Obligations.Branches : Prop :=
  (∀ (i : Instr) (v : View) (s : State) (pc : W64), branchRule v i = some pc → Ready i v s →
    ∃ t, exec i s = .next t ∧ Retires i v s t pc v.group id) ∧
  (∀ (a : Nat) (v : View) (s : State), Ready (.jr a) v s → HasHandler v → v.ui a % 4 ≠ 0 →
    ∃ t, exec (.jr a) s = .next t ∧ EntersHandler v s t 7 v.split.pc (v.rs a) ∧ Refunded v s t) ∧
  (∀ (a : Nat) (v : View) (s : State), Ready (.jr a) v s → HasHandler v → v.ui a % 4 = 0 → 2 ^ 56 ≤ v.ui a →
    ∃ t, exec (.jr a) s = .next t ∧ EntersHandler v s t 6 v.split.pc (v.rs a) ∧ Refunded v s t)

/-- BRV goes to its target when every lane of the split votes taken and to PC + 4 when none does. When they disagree the
split is removed and two entries take its place at the young end, N at PC + 4 with the lanes not taken and T at the
target with the lanes taken, in its frame and of one new origin below its own; with eight resident entries the oldest
of the others is spilled first: it stands at the end of the spilled entries, its MEET count stopped. No register
changes, and no byte of memory outside the spill area. Where that spill needs a page that is not resident the group
parks, with a record of kind 5, and the debited BRV stands at its PC to diverge once the page has come; that it then
diverges without a second debit is log entry 17. (R116, R117, R122, R123, R163, R126) -/
def Obligations.Votes : Prop :=
  (∀ (p : Nat) (off : BitVec 19) (v : View) (s : State), Ready (.brv p off) v s → v.m &&& v.group.pval p = v.m →
    ∃ t, exec (.brv p off) s = .next t ∧ Retires (.brv p off) v s t (v.target off) v.group id) ∧
  (∀ (p : Nat) (off : BitVec 19) (v : View) (s : State), Ready (.brv p off) v s → v.m ≠ 0 → v.m &&& v.group.pval p = 0 →
    ∃ t, exec (.brv p off) s = .next t ∧ Retires (.brv p off) v s t v.nextPc v.group id) ∧
  (∀ (p : Nat) (off : BitVec 19) (v : View) (s : State), Ready (.brv p off) v s →
    v.m &&& v.group.pval p ≠ v.m → v.m &&& v.group.pval p ≠ 0 →
    (v.group.splits.length = 8 → s.areaState (splitAreaOf v.sel.core v.sel.slot) = none) →
    v.group.splits.length ≤ 8 →
    ∃ t g, exec (.brv p off) s = .next t ∧ t.tick = s.tick + 1 ∧ SameWorld s t ∧ t.msgs = s.msgs ∧ t.tarn = s.tarn ∧
      t.group? v.sel.core v.sel.slot = some g ∧ (∀ fr r, SameReg v.group g fr r) ∧
      (∀ n, groupSpecial g n = groupSpecial v.group n) ∧
      OtherGroups v s t ∧ Debited v s t (costOf v (.brv p off)) ∧ (v.group.spilled = [] → v.group.splits.length < 8 → SameMemory s t) ∧
      (∀ a, ¬Within a (areaPhys (splitAreaOf v.sel.core v.sel.slot)) 832 → Memory.get t.mem a = Memory.get s.mem a) ∧
      (v.group.splits.length < 8 → g.spilled.map Split.sansOrigin = v.group.spilled.map Split.sansOrigin ∧
        g.splits.map Split.sansOrigin = (dropAt v.group.splits v.sel.idx ++
          [v.splitN (v.m &&& v.group.pval p), v.splitT (v.m &&& v.group.pval p) (v.target off)]).map Split.sansOrigin) ∧
      (v.group.splits.length = 8 → ∀ x rest, dropAt v.group.splits v.sel.idx = x :: rest →
        g.spilled.map Split.sansOrigin = (v.group.spilled ++ [if x.state = .meet then
          { x with mrem := x.mrem - (s.cyc v.sel.core - x.mfrom), mfrom := s.cyc v.sel.core } else x]).map Split.sansOrigin ∧
        g.splits.map Split.sansOrigin = (rest ++
          [v.splitN (v.m &&& v.group.pval p), v.splitT (v.m &&& v.group.pval p) (v.target off)]).map Split.sansOrigin) ∧
      ((∀ e ∈ v.group.origins, 2 ≤ v.group.members e.1) → v.group.splits.length < 8 →
        ∀ o, lowestFree (0 :: Table.keys v.group.origins) 1 31 = some o →
          g.origins = Table.set v.group.origins o v.split.origin ∧
          g.splits.drop (v.group.splits.length - 1) = [{ v.splitN (v.m &&& v.group.pval p) with origin := o },
            { v.splitT (v.m &&& v.group.pval p) (v.target off) with origin := o }])) ∧
  (∀ (p : Nat) (off : BitVec 19) (v : View) (s : State), Ready (.brv p off) v s →
    v.m &&& v.group.pval p ≠ v.m → v.m &&& v.group.pval p ≠ 0 → v.group.splits.length = 8 →
    s.areaState (splitAreaOf v.sel.core v.sel.slot) = some .absent →
    ∃ t g sp rec, exec (.brv p off) s = .next t ∧ t.tick = s.tick + 1 ∧ OtherGroups v s t ∧ Debited v s t 1 ∧
      t.group? v.sel.core v.sel.slot = some g ∧ g.stall = true ∧ (∀ fr r, SameReg v.group g fr r) ∧ g.spilled = v.group.spilled ∧
      g.splits[v.sel.idx]? = some sp ∧ sp.pc = v.split.pc ∧ sp.mask = v.m ∧ sp.paid = some 1 ∧
      rec ∈ t.hub.ring ++ t.hub.recWait ∧ rec.kind = 5 ∧ rec.core = v.sel.core ∧ rec.slot = v.sel.slot ∧
      rec.va = areaPhys (splitAreaOf v.sel.core v.sel.slot))

/-- A split at a MEET waits there while a split of its origin has not arrived, debited 1, its PC at the MEET and its count
at mb; with mb = 0 it goes on alone at PC + 4. The only split of a group goes straight on. Where the group's two
splits are of one origin and the other waits at this MEET in the same frame, the two become one entry with both masks
at PC + 4. However many splits of the origin and of those below it wait here, resident or spilled, all of them become
one entry: both of its kinds of part leave the table, and it stands at the place of the oldest resident part with the
masks of all, PC + 4 and the ptop of the part with the lowest lane. No register changes. (R118, R119, R120, R164,
R302) -/
def Obligations.Meets : Prop :=
  (∀ (v : View) (s : State), Ready .meet v s → (v.atMeet s).NoMeeting → v.group.mb ≠ 0 →
    ∃ t, exec .meet s = .next t ∧ Issued .meet v s t ∧ t.group? v.sel.core v.sel.slot = some (v.atMeet s)) ∧
  (∀ (v : View) (s : State), Ready .meet v s → (v.atMeet s).NoMeeting → v.group.mb = 0 →
    (v.group.handler = true → v.split.inHandler = true) →
    ∃ t g sp, exec .meet s = .next t ∧ Issued .meet v s t ∧ t.group? v.sel.core v.sel.slot = some g ∧
      (∀ fr r, SameReg v.group g fr r) ∧ g.splits[v.sel.idx]? = some sp ∧ sp.pc = v.nextPc ∧ sp.state = .ready ∧
      sp.mask = v.m ∧ ∀ k, k ≠ v.sel.idx → g.splits[k]? = v.group.splits[k]?) ∧
  (∀ (v : View) (s : State), Ready .meet v s → v.group.splits = [v.split] → v.group.spilled = [] →
    (v.group.handler = true → v.split.inHandler = true) →
    ∃ t g sp, exec .meet s = .next t ∧ Issued .meet v s t ∧ t.group? v.sel.core v.sel.slot = some g ∧
      (∀ fr r, SameReg v.group g fr r) ∧ g.splits = [sp] ∧ sp.pc = v.nextPc ∧ sp.state = .ready ∧ sp.mask = v.m) ∧
  (∀ (v : View) (s : State) (w : Split), Ready .meet v s →
    (v.sel.idx = 0 ∧ v.group.splits = [v.split, w] ∨ v.sel.idx = 1 ∧ v.group.splits = [w, v.split]) → v.group.spilled = [] →
    w.state = .meet → w.meet = v.split.pc → w.frame = v.fr → w.inHandler = v.split.inHandler → w.origin = v.split.origin →
    (v.group.handler = true → v.split.inHandler = true) →
    ∃ t g sp, exec .meet s = .next t ∧ Issued .meet v s t ∧ t.group? v.sel.core v.sel.slot = some g ∧
      (∀ fr r, SameReg v.group g fr r) ∧ g.splits = [sp] ∧ sp.pc = v.nextPc ∧ sp.state = .ready ∧
      (∀ k, sp.mask.getLsbD k = (v.m.getLsbD k || w.mask.getLsbD k))) ∧
  (∀ (v : View) (s : State) (l q : List Split) (x low : Split), Ready .meet v s →
    (∀ n y, v.group.entries[n]? = some y → n ≠ v.sel.idx → if v.group.ofOrigin v.split.origin y = true
      then y.state = .meet ∧ y.meet = v.split.pc ∧ y.frame = v.fr ∧ y.inHandler = v.split.inHandler else y.state ≠ .meet) →
    v.group.splits = l ++ x :: q → v.group.ofOrigin v.split.origin x = true →
    (∀ y ∈ l, v.group.ofOrigin v.split.origin y = false) → (v.group.handler = true → v.split.inHandler = true) →
    low ∈ v.group.entries → low.mask ≠ 0 → v.group.ofOrigin v.split.origin low = true →
    (∀ y ∈ v.group.entries, v.group.ofOrigin v.split.origin y = true → y = low ∨ lowLane low.mask < lowLane y.mask) →
    ∃ t g sp, exec .meet s = .next t ∧ t.tick = s.tick + 1 ∧ SameWorld s t ∧ t.msgs = s.msgs ∧ t.tarn = s.tarn ∧
      OtherGroups v s t ∧ Debited v s t 1 ∧ (v.group.spilled = [] → SameMemory s t) ∧
      (∀ a, ¬Within a (areaPhys (splitAreaOf v.sel.core v.sel.slot)) 832 → Memory.get t.mem a = Memory.get s.mem a) ∧
      t.group? v.sel.core v.sel.slot = some g ∧ (∀ fr r, SameReg v.group g fr r) ∧
      g.splits.map Split.sansOrigin = (l ++ sp :: q.filter (fun y => !(v.group.ofOrigin v.split.origin y))).map Split.sansOrigin ∧
      g.spilled.map Split.sansOrigin =
        (v.group.spilled.filter (fun y => !(v.group.ofOrigin v.split.origin y))).map Split.sansOrigin ∧
      sp.pc = v.nextPc ∧ sp.state = .ready ∧ sp.frame = v.fr ∧ sp.ptop = low.ptop ∧
      ∀ k, k < 32 → sp.mask.getLsbD k = v.group.entries.any (fun y => v.group.ofOrigin v.split.origin y && y.mask.getLsbD k))

/-- CALL, and CALLR to an aligned address below 2^56, complete when nothing stands in their way, no frame request waits,
the depth is below 255 and the granules are free: the split goes to the target in a frame at the lowest free scalar
granule, with the demanded vector granules, the return PC, its caller as link, one level deeper and every register
zero but the marker in s63; the debit is 4 + ceil(n/8), and no other register changes. At depth 255 they enter the
handler with cause 13, the word in tval; CALLR to a bad target enters it with cause 7 or 6, the target in tval. (R27,
R28, R78, R79, R80) -/
def Obligations.Calls : Prop :=
  (∀ (i : Instr) (v : View) (s : State) (n fr : Nat) (pc : W64) (grans : List Nat), callRule v i = some (n, pc) → Ready i v s →
    v.core.requests = [] → v.frame.depth ≠ 255 → takeScalar s v.sel.core = some fr → takeGrans s v.sel.core (ceil8 n) = some grans →
    ∃ t, exec i s = .next t ∧ costOf v i = 4 + (n + 7) / 8 ∧ grans.length = (n + 7) / 8 ∧
      Retires i v s t pc (v.called fr grans) (v.calledCore fr) ∧
      (∀ fr' r, fr' ≠ fr → SameReg v.group (v.called fr grans) fr' r) ∧
      (∀ k, k < 120 → (v.called fr grans).readV fr k = VReg.zero) ∧
      (∀ k, 32 ≤ k → k ≠ 63 → (v.called fr grans).readS fr k = SReg.zero)) ∧
  (∀ (i : Instr) (v : View) (s : State) (n : Nat) (pc : W64), callRule v i = some (n, pc) → Ready i v s → HasHandler v →
    v.frame.depth = 255 →
    ∃ t, exec i s = .next t ∧ EntersHandler v s t 13 v.split.pc (BitVec.ofNat 64 (encode i)) ∧
      Refunded v s t) ∧
  (∀ (n a : Nat) (v : View) (s : State), Ready (.callr n a) v s → HasHandler v → (v.ui a % 4 ≠ 0 ∨ 2 ^ 56 ≤ v.ui a) →
    ∃ t, exec (.callr n a) s = .next t ∧ EntersHandler v s t (if v.ui a % 4 ≠ 0 then 7 else 6) v.split.pc (v.rs a) ∧
      Refunded v s t)

/-- CALL, CALLR and FGROW wait in state frame while an earlier request waits or their granules are not free: the request
joins the queue of the core, behind every request of an earlier cycle and, within its cycle, by group slot and then
lane; nothing is debited and no register changes. FRAME_GRANT takes the request at the head of the queue when its
demand fits and no escape refill stands before it, the core's queue one shorter; its CALL or CALLR then makes the new
frame and goes to its target, and its FGROW adds its granules and goes on, as one that fits at once does. Where its
task's allowance does not cover the cost, the granules stay free and nothing is debited: the next request stands at
the head in the same cycle, and the task is STARVED or UNWINDING as its policy says. (That xval holds the cost modulo
2^64 is log entry 19.) (R81, R114, R288) -/
def Obligations.FrameRequests : Prop :=
  (∀ (i : Instr) (v : View) (s : State) (n : Nat) (scalar : Bool), Ready i v s → frameDemand v i = some (n, scalar) →
    (v.core.requests ≠ [] ∨ demandFits s v.sel.core n scalar = false) →
    ∃ t g sp, exec i s = .next t ∧ t.tick = s.tick + 1 ∧ SameWorld s t ∧ SameMemory s t ∧ OtherGroups v s t ∧
      t.tasks = s.tasks ∧ t.group? v.sel.core v.sel.slot = some g ∧ (∀ fr r, SameReg v.group g fr r) ∧
      g.splits[v.sel.idx]? = some sp ∧ sp.state = .frame ∧ sp.pc = v.split.pc ∧ sp.mask = v.m ∧
      (∃ l q, v.core.requests = l ++ q ∧
        (t.core v.sel.core).requests = l ++ ⟨v.sel.slot, lowLane v.m, i, n, scalar, s.cyc v.sel.core⟩ :: q ∧
        (∀ x ∈ l, ¬(s.cyc v.sel.core < x.arrived ∨ s.cyc v.sel.core = x.arrived ∧
          (v.sel.slot < x.slot ∨ v.sel.slot = x.slot ∧ lowLane v.m < x.lane))) ∧
        (∀ x, q.head? = some x → s.cyc v.sel.core < x.arrived ∨ s.cyc v.sel.core = x.arrived ∧
          (v.sel.slot < x.slot ∨ v.sel.slot = x.slot ∧ lowLane v.m < x.lane)) ∧
        ((∀ x ∈ v.core.requests, x.arrived < s.cyc v.sel.core) → q = []))) ∧
  (∀ (s : State) (c n fr idx : Nat) (pc : W64) (r : FrameReq) (rest : List FrameReq) (v : View) (grans : List Nat) (g : Group),
    GrantNext s c r rest idx g v → callRule v r.instr = some (n, pc) →
    v.frame.depth ≠ 255 → takeScalar s c = some fr → takeGrans s c (ceil8 n) = some grans →
    ∃ t g' sp, exec (.frameGrant c) s = .next t ∧ t.tick = s.tick ∧ SameMemory s t ∧ Debited v s t (4 + (n + 7) / 8) ∧
      (∀ c' n', ¬(c' = c ∧ n' = r.slot) → t.group? c' n' = s.group? c' n') ∧
      (t.core c).requests = rest ∧ t.group? c r.slot = some g' ∧ g'.frames = Table.set g.frames fr (v.newFrame fr grans) ∧
      SameGlobals g g' ∧ g'.splits[idx]? = some sp ∧ sp.pc = pc ∧ sp.frame = fr ∧ sp.state = .ready ∧ sp.mask = v.m) ∧
  (∀ (s : State) (c k idx : Nat) (r : FrameReq) (rest : List FrameReq) (v : View) (grans : List Nat) (g : Group),
    GrantNext s c r rest idx g v → r.instr = .fgrow k → v.frame.grans.length + k ≤ 15 → takeGrans s c k = some grans →
    ∃ t g' sp, exec (.frameGrant c) s = .next t ∧ t.tick = s.tick ∧ SameMemory s t ∧ Debited v s t (4 + k) ∧
      (∀ c' n', ¬(c' = c ∧ n' = r.slot) → t.group? c' n' = s.group? c' n') ∧
      (t.core c).requests = rest ∧ t.group? c r.slot = some g' ∧ (g'.frame v.fr).grans = v.frame.grans ++ grans ∧
      (∀ fr q, (∀ n, fr = v.fr → q = .v n → n < 8 * v.frame.grans.length ∨ 120 ≤ n) → SameReg g g' fr q) ∧
      (∀ n, 8 * v.frame.grans.length ≤ n → n < 120 → g'.readV v.fr n = VReg.zero) ∧
      SameGlobals g g' ∧ g'.splits[idx]? = some sp ∧ sp.pc = v.nextPc ∧ sp.frame = v.fr ∧ sp.state = .ready ∧ sp.mask = v.m) ∧
  (∀ (s : State) (c idx : Nat) (r : FrameReq) (rest : List FrameReq) (v : View) (g : Group) (d : Nat × Bool),
    GrantTurn s c r rest idx g v → frameDemand v r.instr = some d → v.split.paid = none →
    v.task.short (costOf v r.instr) = true →
    ∃ t y, exec (.frameGrant c) s = .next t ∧ t.tick = s.tick ∧ Table.get? t.tasks v.tid = some y ∧ y.xcause = 1 ∧
      y.xpc = v.split.pc ∧ y.xval = BitVec.ofNat 64 (costOf v r.instr) ∧ y.alw = v.task.alw ∧ y.consumed = v.task.consumed ∧
      (v.task.park = true → y.state = .starved ∧ (t.core c).requests = rest ∧
        (∀ c' n', ¬(c' = c ∧ n' = r.slot) → t.group? c' n' = s.group? c' n') ∧
        ∃ g', t.group? c r.slot = some g' ∧ (∀ fr q, SameReg g g' fr q) ∧ g'.frames = g.frames ∧
          g'.splits = changeAt g.splits idx (fun sp => { sp with state := .ready, wait := .none })) ∧
      (v.task.park = false → y.state = .unwinding ∧ y.xstat = 4))

/-- RET goes to its frame's return PC in the frame the link names, and UNWIND to the marker of a shallower frame of its
chain whose generation agrees to that frame and to the return PC of the frame above it: the frames left are freed one
after another, each while nothing claims it, and the generation of each granule freed advances; nothing else of the
group changes. For RET that is its own frame, when nothing else claims it, and none otherwise. RET in the base frame
enters the handler with cause 13. UNWIND to the marker of its own frame changes nothing but the PC; with a marker
deeper than its frame, wider than 16 bits or of another generation it enters the handler with cause 13. FGROW of k
granules that fit, behind no request, adds them with their registers zero; FSHRINK of at most the frame's granules
releases the top k, and the generation of the frame advances when none is left. Registers that stay keep their value,
nothing else changes but PC and account. FGROW past 15 granules and FSHRINK past none enter the handler with cause 13.
No trap here leaves a debit. (R29, R82, R84, R127, R83, R35) -/
def Obligations.Returns : Prop :=
  (∀ (v : View) (s : State) (caller : Nat), Ready .ret v s → v.frame.link = some caller →
    ∃ t, exec .ret s = .next t ∧
      Retires .ret v s t v.frame.retPc ((v.inFrame caller).popFrames 256 v.fr caller).1
        (fun k => ((v.inFrame caller).popFrames 256 v.fr caller).2.foldl Core.bumpGen k) ∧
      (caller ≠ v.fr → (v.inFrame caller).claims v.fr = 0 →
        (v.inFrame caller).popFrames 256 v.fr caller = ({ v.inFrame caller with frames := Table.erase v.group.frames v.fr }, [v.fr]) ∧
        (t.core v.sel.core).sgenOf v.fr = v.core.sgenOf v.fr + 1) ∧
      (caller = v.fr ∨ (v.inFrame caller).claims v.fr ≠ 0 →
        (v.inFrame caller).popFrames 256 v.fr caller = (v.inFrame caller, []) ∧
        (t.core v.sel.core).sgenOf v.fr = v.core.sgenOf v.fr)) ∧
  (∀ (v : View) (s : State), Ready .ret v s → HasHandler v → v.frame.link = none →
    ∃ t, exec .ret s = .next t ∧ EntersHandler v s t 13 v.split.pc (BitVec.ofNat 64 (encode .ret)) ∧ Refunded v s t) ∧
  (∀ (a : Nat) (v : View) (s : State), Ready (.unwind a) v s → v.ui a < 2 ^ 16 → v.ui a % 256 = v.frame.depth →
    (0 < v.frame.depth → v.frame.markGen.toNat = v.ui a / 256) →
    ∃ t, exec (.unwind a) s = .next t ∧ Retires (.unwind a) v s t v.nextPc v.group id) ∧
  (∀ (a fr up : Nat) (v : View) (s : State), Ready (.unwind a) v s → v.ui a < 2 ^ 16 → v.ui a % 256 < v.frame.depth →
    v.group.atDepth (v.ui a % 256) 257 v.fr = some fr → v.group.atDepth (v.ui a % 256 + 1) 257 v.fr = some up →
    (0 < v.ui a % 256 → (v.group.frame fr).markGen.toNat = v.ui a / 256) →
    ∃ t, exec (.unwind a) s = .next t ∧
      Retires (.unwind a) v s t (v.group.frame up).retPc ((v.inFrame fr).popFrames 256 v.fr fr).1
        (fun k => ((v.inFrame fr).popFrames 256 v.fr fr).2.foldl Core.bumpGen k) ∧
      (∀ k f, Table.get? ((v.inFrame fr).popFrames 256 v.fr fr).1.frames k = some f → Table.get? v.group.frames k = some f) ∧
      (∀ k f, Table.get? v.group.frames k = some f → k ∉ ((v.inFrame fr).popFrames 256 v.fr fr).2 →
        Table.get? ((v.inFrame fr).popFrames 256 v.fr fr).1.frames k = some f)) ∧
  (∀ (a : Nat) (v : View) (s : State), Ready (.unwind a) v s → HasHandler v →
    (2 ^ 16 ≤ v.ui a ∨ v.frame.depth < v.ui a % 256 ∨ ∃ fr, v.group.atDepth (v.ui a % 256) 257 v.fr = some fr ∧
      0 < v.ui a % 256 ∧ (v.group.frame fr).markGen.toNat ≠ v.ui a / 256 % 256) →
    ∃ t, exec (.unwind a) s = .next t ∧ EntersHandler v s t 13 v.split.pc (BitVec.ofNat 64 (encode (.unwind a))) ∧
      Refunded v s t) ∧
  (∀ (k : Nat) (v : View) (s : State) (grans : List Nat), Ready (.fgrow k) v s → v.core.requests = [] →
    v.frame.grans.length + k ≤ 15 → takeGrans s v.sel.core k = some grans →
    ∃ t r, exec (.fgrow k) s = .next t ∧ grans.length = k ∧ Retires (.fgrow k) v s t v.nextPc
        (v.group.putFrame v.fr { v.frame with grans := v.frame.grans ++ grans, v := r }) id ∧
      (∀ n, n < 120 → Table.getD r n VReg.zero = if n < 8 * v.frame.grans.length then v.rvreg n else VReg.zero)) ∧
  (∀ (k : Nat) (v : View) (s : State), Ready (.fshrink k) v s → k ≤ v.frame.grans.length →
    ∃ t r, exec (.fshrink k) s = .next t ∧ Retires (.fshrink k) v s t v.nextPc
        (v.group.putFrame v.fr { v.frame with grans := v.frame.grans.take (v.frame.grans.length - k), v := r })
        (fun c => if v.frame.grans.length = k then c.bumpGen v.fr else c) ∧
      (∀ n, n < 8 * (v.frame.grans.length - k) → n < 120 → Table.getD r n VReg.zero = v.rvreg n)) ∧
  (∀ (k : Nat) (v : View) (s : State), Ready (.fgrow k) v s → HasHandler v → 15 < v.frame.grans.length + k →
    ∃ t, exec (.fgrow k) s = .next t ∧ EntersHandler v s t 13 v.split.pc (BitVec.ofNat 64 (encode (.fgrow k))) ∧
      Refunded v s t) ∧
  (∀ (k : Nat) (v : View) (s : State), Ready (.fshrink k) v s → HasHandler v → v.frame.grans.length < k →
    ∃ t, exec (.fshrink k) s = .next t ∧ EntersHandler v s t 13 v.split.pc (BitVec.ofNat 64 (encode (.fshrink k))) ∧
      Refunded v s t)

/-- A load that is aligned and allowed completes whenever nothing stands in its way: the PC goes on, no register and no
byte of memory changes, and one load is outstanding, for its destination in the frame of its split, with the value of
each lane: the bytes at its address, extended as its form says, or zero from a page that is not resident. It will set
the p15 bits of lanes whose page is resident and clear those of the others; a scalar load speaks for every active
lane. That a load takes its value when it issues, and that one which meets bytes of its own group's stores performs
every store of its core first and so reads the youngest store to each byte, is the model's choice (DESIGN CHOICE, log
entry 15): the spec orders the accesses of one split to one byte (R74, R218) and leaves the moment open. (R70, R71,
R72, R74, R210, R215, R216, R217, R218, R21) -/
def Obligations.Loads : Prop :=
  (∀ (i : Instr) (v : View) (s : State) (d : RegRef), isLoad i = true → loadDest i = some d → Ready i v s → Granted v s i →
    meetsOwnStore v.core v.who ((requestsOf v i).filterMap (placeOf v s i)) (accessBytes i) = false →
    ∃ t op, exec i s = .next t ∧
      Retires i v s t v.nextPc v.group (fun k => { k with loads := k.loads ++ [op] }) ∧
      op.dst = some d ∧ op.frame = v.fr ∧ op.gen = v.core.sgenOf v.fr ∧ op.who = v.who ∧ op.arrived = false ∧ op.wake = none ∧
      op.lanes.map Prod.fst = (requestsOf v i).map LaneReq.lane ∧
      (∀ r ∈ requestsOf v i, placeOf v s i r = none → (r.lane, 0) ∈ op.lanes) ∧
      (∀ r ∈ requestsOf v i, ∀ pa, placeOf v s i r = some pa → pa + accessBytes i ≤ Config.mereBase →
        (pa + accessBytes i ≤ Config.reservedBase ∨ Config.reservedEnd ≤ pa) →
        (r.lane, loadedRule (accessBytes i) (wordAt s.mem pa (accessBytes i)) i) ∈ op.lanes) ∧
      ((∀ r ∈ requestsOf v i, ∀ pa, placeOf v s i r = some pa → pa + accessBytes i ≤ Config.mereBase ∧ Clean s pa (accessBytes i)) →
        op.poison = none) ∧
      (∀ n, d = .s n → op.set = (if (requestsOf v i).any (placed v s i) then v.m else 0) ∧
        op.clear = (if (requestsOf v i).any (fun r => !placed v s i r) then v.m else 0)) ∧
      (∀ n, d = .v n → ∀ k, k < 32 →
        op.set.getLsbD k = (requestsOf v i).any (fun r => decide (r.lane = k) && placed v s i r) ∧
        op.clear.getLsbD k = (requestsOf v i).any (fun r => decide (r.lane = k) && !placed v s i r))) ∧
  (∀ (i : Instr) (v : View) (s : State) (d : RegRef), isLoad i = true → loadDest i = some d → Ready i v s → Granted v s i →
    meetsOwnStore v.core v.who ((requestsOf v i).filterMap (placeOf v s i)) (accessBytes i) = true →
    ∃ t g sp op, exec i s = .next t ∧ t.tick = s.tick + 1 ∧ SameWorld s t ∧ (t.core v.sel.core).stores = [] ∧
      (t.core v.sel.core).markers = [] ∧ t.group? v.sel.core v.sel.slot = some g ∧ g.splits[v.sel.idx]? = some sp ∧
      sp.pc = v.nextPc ∧ (t.core v.sel.core).loads = v.core.loads ++ [op] ∧ op.dst = some d ∧ op.frame = v.fr ∧
      op.gen = v.core.sgenOf v.fr ∧ op.who = v.who ∧ op.arrived = false ∧ op.wake = none ∧
      op.lanes.map Prod.fst = (requestsOf v i).map LaneReq.lane ∧
      (∀ r ∈ requestsOf v i, placeOf v s i r = none → (r.lane, 0) ∈ op.lanes) ∧
      ((∀ e ∈ v.core.pendingCells, e.1 < Config.mereBase ∧ blockFixed s e.1 = false) →
        OtherGroups v s t ∧ Debited v s t (costOf v i) ∧ g = v.booked s v.nextPc v.group ∧
        (∀ a, Memory.get t.mem a = pendingByte s v.core a) ∧
        ∀ r ∈ requestsOf v i, ∀ pa, placeOf v s i r = some pa → pa + accessBytes i ≤ Config.mereBase →
          (pa + accessBytes i ≤ Config.reservedBase ∨ Config.reservedEnd ≤ pa) →
          (r.lane, loadedRule (accessBytes i) (pendingWord s v.core pa (accessBytes i)) i) ∈ op.lanes))

/-- LOAD_RETURN takes an outstanding load of a live group and writes its destination, in the frame it was issued for: a
scalar whole and unpoisoned, a vector register in the lanes that the load carries, those unpoisoned and the others
with their poison as before. Its p15 bits are set for lanes that arrived and cleared for lanes of absent pages; every
other register stays; an FLD or FTAKE that held its split lets it go on. When the frame is freed, or the register lies
above the frame's present size, the data is dropped and stale counts one; that p15 changes even then is the model's
reading (DEDUCED, log entry 26). When the group has ended the load only leaves. A poisoned return stays outstanding
until it is delivered, or is dropped and counted where its register is gone. (R21, R29, R70, R75, R83, R113, R141,
R226, R281, R353) -/
def Obligations.LoadReturns : Prop :=
  (∀ (s : State) (c slot n d : Nat) (o : LoadOp) (g : Group) (l : Nat) (x : W64), Outstanding s c slot n o g →
    o.poison = none → o.dst = some (.s d) → o.lanes = [(l, x)] → (d < 32 ∨ (s.core c).sgenOf o.frame = o.gen) →
    ∃ t g', exec (.loadReturn c slot n) s = .next t ∧ t.tick = s.tick ∧ SameMemory s t ∧ t.tasks = s.tasks ∧
      OthersOf c slot s t ∧ (t.core c).loads = dropAt (s.core c).loads n ∧ t.group? c slot = some g' ∧
      Kept (o.woken g) g' o.frame [.s d, .p 15] ∧ g'.readS o.frame d = (if d = 0 then SReg.zero else ⟨x, false⟩) ∧
      ArrivedBits o g g') ∧
  (∀ (s : State) (c slot n d : Nat) (o : LoadOp) (g : Group), Outstanding s c slot n o g → o.poison = none →
    o.dst = some (.v d) → (120 ≤ d ∨ (s.core c).sgenOf o.frame = o.gen ∧ d < 8 * (g.frame o.frame).grans.length) →
    ∃ t g', exec (.loadReturn c slot n) s = .next t ∧ t.tick = s.tick ∧ SameMemory s t ∧ t.tasks = s.tasks ∧
      OthersOf c slot s t ∧ (t.core c).loads = dropAt (s.core c).loads n ∧ t.group? c slot = some g' ∧
      Kept (o.woken g) g' o.frame [.v d, .p 15] ∧ ArrivedBits o g g' ∧
      ∀ k, k < 32 →
        (o.lanes.any (fun e => decide (e.1 = k)) = true → (g'.readV o.frame d).poison.getLsbD k = false ∧
          laneAt (g'.lanes o.frame d) k = (Table.getD o.lanes k 0).setWidth 32) ∧
        (o.lanes.any (fun e => decide (e.1 = k)) = false → laneAt (g'.lanes o.frame d) k = laneAt (g.lanes o.frame d) k ∧
          (g'.readV o.frame d).poison.getLsbD k = (g.readV o.frame d).poison.getLsbD k)) ∧
  (∀ (s : State) (c slot n : Nat) (o : LoadOp) (g : Group) (r : RegRef), Outstanding s c slot n o g → o.poison = none →
    o.dst = some r → CutOff (s.core c) g o.frame o.gen r →
    ∃ t g', exec (.loadReturn c slot n) s = .next t ∧ SameMemory s t ∧ t.tasks = s.tasks ∧ OthersOf c slot s t ∧
      (t.core c).loads = dropAt (s.core c).loads n ∧ t.group? c slot = some g' ∧
      (∀ fr q, q ≠ .p 15 → SameReg g g' fr q) ∧ g'.splits = (o.woken g).splits ∧ g'.stale = bumpStop g.stale ∧
      ArrivedBits o g g') ∧
  (∀ (s : State) (c slot n : Nat) (o : LoadOp), (s.core c).loads[n]? = some o → o.who.slot = slot → o.arrived = false →
    (s.core c).owns o.who = false →
    ∃ t, exec (.loadReturn c slot n) s = .next t ∧ SameMemory s t ∧ t.tasks = s.tasks ∧
      (t.core c).loads = dropAt (s.core c).loads n ∧ ∀ c' g, t.group? c' g = s.group? c' g) ∧
  (∀ (s : State) (c slot n : Nat) (o : LoadOp) (g : Group) (p : W64), Outstanding s c slot n o g → o.poison = some p →
    (∀ r, o.dst = some r → ¬CutOff (s.core c) g o.frame o.gen r) →
    ∃ t, exec (.loadReturn c slot n) s = .next t ∧ SameMemory s t ∧ t.tasks = s.tasks ∧ OthersOf c slot s t ∧
      t.group? c slot = some (o.woken g) ∧
      (t.core c).loads = dropAt (s.core c).loads n ++ [{ o with arrived := true, wake := none }]) ∧
  (∀ (s : State) (c slot n : Nat) (o : LoadOp) (g : Group) (r : RegRef) (p : W64), Outstanding s c slot n o g →
    o.poison = some p → o.dst = some r → CutOff (s.core c) g o.frame o.gen r →
    ∃ t, exec (.loadReturn c slot n) s = .next t ∧ SameMemory s t ∧ t.tasks = s.tasks ∧ OthersOf c slot s t ∧
      t.group? c slot = some { (o.woken g) with stale := bumpStop g.stale } ∧
      (t.core c).loads = dropAt (s.core c).loads n)

/-- A store that is aligned and allowed, every page it names resident, completes whenever nothing stands in its way: the
PC goes on, no register changes, and one store is outstanding with its bytes, those of a higher lane after those of a
lower one; no byte of memory changes until it is performed. (That the bytes of all lanes of one VST or VSTC are
performed at one moment is the model's choice, DESIGN CHOICE, log entry 47.) (R70, R71, R211, R216, R217, R234) -/
def Obligations.Stores : Prop :=
  ∀ (i : Instr) (v : View) (s : State), isStore i = true → Ready i v s → Granted v s i →
    (∀ r ∈ requestsOf v i, placed v s i r = true) →
    ∃ t, exec i s = .next t ∧ Retires i v s t v.nextPc v.group
      (fun k => { k with stores := k.stores ++ [⟨v.who, storedCells v s i, k.epoch, s.tick⟩] }) ∧
      ((∀ e ∈ storedCells v s i, e.1 < Config.mereBase) → t.tileWrites = s.tileWrites)

/-- A store to plain memory that no marker of its split and no older store of its core to one of its 64-byte units holds
back is performed whole: each byte reads as the last the store carries for its address, a byte of a closed field of a
control block or a stamp buffer and every other byte of memory and every register as before, and a poisoned unit that
it covers whole is clean. A byte stored through the frame view or the group view of a slot that is held lands in its
register, the register's other bytes as before; one whose slot is not held, or beyond the frame, is dropped and
counted in stale. A byte stored through the physical view lands in the tile, accumulator or vector register whose
element it names, or in the element that nobody holds, from which it reads back. A byte stored to the query page
changes nothing. The oldest marker completes once no store issued before it is outstanding. A byte that is dropped on
a slot whose group has been saved counts in the saved group, which is known by its task and its number in the crew
(DEDUCED, log entry 28). (The model's choice: that one VST which covers a poisoned unit cleans it whole, DESIGN
CHOICE, log entry 47; that an element nobody holds keeps what the physical view writes and reads it back, DESIGN
CHOICE, log entry 16. That the closed fields bind every store but firmware's is DEDUCED, log entry 54.) (R11, R74,
R201, R203, R204, R234, R243, R279, R319, R327) -/
def Obligations.StoresPerformed : Prop :=
  (∀ (s : State) (c n : Nat) (o : StoreOp), (s.core c).stores[n]? = some o → mayPerform (s.core c) n o = true →
    (∀ e ∈ o.cells, e.1 < Config.mereBase) →
    ∃ t, exec (.storePerformed c n) s = .next t ∧ t.tick = s.tick ∧ t.tasks = s.tasks ∧ t.full = s.full ∧ t.tarn = s.tarn ∧
      (t.core c).stores = dropAt (s.core c).stores n ∧ (∀ c' g, t.group? c' g = s.group? c' g) ∧
      (∀ a, (∀ e ∈ o.cells, e.1 ≠ a) ∨ blockFixed s a = true → Memory.get t.mem a = Memory.get s.mem a) ∧
      (∀ l a b r, o.cells = l ++ (a, b) :: r → (∀ e ∈ r, e.1 ≠ a) → blockFixed s a = false → Memory.get t.mem a = b) ∧
      ∀ u, u ∈ t.poison ↔ u ∈ s.poison ∧ ¬∀ k, k < 64 → ∃ e ∈ o.cells, e.1 = 64 * u + k) ∧
  (∀ (s : State) (c n pa slot gen reg k fr owner : Nat) (b : Byte) (o : StoreOp) (g : Group) (m : MereAt),
    (m = .frameS slot gen reg k ∧ fr = slot) ∨ (m = .groupS slot gen reg k ∧ fr = 0) → MereByte s c n o pa b m →
    blockFixed s pa = false → (s.core (mereCore pa)).viewOwner m = some owner → s.group? (mereCore pa) owner = some g →
    ∃ t g', exec (.mereWriteLand c n) s = .next t ∧ SameMemory s t ∧ t.tasks = s.tasks ∧ OthersOf (mereCore pa) owner s t ∧
      (t.core c).stores = dropAt (s.core c).stores n ∧ t.group? (mereCore pa) owner = some g' ∧
      Kept g g' fr [.s reg] ∧ (g'.readS fr reg).val = putByte (g.readS fr reg).val k b ∧
      (g'.readS fr reg).poison = (g.readS fr reg).poison) ∧
  (∀ (s : State) (c n pa slot gen reg k fr owner : Nat) (b : Byte) (o : StoreOp) (g : Group) (m : MereAt),
    (m = .frameV slot gen reg k ∧ fr = slot) ∨ (m = .groupV slot gen reg k ∧ fr = 0) → MereByte s c n o pa b m →
    blockFixed s pa = false → (s.core (mereCore pa)).viewOwner m = some owner → s.group? (mereCore pa) owner = some g →
    (g.lanes fr reg).length = 32 →
    ∃ t g', exec (.mereWriteLand c n) s = .next t ∧ SameMemory s t ∧ t.tasks = s.tasks ∧ OthersOf (mereCore pa) owner s t ∧
      (t.core c).stores = dropAt (s.core c).stores n ∧ t.group? (mereCore pa) owner = some g' ∧
      Kept g g' fr [.v reg] ∧ (g'.readV fr reg).poison = (g.readV fr reg).poison ∧
      ∀ j, j < 128 → ((g'.readV fr reg).byte j).1 = if j = k then b else ((g.readV fr reg).byte j).1) ∧
  (∀ (s : State) (c n pa owner : Nat) (b : Byte) (o : StoreOp) (g : Group) (m : MereAt), mereLands pa = true →
    MereByte s c n o pa b m → blockFixed s pa = false → (s.core (mereCore pa)).viewOwner m = none →
    (s.core (mereCore pa)).staleOwner m = some (g.task, g.gid) → s.group? (mereCore pa) owner = some g →
    (∀ e ∈ (s.core (mereCore pa)).groups, e.2.task = g.task → e.2.gid = g.gid → e.1 = owner) →
    ∃ t, exec (.mereWriteLand c n) s = .next t ∧ SameMemory s t ∧ t.tasks = s.tasks ∧ OthersOf (mereCore pa) owner s t ∧
      (t.core c).stores = dropAt (s.core c).stores n ∧
      t.group? (mereCore pa) owner = some { g with stale := bumpStop g.stale }) ∧
  (∀ (s : State) (c n pa tid gid : Nat) (b : Byte) (o : StoreOp) (m : MereAt), mereLands pa = true →
    MereByte s c n o pa b m → blockFixed s pa = false → (s.core (mereCore pa)).viewOwner m = none →
    (s.core (mereCore pa)).staleOwner m = some (tid, gid) →
    (∀ e ∈ (s.core (mereCore pa)).groups, ¬(e.2.task = tid ∧ e.2.gid = gid)) →
    ∃ t, exec (.mereWriteLand c n) s = .next t ∧ SameMemory s t ∧ (∀ c' g, t.group? c' g = s.group? c' g) ∧
      (t.core c).stores = dropAt (s.core c).stores n ∧
      t.tasks = Table.modify s.tasks tid (fun x => { x with saved := x.saved.map (fun z =>
        if z.group.gid = gid then
          { z with group := { z.group with stale := bumpStop z.group.stale }, dirty := true } else z) })) ∧
  (∀ (s : State) (c n pa e k num owner : Nat) (b : Byte) (o : StoreOp) (g : Group), MereByte s c n o pa b (.tile e k) →
    blockFixed s pa = false →
    (s.core (mereCore pa)).tileOwner (modelElem (mereCore pa) 1 e) = some (owner, num) →
    s.group? (mereCore pa) owner = some g → (g.readT num).bytes.length = 1536 →
    ∃ t g', exec (.storePerformed c n) s = .next t ∧ SameMemory s t ∧ t.tasks = s.tasks ∧ OthersOf (mereCore pa) owner s t ∧
      t.group? (mereCore pa) owner = some g' ∧ Kept g g' 0 [.t num] ∧
      ∀ j, j < 1536 → (g'.readT num).bytes.getD j 0 = if j = k then b else (g.readT num).bytes.getD j 0) ∧
  (∀ (s : State) (c n pa e k num owner : Nat) (b : Byte) (o : StoreOp) (g : Group), MereByte s c n o pa b (.acc e k) →
    blockFixed s pa = false →
    (s.core (mereCore pa)).accOwner (modelElem (mereCore pa) 2 e) = some (owner, num) →
    s.group? (mereCore pa) owner = some g → (g.readA num).vals.length = 256 →
    ∃ t g', exec (.storePerformed c n) s = .next t ∧ SameMemory s t ∧ t.tasks = s.tasks ∧ OthersOf (mereCore pa) owner s t ∧
      t.group? (mereCore pa) owner = some g' ∧ Kept g g' 0 [.a num 0, .a num 1, .a num 2, .a num 3] ∧
      ∀ j, j < 1024 → ((g'.readA num).vals.getD (j / 4) 0).extractLsb' (8 * (j % 4)) 8 =
        if j = k then b else ((g.readA num).vals.getD (j / 4) 0).extractLsb' (8 * (j % 4)) 8) ∧
  (∀ (s : State) (c n pa e k i fr owner : Nat) (b : Byte) (o : StoreOp) (g : Group), MereByte s c n o pa b (.granule e k) →
    blockFixed s pa = false →
    (s.core (mereCore pa)).granOwner (modelElem (mereCore pa) 0 e) = some (owner, fr, i) →
    s.group? (mereCore pa) owner = some g → (g.lanes fr (8 * i + k / 128)).length = 32 →
    ∃ t g', exec (.storePerformed c n) s = .next t ∧ SameMemory s t ∧ t.tasks = s.tasks ∧ OthersOf (mereCore pa) owner s t ∧
      t.group? (mereCore pa) owner = some g' ∧ Kept g g' fr [.v (8 * i + k / 128)] ∧
      ∀ j, j < 128 → ((g'.readV fr (8 * i + k / 128)).byte j).1 =
        if j = k % 128 then b else ((g.readV fr (8 * i + k / 128)).byte j).1) ∧
  (∀ (s : State) (c n pa e k : Nat) (b : Byte) (o : StoreOp) (m : MereAt), MereByte s c n o pa b m → blockFixed s pa = false →
    (m = .tile e k ∧ (s.core (mereCore pa)).tileOwner (modelElem (mereCore pa) 1 e) = none) ∨
      (m = .acc e k ∧ (s.core (mereCore pa)).accOwner (modelElem (mereCore pa) 2 e) = none) ∨
      (m = .granule e k ∧ (s.core (mereCore pa)).granOwner (modelElem (mereCore pa) 0 e) = none ∧
        s.chanByte (mereCore pa) (modelElem (mereCore pa) 0 e) k = none) →
    ∃ t, exec (.storePerformed c n) s = .next t ∧ SameMemory s t ∧ t.tasks = s.tasks ∧
      (∀ c' g, t.group? c' g = s.group? c' g) ∧ (mereRead t none pa).1 = b) ∧
  (∀ (s : State) (c n pa off : Nat) (b : Byte) (o : StoreOp), MereByte s c n o pa b (.query off) →
    ∃ t, exec (.storePerformed c n) s = .next t ∧ SameMemory s t ∧ t.tasks = s.tasks ∧
      (t.core c).stores = dropAt (s.core c).stores n ∧ (∀ c' g, t.group? c' g = s.group? c' g) ∧
      ∀ c', (t.core c').loose = (s.core c').loose) ∧
  (∀ (s : State) (c : Nat) (m : Marker) (rest : List Marker), (s.core c).markers = m :: rest →
    (∀ o ∈ (s.core c).stores, m.number ≤ o.epoch) →
    ∃ t, exec (.releaseMarkerComplete c 0) s = .next t ∧ SameMemory s t ∧ t.tasks = s.tasks ∧
      (t.core c).markers = rest ∧ (t.core c).stores = (s.core c).stores ∧ ∀ c' g, t.group? c' g = s.group? c' g)

/-- An atomic at words of plain memory that are aligned, allowed, resident and clean completes whenever nothing stands in
its way and no store of its core is outstanding: its words take the values its operation gives, every other byte reads
as before, and one load is outstanding that will write the old value of each word to its destination; no register
changes yet. A VAMO here names words that do not overlap; where two lanes name one word the order of their steps is
the model's free value (log entry 15). With stores outstanding they are performed first, which is the model's way of
releasing (DESIGN CHOICE, log entry 15). (R220, R221, R222, R223, R242) -/
def Obligations.Atomics : Prop :=
  (∀ (i : Instr) (v : View) (s : State) (r : LaneReq) (pa d : Nat),
    (∃ op w sc a, i = .amo op w sc d a) ∨ (∃ w sc a, i = .cas w sc d a) → Ready i v s → Settled v → OneWord v s i r pa →
    Clean s pa (accessBytes i) →
    ∃ t op, exec i s = .next t ∧ t.tick = s.tick + 1 ∧ SameWorld s t ∧ OtherGroups v s t ∧ Debited v s t (costOf v i) ∧
      t.full = s.full ∧ t.poison = s.poison ∧ t.group? v.sel.core v.sel.slot = some (v.booked s v.nextPc v.group) ∧
      (t.core v.sel.core).loads = v.core.loads ++ [op] ∧ op.dst = some (.s d) ∧ op.frame = v.fr ∧ op.poison = none ∧
      op.lanes = [(r.lane, BitVec.ofNat 64 (wordAt s.mem pa (accessBytes i)))] ∧
      wordAt t.mem pa (accessBytes i) = atomicRule v (accessBytes i) (wordAt s.mem pa (accessBytes i)) i ∧
      ∀ a, (a < pa ∨ pa + accessBytes i ≤ a) → Memory.get t.mem a = Memory.get s.mem a) ∧
  (∀ (op : AmoOp) (sc : Scope) (d a : Nat) (v : View) (s : State), Ready (.vamo op sc d a) v s → Settled v →
    Granted v s (.vamo op sc d a) → (∀ r ∈ requestsOf v (.vamo op sc d a), ∃ pa, placeOf v s (.vamo op sc d a) r = some pa ∧
      pa + 4 ≤ Config.mereBase ∧ Clean s pa 4 ∧ Open s pa 4) →
    (∀ r ∈ requestsOf v (.vamo op sc d a), ∀ q ∈ requestsOf v (.vamo op sc d a), r.lane ≠ q.lane → ∀ pa pb,
      placeOf v s (.vamo op sc d a) r = some pa → placeOf v s (.vamo op sc d a) q = some pb → pa + 4 ≤ pb ∨ pb + 4 ≤ pa) →
    ∃ t o, exec (.vamo op sc d a) s = .next t ∧ t.tick = s.tick + 1 ∧ SameWorld s t ∧ OtherGroups v s t ∧
      Debited v s t (costOf v (.vamo op sc d a)) ∧ t.group? v.sel.core v.sel.slot = some (v.booked s v.nextPc v.group) ∧
      (t.core v.sel.core).loads = v.core.loads ++ [o] ∧ o.dst = some (.v d) ∧ o.poison = none ∧
      (∀ r ∈ requestsOf v (.vamo op sc d a), ∀ pa, placeOf v s (.vamo op sc d a) r = some pa →
        (r.lane, BitVec.ofNat 64 (wordAt s.mem pa 4)) ∈ o.lanes ∧
        wordAt t.mem pa 4 = vectorAtomic op (wordAt s.mem pa 4) (v.ul d r.lane)) ∧
      ∀ x, (∀ r ∈ requestsOf v (.vamo op sc d a), ∀ pa, placeOf v s (.vamo op sc d a) r = some pa → x < pa ∨ pa + 4 ≤ x) →
        Memory.get t.mem x = Memory.get s.mem x) ∧
  (∀ (i : Instr) (v : View) (s : State), ((∃ op w sc d a, i = .amo op w sc d a) ∨ (∃ w sc d a, i = .cas w sc d a) ∨
      (∃ op sc d a, i = .vamo op sc d a)) → Ready i v s → Granted v s i → (∀ r ∈ requestsOf v i, placed v s i r = true) →
    ∃ t, exec i s = .next t ∧ t.tick = s.tick + 1 ∧ (t.core v.sel.core).stores = [] ∧ (t.core v.sel.core).markers = [])

/-- At an aligned, allowed, resident word of plain memory on which no access waits, no store of the core being
outstanding: FLD and FTAKE of a full word put its data on the way, their split parked until it lands, and FTAKE leaves
the word empty; FPUT of an empty word and FFILL write it and leave it full, and their split goes on. FLD and FTAKE of
an empty word and FPUT of a full one take an entry of the Tarn, memory unchanged, or with the Tarn full take BUSY and
are presented again after 512 cycles; an FPUT or FFILL of a word on which FTAKEs wait hands it to the first in the
order of parking, whose data is then on the way, the word empty again and the others in their places; an FTAKE of a
full word on which FPUTs wait lets the first of them write it and go on, the others in their places; presented again,
an access goes as a new one does and is not debited again: an FPUT that finds its word empty writes it and its split
goes on, an FLD or FTAKE that finds it full puts its data on the way, and one that has to wait still takes an entry of
the Tarn, or BUSY for another 512 cycles. (That FLD and FTAKE need R and M and no W of their page is DEDUCED, log
entry 1; that a retried access has the operands recorded at its issue is DEDUCED, log entry 46; that stores
outstanding are performed first is a DESIGN CHOICE, log entry 15.) (R224, R225, R226, R227, R242) -/
def Obligations.FullEmptyWords : Prop :=
  (∀ (i : Instr) (v : View) (s : State) (r : LaneReq) (pa d : Nat),
    (∃ sc a, i = .fld sc d a ∨ i = .ftake sc d a) → Ready i v s → Settled v → OneWord v s i r pa → Clean s pa 8 →
    (∀ e ∈ s.tarn, e.pa ≠ pa) → isFull s pa = true →
    ∃ t g sp op, exec i s = .next t ∧ Debited v s t 2 ∧ t.mem = s.mem ∧ t.poison = s.poison ∧
      ((∃ sc a, i = .ftake sc d a) → t.full = Table.removeNat s.full (pa / 8)) ∧ ((∃ sc a, i = .fld sc d a) → t.full = s.full) ∧
      t.group? v.sel.core v.sel.slot = some g ∧ (∀ fr q, SameReg v.group g fr q) ∧ g.splits[v.sel.idx]? = some sp ∧
      sp.state = .parked ∧ sp.wait = .data ∧ sp.pc = v.split.pc ∧ (t.core v.sel.core).loads = v.core.loads ++ [op] ∧
      op.dst = some (.s d) ∧ op.lanes = [(lowLane v.m, BitVec.ofNat 64 (wordAt s.mem pa 8))] ∧ op.wake = some (lowLane v.m)) ∧
  (∀ (i : Instr) (v : View) (s : State) (r : LaneReq) (pa d : Nat),
    ((∃ sc a, i = .fput sc d a) ∧ isFull s pa = false ∨ (∃ sc a, i = .ffill sc d a)) → Ready i v s → Settled v →
    OneWord v s i r pa → (∀ e ∈ s.tarn, e.pa ≠ pa) →
    ∃ t, exec i s = .next t ∧ Debited v s t 2 ∧ t.group? v.sel.core v.sel.slot = some (v.booked s v.nextPc v.group) ∧
      t.full = Table.insertNat s.full (pa / 8) ∧ t.tarn = s.tarn ∧ wordAt t.mem pa 8 = v.ui d ∧
      ∀ a, (a < pa ∨ pa + 8 ≤ a) → Memory.get t.mem a = Memory.get s.mem a) ∧
  (∀ (i : Instr) (v : View) (s : State) (r : LaneReq) (pa d : Nat),
    ((∃ sc a, i = .fld sc d a ∨ i = .ftake sc d a) ∧ isFull s pa = false ∨ (∃ sc a, i = .fput sc d a) ∧ isFull s pa = true) →
    Ready i v s → Settled v → OneWord v s i r pa →
    ∃ t g sp, exec i s = .next t ∧ Debited v s t 2 ∧ SameMemory s t ∧ t.group? v.sel.core v.sel.slot = some g ∧
      (∀ fr q, SameReg v.group g fr q) ∧ g.splits[v.sel.idx]? = some sp ∧ sp.state = .parked ∧ sp.pc = v.split.pc ∧
      (tarnRoom s pa = true → t.tarn = s.tarn ++ [⟨pa, .split v.sel.core v.sel.slot (lowLane v.m)⟩]) ∧
      (tarnRoom s pa = false → t.tarn = s.tarn ∧ ∃ acc, sp.wait = .busy acc (s.cyc v.sel.core + 512))) ∧
  (∀ (i : Instr) (v : View) (s : State) (r : LaneReq) (pa d c slot lane d' a' : Nat) (sc : Scope) (rest : List TarnEntry)
    (h : Group) (sp : Split) (w : Who) (acc : Access),
    ((∃ sc a, i = .fput sc d a) ∧ isFull s pa = false ∨ (∃ sc a, i = .ffill sc d a)) → Ready i v s → Settled v →
    OneWord v s i r pa → s.tarn = ⟨pa, .split c slot lane⟩ :: rest → ¬(c = v.sel.core ∧ slot = v.sel.slot) →
    s.group? c slot = some h → h.atLane lane = some sp → whoOfLane s c slot lane = some w → sp.wait = .tarn acc →
    acc.instr = .ftake sc d' a' → (∀ e ∈ rest, e.pa = pa → Awaits s e fun j => ∃ sc d a, j = .fld sc d a ∨ j = .ftake sc d a) →
    ∃ t op, exec i s = .next t ∧ t.tarn = rest ∧ isFull t pa = false ∧ (∀ q, q / 8 ≠ pa / 8 → isFull t q = isFull s q) ∧
      wordAt t.mem pa 8 = v.ui d ∧ t.group? v.sel.core v.sel.slot = some (v.booked s v.nextPc v.group) ∧
      t.group? c slot = some (h.parkLane lane .data) ∧ (t.core c).loads = (s.core c).loads ++ [op] ∧ op.dst = some (.s d') ∧
      op.frame = acc.frame ∧ op.gen = acc.gen ∧ op.lanes = [(lane, BitVec.ofNat 64 (v.ui d))] ∧ op.wake = some lane) ∧
  (∀ (v : View) (s : State) (r q : LaneReq) (pa d a c slot lane d' a' : Nat) (sc sc' : Scope) (rest : List TarnEntry)
    (h : Group) (sp : Split) (w : Who) (acc : Access), Ready (.ftake sc d a) v s → Settled v → OneWord v s (.ftake sc d a) r pa →
    isFull s pa = true → Clean s pa 8 → Open s pa 8 → s.tarn = ⟨pa, .split c slot lane⟩ :: rest →
    ¬(c = v.sel.core ∧ slot = v.sel.slot) → s.group? c slot = some h → h.atLane lane = some sp →
    whoOfLane s c slot lane = some w → sp.wait = .tarn acc → acc.instr = .fput sc' d' a' → acc.reqs = [q] →
    (∀ e ∈ rest, e.pa = pa → Awaits s e fun j => ∃ sc d a, j = .fput sc d a) →
    ∃ t op, exec (.ftake sc d a) s = .next t ∧ t.tarn = rest ∧ isFull t pa = true ∧
      (∀ q, q / 8 ≠ pa / 8 → isFull t q = isFull s q) ∧ wordAt t.mem pa 8 = q.x.toNat ∧
      (∀ a, (a < pa ∨ pa + 8 ≤ a) → Memory.get t.mem a = Memory.get s.mem a) ∧ t.group? c slot = some (h.resume lane) ∧
      (t.core v.sel.core).loads = v.core.loads ++ [op] ∧ op.dst = some (.s d) ∧ op.poison = none ∧
      op.lanes = [(lowLane v.m, BitVec.ofNat 64 (wordAt s.mem pa 8))] ∧ op.wake = some (lowLane v.m)) ∧
  (∀ (s : State) (c slot n when' pa d a : Nat) (sc : Scope) (g : Group) (sp : Split) (acc : Access) (r : LaneReq) (w : Who),
    s.group? c slot = some g → g.entries[n]? = some sp → sp.wait = .busy acc when' → when' ≤ s.cyc c → g.out = false →
    g.leaving = false → s.savingAt c slot = false →
    whoOfLane s c slot (lowLane sp.mask) = some w → acc.instr = .fput sc d a → acc.reqs = [r] →
    accessTrap s w acc = none → reqPhys s w acc r = some pa → pa + 8 ≤ Config.mereBase → Open s pa 8 → isFull s pa = false →
    (s.core c).outstanding < Config.requests → (s.core c).stores = [] → (s.core c).markers = [] → (∀ e ∈ s.tarn, e.pa ≠ pa) →
    ∃ t g', exec (.tarnRetry c slot n) s = .next t ∧ t.tick = s.tick ∧ t.tasks = s.tasks ∧ wordAt t.mem pa 8 = r.x.toNat ∧
      t.full = Table.insertNat s.full (pa / 8) ∧ t.group? c slot = some g' ∧
      g' = g.resume (lowLane sp.mask)) ∧
  (∀ (s : State) (c slot n when' pa d a : Nat) (sc : Scope) (g : Group) (sp : Split) (acc : Access) (r : LaneReq) (w : Who),
    s.group? c slot = some g → g.entries[n]? = some sp → sp.wait = .busy acc when' → when' ≤ s.cyc c → g.out = false →
    g.leaving = false → s.savingAt c slot = false →
    whoOfLane s c slot (lowLane sp.mask) = some w → (acc.instr = .fld sc d a ∨ acc.instr = .ftake sc d a) → acc.reqs = [r] →
    accessTrap s w acc = none → reqPhys s w acc r = some pa → pa + 8 ≤ Config.mereBase → Clean s pa 8 → isFull s pa = true →
    (s.core c).outstanding < Config.requests → (s.core c).stores = [] → (s.core c).markers = [] → (∀ e ∈ s.tarn, e.pa ≠ pa) →
    ∃ t op, exec (.tarnRetry c slot n) s = .next t ∧ t.tick = s.tick ∧ t.tasks = s.tasks ∧ t.mem = s.mem ∧
      t.poison = s.poison ∧ t.tarn = s.tarn ∧
      (acc.instr = .ftake sc d a → t.full = Table.removeNat s.full (pa / 8)) ∧ (acc.instr = .fld sc d a → t.full = s.full) ∧
      t.group? c slot = some (g.parkLane (lowLane sp.mask) .data) ∧ (t.core c).loads = (s.core c).loads ++ [op] ∧
      op.dst = some (.s d) ∧ op.frame = acc.frame ∧ op.gen = acc.gen ∧ op.poison = none ∧
      op.lanes = [(lowLane sp.mask, BitVec.ofNat 64 (wordAt s.mem pa 8))] ∧ op.wake = some (lowLane sp.mask)) ∧
  (∀ (s : State) (c slot n when' pa d a : Nat) (sc : Scope) (g : Group) (sp : Split) (acc : Access) (r : LaneReq) (w : Who),
    s.group? c slot = some g → g.entries[n]? = some sp → sp.wait = .busy acc when' → when' ≤ s.cyc c → g.out = false →
    g.leaving = false → s.savingAt c slot = false → whoOfLane s c slot (lowLane sp.mask) = some w →
    ((acc.instr = .fld sc d a ∨ acc.instr = .ftake sc d a) ∧ isFull s pa = false ∨
      acc.instr = .fput sc d a ∧ isFull s pa = true) → acc.reqs = [r] →
    accessTrap s w acc = none → reqPhys s w acc r = some pa →
    (s.core c).outstanding < Config.requests → (s.core c).stores = [] → (s.core c).markers = [] →
    ∃ t, exec (.tarnRetry c slot n) s = .next t ∧ t.tick = s.tick ∧ t.tasks = s.tasks ∧ SameMemory s t ∧
      (t.core c).loads = (s.core c).loads ∧
      (tarnRoom s pa = true → t.tarn = s.tarn ++ [⟨pa, .split c slot (lowLane sp.mask)⟩] ∧
        t.group? c slot = some (g.parkLane (lowLane sp.mask) (.tarn acc))) ∧
      (tarnRoom s pa = false → t.tarn = s.tarn ∧
        t.group? c slot = some (g.parkLane (lowLane sp.mask) (.busy acc (s.cyc c + 512)))))

/-- TOUCH of a resident byte and an acquire FENCE complete and change nothing but PC and account. TOUCH of a page that is
not resident goes on as well, with one record for the page, its 64 bytes written to the ring, as long as the ring has
a place; with none free its split parks at the TOUCH until the record has one. (Where in the ring the record stands,
by its number, is the model's choice, DESIGN CHOICE, log entry 11, and where the ring lies, log entry 17.) A release
FENCE at .grp or .core completes with every store of its core performed at once, which is the model's choice (DESIGN
CHOICE, log entry 15; R229 orders the split's own accesses and R243 sends no marker there); one at a wider scope sends
a marker that counts the stores issued before it. (R212, R214, R219, R229, R242, R243) -/
def Obligations.TouchAndFence : Prop :=
  (∀ (a : Nat) (v : View) (s : State), Ready (.touch a) v s → Granted v s (.touch a) →
    (∀ r ∈ requestsOf v (.touch a), placed v s (.touch a) r = true) →
    ∃ t, exec (.touch a) s = .next t ∧ Retires (.touch a) v s t v.nextPc v.group id) ∧
  (∀ (a page : Nat) (v : View) (s : State), Ready (.touch a) v s →
    translate s v.task.ctx v.task.asid Need.touch (v.ui a) = .absent page → s.hub.recWait = [] →
    s.hub.ring.length < ringPlaces →
    ∃ t rec, exec (.touch a) s = .next t ∧ t.tick = s.tick + 1 ∧ SameButRing s t ∧ Debited v s t 1 ∧
      (∀ k, k < 64 → Memory.get t.mem (areaPhys ringArea + 64 * (s.hub.recSeq % ringPlaces) + k) =
        (recordBytes rec).getD k 0) ∧ rec.seq = s.hub.recSeq ∧
      t.group? v.sel.core v.sel.slot = some (v.booked s v.nextPc v.group) ∧ t.hub.ring = s.hub.ring ++ [rec] ∧
      rec.va = v.ui a ∧ rec.kind = 4 ∧ rec.asid = v.task.asid ∧ rec.core = v.sel.core ∧ rec.slot = v.sel.slot) ∧
  (∀ (a page : Nat) (v : View) (s : State), Ready (.touch a) v s →
    translate s v.task.ctx v.task.asid Need.touch (v.ui a) = .absent page →
    (s.hub.recWait ≠ [] ∨ ringPlaces ≤ s.hub.ring.length) →
    ∃ t g sp rec, exec (.touch a) s = .next t ∧ t.tick = s.tick + 1 ∧ SameMemory s t ∧ OtherGroups v s t ∧ Debited v s t 1 ∧
      t.hub.ring = s.hub.ring ∧ t.hub.recWait = s.hub.recWait ++ [rec] ∧ rec.va = v.ui a ∧ rec.kind = 4 ∧
      rec.asid = v.task.asid ∧ rec.core = v.sel.core ∧ rec.slot = v.sel.slot ∧
      t.group? v.sel.core v.sel.slot = some g ∧ (∀ fr q, SameReg v.group g fr q) ∧ g.splits[v.sel.idx]? = some sp ∧
      sp.state = .parked ∧ sp.wait = .touch ∧ sp.pc = v.split.pc) ∧
  (∀ (sc : Scope) (v : View) (s : State), Ready (.fence .acq sc) v s →
    ∃ t, exec (.fence .acq sc) s = .next t ∧ Retires (.fence .acq sc) v s t v.nextPc v.group id) ∧
  (∀ (k : FenceKind) (sc : Scope) (v : View) (s : State), Ready (.fence k sc) v s → k ≠ .acq → (sc = .grp ∨ sc = .core) →
    ∃ t, exec (.fence k sc) s = .next t ∧ t.tick = s.tick + 1 ∧ Debited v s t 1 ∧ (t.core v.sel.core).stores = [] ∧
      (t.core v.sel.core).markers = [] ∧ (Settled v → Retires (.fence k sc) v s t v.nextPc v.group id)) ∧
  (∀ (k : FenceKind) (sc : Scope) (v : View) (s : State), Ready (.fence k sc) v s → k ≠ .acq → sc ≠ .grp → sc ≠ .core →
    ∃ t, exec (.fence k sc) s = .next t ∧ Retires (.fence k sc) v s t v.nextPc v.group
      (fun c => { c with epoch := c.epoch + 1, markers := c.markers ++ [⟨v.who, c.epoch + 1, []⟩] }))

/-- A memory access with an address that is not a multiple of its width enters the handler with cause 7, the first such
address in lane order in tval; one whose addresses are aligned but whose page does not allow it, or which would write
a part of a TCB it may not write, its page resident or not, enters it with cause 6 and the first such address. No
register and no byte of memory changes, and with nothing paid before nothing is debited. A store, an atomic or a
full/empty access that is aligned and allowed but names a page that is not resident performs no part of itself: its
split parks at it, debited, with one record for each such page, by the lowest address on it, and no register and no
byte of memory outside the fault ring changes. (Which rights of its page AMO, CAS, VAMO, FLD and FTAKE need is the
model's reading, DEDUCED, log entry 1.) (R35, R40, R71, R215, R220, R225, R354, R210, R211, R212, R213) -/
def Obligations.AccessTraps : Prop :=
  (∀ (i : Instr) (v : View) (s : State) (r : LaneReq), (isLoad i || isStore i || isWordAccess i) = true → Ready i v s →
    HasHandler v → (requestsOf v i).find? (fun r => decide (r.va.toNat % accessBytes i ≠ 0)) = some r →
    ∃ t, exec i s = .next t ∧ EntersHandler v s t 7 v.split.pc r.va ∧ Refunded v s t) ∧
  (∀ (i : Instr) (v : View) (s : State) (l q : List LaneReq) (r : LaneReq),
    (isLoad i || isStore i || isWordAccess i) = true ∨ (∃ a, i = .touch a) → Ready i v s → HasHandler v → Aligned v i →
    requestsOf v i = l ++ r :: q →
    (translate s v.task.ctx v.task.asid (accessNeed i) r.va.toNat = .bad ∨ ClosedTo v s i r) →
    (∀ x ∈ l, translate s v.task.ctx v.task.asid (accessNeed i) x.va.toNat ≠ .bad ∧ ¬ClosedTo v s i x) →
    ∃ t, exec i s = .next t ∧ EntersHandler v s t 6 v.split.pc r.va ∧ Refunded v s t) ∧
  (∀ (i : Instr) (v : View) (s : State), (isStore i || isWordAccess i) = true → Ready i v s → Granted v s i →
    (∃ r ∈ requestsOf v i, placed v s i r = false) →
    ∃ t g sp, exec i s = .next t ∧ t.tick = s.tick + 1 ∧ SameButRing s t ∧ OtherGroups v s t ∧ Debited v s t (costOf v i) ∧
      t.group? v.sel.core v.sel.slot = some g ∧ (∀ fr q, SameReg v.group g fr q) ∧ g.splits[v.sel.idx]? = some sp ∧
      sp.state = .parked ∧ sp.pc = v.split.pc ∧ sp.wait = .faults (accessAbsent s v.who (accessOf v i)).length (accessOf v i) ∧
      (t.hub.ring ++ t.hub.recWait).length =
        (s.hub.ring ++ s.hub.recWait).length + (accessAbsent s v.who (accessOf v i)).length ∧
      ∀ va ∈ accessAbsent s v.who (accessOf v i), ∃ rec ∈ t.hub.ring ++ t.hub.recWait,
        rec.va = va ∧ rec.kind = accessKind i ∧ rec.asid = v.task.asid ∧ rec.core = v.sel.core ∧ rec.slot = v.sel.slot)

/-- MFMT whose active lanes agree sets mfr to the low half of their value, and enters the handler with cause 5 and the
first value that differs otherwise. ACLR, AGET and APUT complete whenever nothing stands in their way, each handing
the array one operation with the values it read; no register changes yet. When it lands, ACLR has zeroed the active
quarters of its accumulator, AGET has copied the accumulator to eight vector registers in the active lanes, APUT eight
vector registers to the accumulator in the active lanes, and no other register, quarter or lane has changed; a
register of AGET whose frame is freed, or that the frame no longer has, is dropped, and stale counts one. (That all
three land after their issue, and that a register of AGET cut off is dropped so, is log entry 53, DEDUCED.) (R29, R82,
R83, R90, R251, R252, R259, R264, R353) -/
def Obligations.AccumulatorMoves : Prop :=
  (∀ (a : Nat) (w : W32) (v : View) (s : State), Ready (.mfmt a) v s → v.m ≠ 0 → (∀ k, k < 32 → v.m.getLsbD k = true → v.lane a k = w) →
    ∃ t, exec (.mfmt a) s = .next t ∧ Retires (.mfmt a) v s t v.nextPc { v.group with mfr := w.setWidth 16 } id) ∧
  (∀ (a k : Nat) (v : View) (s : State), Ready (.mfmt a) v s → HasHandler v →
    (lanesOf v.m).find? (fun k => decide (v.lane a k ≠ v.lane a (lowLane v.m))) = some k →
    ∃ t, exec (.mfmt a) s = .next t ∧ EntersHandler v s t 5 v.split.pc ((v.lane a k).setWidth 64)) ∧
  (∀ (d : Nat) (v : View) (s : State), Ready (.aclr d) v s →
    ∃ t o, exec (.aclr d) s = .next t ∧ Handed (.aclr d) v s t o ∧ o.kind = .aclr ∧ o.target = d ∧
      o.quarters = quartersOf v.m) ∧
  (∀ (d a : Nat) (v : View) (s : State), Ready (.aget d a) v s →
    ∃ t o, exec (.aget d a) s = .next t ∧ Handed (.aget d a) v s t o ∧ o.kind = .aget ∧ o.target = d ∧ o.frame = v.fr ∧
      o.gen = v.core.sgenOf v.fr ∧ o.vals = (v.group.readA a).vals) ∧
  (∀ (d a : Nat) (v : View) (s : State), Ready (.aput d a) v s →
    ∃ t o, exec (.aput d a) s = .next t ∧ Handed (.aput d a) v s t o ∧ o.kind = .aput ∧ o.target = d ∧
      ∀ e, e < 256 → o.vals.getD e 0 = v.lane (a + e / 32) (e % 32)) ∧
  (∀ (s : State) (c slot n : Nat) (o : MatOp) (g : Group), InArray s c slot n o g → o.kind = .aclr →
    ∃ t g', exec (.matrixDrain c slot n 0 0) s = .next t ∧ t.tick = s.tick ∧ SameMemory s t ∧ t.tasks = s.tasks ∧
      OthersOf c slot s t ∧ (t.core c).mats = dropAt (s.core c).mats n ∧ t.group? c slot = some g' ∧
      Kept g g' o.frame ((quarterList o.quarters).map (fun q => .a o.target q)) ∧
      ∀ e, e < 256 → o.quarters.getLsbD (e / 64) = true →
        (g'.readA o.target).vals.getD e 0 = 0 ∧ (g'.readA o.target).poison.getLsbD (e / 64) = false) ∧
  (∀ (s : State) (c slot n : Nat) (o : MatOp) (g : Group), InArray s c slot n o g → o.kind = .aget →
    ∃ t g', exec (.matrixDrain c slot n 0 0) s = .next t ∧ t.tick = s.tick ∧ SameMemory s t ∧ t.tasks = s.tasks ∧
      OthersOf c slot s t ∧ (t.core c).mats = dropAt (s.core c).mats n ∧ t.group? c slot = some g' ∧
      (∀ fr r, (∀ m, m < 8 → ¬(r = .v (o.target + m) ∧ (r.frameLocal = true → fr = o.frame))) → SameReg g g' fr r) ∧
      g'.splits = g.splits ∧
      (∀ m, m < 8 → CutOff (s.core c) g o.frame o.gen (.v (o.target + m)) → SameReg g g' o.frame (.v (o.target + m))) ∧
      (∀ m k, m < 8 → k < 32 → ¬CutOff (s.core c) g o.frame o.gen (.v (o.target + m)) →
        (o.who.mask.getLsbD k = true → laneAt (g'.lanes o.frame (o.target + m)) k = o.vals.getD (32 * m + k) 0 ∧
          (g'.readV o.frame (o.target + m)).poison.getLsbD k = false) ∧
        (o.who.mask.getLsbD k = false →
          laneAt (g'.lanes o.frame (o.target + m)) k = laneAt (g.lanes o.frame (o.target + m)) k ∧
          (g'.readV o.frame (o.target + m)).poison.getLsbD k = (g.readV o.frame (o.target + m)).poison.getLsbD k)) ∧
      ((∃ m, m < 8 ∧ CutOff (s.core c) g o.frame o.gen (.v (o.target + m))) → g'.stale = bumpStop g.stale) ∧
      ((∀ m, m < 8 → ¬CutOff (s.core c) g o.frame o.gen (.v (o.target + m))) → g'.stale = g.stale)) ∧
  (∀ (s : State) (c slot n : Nat) (o : MatOp) (g : Group), InArray s c slot n o g → o.kind = .aput →
    ∃ t g', exec (.matrixDrain c slot n 0 0) s = .next t ∧ t.tick = s.tick ∧ SameMemory s t ∧ t.tasks = s.tasks ∧
      OthersOf c slot s t ∧ (t.core c).mats = dropAt (s.core c).mats n ∧ t.group? c slot = some g' ∧
      Kept g g' o.frame [.a o.target 0, .a o.target 1, .a o.target 2, .a o.target 3] ∧
      (o.who.mask = BitVec.allOnes 32 → (g'.readA o.target).poison = 0) ∧
      ∀ e, e < 256 → (g'.readA o.target).vals.getD e 0 =
        if o.who.mask.getLsbD (e % 32) then o.vals.getD e 0 else (g.readA o.target).vals.getD e 0)

/-- With a valid format word and an active quarter, MM, and MMM whose image is aligned and allowed, complete whenever
nothing stands in their way and hand the array one operation on their quarters, with the rows of A and, for MM, the
tile as they now are; an MM joins the pass of an earlier one of its group that names its accumulator and tile and has
issued at most three cycles before under the same dual, no TLD to the tile and no write to it through the physical
view between them; a store to a tile that an outstanding MM reads is noted with the moment of its issue. TLD of an
aligned, allowed image hands over one load of its tile. No register and no byte of memory changes yet. An MMM whose
image is not resident is handed over too and waits, with one record of kind 8 for each page; no pass of it has begun,
so that it has no shadow yet. With no active quarter MM and MMM have no effect; with an invalid format word they enter
the handler with cause 5; a misaligned image enters it with cause 7, one that is not allowed with cause 6. (R103,
R249, R250, R252, R254, R255, R260, R261, R262, R263) -/
def Obligations.MatrixIssue : Prop :=
  (∀ (i : Instr) (d : Nat) (v : View) (s : State), ((∃ a b, i = .mm d a b) ∨ (∃ a b, i = .mmm d a b)) → Ready i v s →
    quartersOf v.m = 0 → ∃ t, exec i s = .next t ∧ Retires i v s t v.nextPc v.group id) ∧
  (∀ (i : Instr) (d : Nat) (v : View) (s : State), ((∃ a b, i = .mm d a b) ∨ (∃ a b, i = .mmm d a b)) → Ready i v s →
    HasHandler v → quartersOf v.m ≠ 0 → mfrValid v.group.mfr = false →
    ∃ t, exec i s = .next t ∧ EntersHandler v s t 5 v.split.pc (v.group.mfr.setWidth 64)) ∧
  (∀ (d a b : Nat) (v : View) (s : State), Ready (.mm d a b) v s → quartersOf v.m ≠ 0 → mfrValid v.group.mfr = true →
    ∃ t o, exec (.mm d a b) s = .next t ∧ t.tick = s.tick + 1 ∧ SameMemory s t ∧ OtherGroups v s t ∧
      t.group? v.sel.core v.sel.slot = some (v.booked s v.nextPc v.group) ∧ (t.core v.sel.core).mats = v.core.mats ++ [o] ∧
      o.kind = .mm ∧ o.target = d ∧ o.quarters = quartersOf v.m ∧ o.rows = aRows v.group v.fr a ∧
      o.bytes = (v.group.readT b).bytes ∧ o.mfr = v.group.mfr ∧ o.dual = v.group.dual ∧ o.who = v.who ∧ o.drained = false ∧
      o.started = false ∧ o.tileNo = b ∧ o.issued = s.cyc v.sel.core ∧ o.serial = s.fresh ∧
      o.pass = (match v.core.mats.find? (joinsPass
          ((tileOf v.core v.sel.core o).bind (fun e => Table.get? s.tileWrites (tileKey e))) o) with
        | some x => x.serial
        | none => o.serial) ∧
      ((∀ x ∈ v.task.tilerecs, x.closed = true) → Debited v s t (costOf v (.mm d a b)))) ∧
  (∀ (d a b : Nat) (v : View) (s : State), Ready (.mmm d a b) v s → Settled v → quartersOf v.m ≠ 0 → mfrValid v.group.mfr = true →
    v.ui b % 64 = 0 → rangeBad s v.task.ctx v.task.asid v.tid Need.load (v.ui b) 1536 = none →
    rangeAbsent s v.task.ctx v.task.asid Need.load 2 (v.ui b) (v.ui b + 1536) = [] →
    ∃ t o, exec (.mmm d a b) s = .next t ∧ t.tick = s.tick + 1 ∧ SameMemory s t ∧ OtherGroups v s t ∧
      t.group? v.sel.core v.sel.slot = some (v.booked s v.nextPc v.group) ∧ (t.core v.sel.core).mats = v.core.mats ++ [o] ∧
      o.kind = .mmm ∧ o.target = d ∧ o.quarters = quartersOf v.m ∧ o.rows = aRows v.group v.fr a ∧ o.bva = v.rs b ∧
      o.mfr = v.group.mfr ∧ o.dual = v.group.dual ∧ o.who = v.who ∧ o.absent = false ∧ o.pass = o.serial ∧
      ((∀ x ∈ v.task.tilerecs, x.closed = true) → Debited v s t (costOf v (.mmm d a b)))) ∧
  (∀ (d a b : Nat) (v : View) (s : State), Ready (.mmm d a b) v s → Settled v → quartersOf v.m ≠ 0 → mfrValid v.group.mfr = true →
    v.ui b % 64 = 0 → rangeBad s v.task.ctx v.task.asid v.tid Need.load (v.ui b) 1536 = none →
    rangeTrouble s v.who Need.load (v.ui b) 1536 ≠ [] →
    (∀ o ∈ v.core.mats, o.serial ≠ s.fresh) →
    ∃ t o, exec (.mmm d a b) s = .next t ∧ t.tick = s.tick + 1 ∧ SameButRing s t ∧ OtherGroups v s t ∧
      t.group? v.sel.core v.sel.slot = some (v.booked s v.nextPc v.group) ∧ (t.core v.sel.core).mats = v.core.mats ++ [o] ∧
      o.kind = .mmm ∧ o.target = d ∧ o.quarters = quartersOf v.m ∧ o.absent = true ∧
      o.shadow = none ∧ o.started = false ∧ o.records = (rangeTrouble s v.who Need.load (v.ui b) 1536).length ∧
      ∀ va ∈ rangeTrouble s v.who Need.load (v.ui b) 1536, ∃ rec ∈ t.hub.ring ++ t.hub.recWait,
        rec.va = va ∧ rec.kind = 8 ∧ rec.op = o.serial) ∧
  (∀ (d a : Nat) (v : View) (s : State), Ready (.tld d a) v s → Settled v → v.ui a % 64 = 0 →
    rangeBad s v.task.ctx v.task.asid v.tid Need.load (v.ui a) 1536 = none →
    ∃ t o, exec (.tld d a) s = .next t ∧ t.tick = s.tick + 1 ∧ SameMemory s t ∧ OtherGroups v s t ∧
      t.group? v.sel.core v.sel.slot = some (v.booked s v.nextPc v.group) ∧
      (t.core v.sel.core).mats = v.core.mats.map (fun x =>
        if x.kind = .mm ∧ x.tileNo = d ∧ x.who.sameGroup v.who = true then { x with isClosed := true } else x) ++ [o] ∧
      o.kind = .tld ∧ o.target = d ∧ o.bva = v.rs a ∧ o.who = v.who ∧
      ((∀ x ∈ v.task.tilerecs, x.closed = true) → Debited v s t 25)) ∧
  (∀ (i : Instr) (v : View) (s : State) (x : MatOp) (c e : Nat), isStore i = true → Ready i v s → Granted v s i →
    (∀ r ∈ requestsOf v i, placed v s i r = true) → x ∈ v.core.mats → x.kind = .mm → tileOf v.core v.sel.core x = some (c, e) →
    (∃ a ∈ storedCells v s i, Within a.1 (Config.mereBase + c * 2 ^ 36 + 0x10000000 + 2048 * storeElem c 1 e) 1536) →
    ∃ t, exec i s = .next t ∧ Table.get? t.tileWrites (tileKey (c, e)) = some s.fresh) ∧
  (∀ (i : Instr) (d b : Nat) (v : View) (s : State), (i = .tld d b ∨ (∃ a, i = .mmm d a b) ∧ quartersOf v.m ≠ 0 ∧
      mfrValid v.group.mfr = true) → Ready i v s → HasHandler v →
    (v.ui b % 64 ≠ 0 → ∃ t, exec i s = .next t ∧ EntersHandler v s t 7 v.split.pc (v.rs b) ∧ Refunded v s t) ∧
    (v.ui b % 64 = 0 → rangeBad s v.task.ctx v.task.asid v.tid Need.load (v.ui b) 1536 ≠ none →
      ∃ t, exec i s = .next t ∧ EntersHandler v s t 6 v.split.pc (v.rs b) ∧ Refunded v s t))

/-- A pass of MMs that ends without a fault has written, for each of its operations, to each element of the quarters it
names the dot product of its own row and column added to the value that the accumulator held when the pass began, in
the order of R105 and R106, and to no other element. Where the carried residue of a quarter differs and its operation
is of kind 2, that quarter keeps its value and a fault of cause 3 waits for delivery; where the copies of a dual pass
differ, every other quarter of the pass keeps its value with a fault of cause 4; the quarters that do not fault are
written as above. A pass of MMM does the same with the bytes of its image as it reads them at its end, from its
shadow; where a page is not there at its end its quarters are as its shadow keeps them, and it waits with a record for
each page. Where a 64-byte unit of its image is poisoned every quarter it names keeps its value with a fault of cause
2. TLD_COMPLETE writes the 1,536 bytes of its image to its tile, zero for a byte of a page that is not resident, with
the poison of each 64-byte unit, and sets p15 for the lanes of its split when all of it is resident and clears it
there otherwise. MMM_RERUN lets an MMM with no record left run again. (That B is read at the end of the pass is the
model's choice, DESIGN CHOICE, log entry 68, and that a TLD reads at its completion, log entry 74; that poison of B
comes before a residue and a difference of the copies is a DESIGN CHOICE, log entry 65; that of several operations of
one cycle on one element the one of the lowest lane stays is R61.) (R105, R106, R253, R254, R255, R256, R257, R258,
R260, R261, R262, R263) -/
def Obligations.MatrixEnds : Prop :=
  (∀ (s : State) (c slot n : Nat) (o : MatOp) (g : Group), PassBegun s c slot n o g → PassApart (passOf (s.core c) o.pass) →
    ∃ t g', exec (.matrixDrain c slot n 0 0) s = .next t ∧ SameMemory s t ∧ OthersOf c slot s t ∧
      (t.core c).mats = (s.core c).mats.filter (fun y =>
        (passOf (s.core c) o.pass).all (fun m => decide (y.serial ≠ m.serial))) ∧
      t.group? c slot = some g' ∧ g'.bare = g.bare ∧
      (∀ fr r, (∀ q, r = .a o.target q → q < 4 ∧ ∀ m ∈ passOf (s.core c) o.pass, m.quarters.getLsbD q = false) →
        SameReg g g' fr r) ∧
      (∀ m ∈ passOf (s.core c) o.pass, ∀ e, e < 256 → m.puts e = true → (g'.readA o.target).vals.getD e 0 =
        dotProduct m.mfr (m.rows.getD (e / 16) []) (bColumn m.bytes (e % 16))
          ((m.shadow.getD (g.readA o.target).vals).getD e 0)) ∧
      ∀ e, e < 256 → (∀ m ∈ passOf (s.core c) o.pass, m.puts e = false) →
        (g'.readA o.target).vals.getD e 0 = (g.readA o.target).vals.getD e 0) ∧
  (∀ (s : State) (c slot n : Nat) (residue dual : BitVec 4) (o : MatOp) (g : Group), PassBegun s c slot n o g →
    PassApart (passOf (s.core c) o.pass) → (residue = 0 ∨ ∃ m ∈ passOf (s.core c) o.pass, mfrKind m.mfr = 2) →
    (dual = 0 ∨ o.dual = true) →
    ∃ t g', exec (.matrixDrain c slot n residue dual) s = .next t ∧ SameMemory s t ∧ OthersOf c slot s t ∧
      t.group? c slot = some g' ∧ { g'.bare with mfaults := [] } = { g.bare with mfaults := [] } ∧
      (∀ fr r, (∀ q, r = .a o.target q → q < 4 ∧ ∀ m ∈ passOf (s.core c) o.pass, m.quarters.getLsbD q = true →
        quarterRule m residue dual q ≠ none) → SameReg g g' fr r) ∧
      (∀ m ∈ passOf (s.core c) o.pass, ∀ e, e < 256 → m.puts e = true → quarterRule m residue dual (e / 64) = none →
        (g'.readA o.target).vals.getD e 0 = dotProduct m.mfr (m.rows.getD (e / 16) []) (bColumn m.bytes (e % 16))
          ((m.shadow.getD (g.readA o.target).vals).getD e 0)) ∧
      (∀ e, e < 256 → (∀ m ∈ passOf (s.core c) o.pass, m.puts e = true → quarterRule m residue dual (e / 64) ≠ none) →
        (g'.readA o.target).vals.getD e 0 = (g.readA o.target).vals.getD e 0) ∧
      (∀ m ∈ passOf (s.core c) o.pass, ∀ q cause, q < 4 → m.quarters.getLsbD q = true →
        quarterRule m residue dual q = some cause → ∃ f ∈ g'.mfaults, f.acc = o.target ∧ f.quarter = q ∧ f.cause = cause ∧
          f.serial = m.serial ∧
          f.tval = BitVec.ofNat 64 (m.pc.toNat / 4 % 2 ^ 54 * 2 ^ 10 + q * 2 ^ 8 + m.tileNo * 2 ^ 4 + o.target)) ∧
      (∀ f ∈ g.mfaults, f ∈ g'.mfaults) ∧
      g'.mfaults.length = g.mfaults.length + ((passOf (s.core c) o.pass).flatMap (fun m => (quarterList m.quarters).filter
        (fun q => (quarterRule m residue dual q).isSome))).length) ∧
  (∀ (s : State) (c slot n : Nat) (residue : BitVec 4) (o : MatOp) (g : Group), PassBegun s c slot n o g →
    (∀ m ∈ passOf (s.core c) o.pass, mfrKind m.mfr = 2) → (∀ q, q < 4 → residue.getLsbD q = true) →
    ∃ t g', exec (.matrixDrain c slot n residue 0) s = .next t ∧ SameMemory s t ∧ t.group? c slot = some g' ∧
      (∀ fr r, SameReg g g' fr r) ∧ g'.mfaults.length = g.mfaults.length +
        ((passOf (s.core c) o.pass).flatMap (fun m => quarterList m.quarters)).length ∧
      ∀ m ∈ passOf (s.core c) o.pass, ∀ q ∈ quarterList m.quarters, ∃ f ∈ g'.mfaults,
        f.acc = o.target ∧ f.quarter = q ∧ f.cause = 3 ∧ f.serial = m.serial) ∧
  (∀ (s : State) (c slot n : Nat) (dual : BitVec 4) (o : MatOp) (g : Group), PassBegun s c slot n o g → o.dual = true →
    dual ≠ 0 →
    ∃ t g', exec (.matrixDrain c slot n 0 dual) s = .next t ∧ SameMemory s t ∧ t.group? c slot = some g' ∧
      (∀ fr r, SameReg g g' fr r) ∧
      ∀ m ∈ passOf (s.core c) o.pass, ∀ q ∈ quarterList m.quarters, ∃ f ∈ g'.mfaults,
        f.acc = o.target ∧ f.quarter = q ∧ f.cause = 4 ∧ f.serial = m.serial) ∧
  (∀ (s : State) (c slot n : Nat) (o : MatOp) (g : Group) (place : Nat → Nat), InArray s c slot n o g → o.kind = .mmm →
    o.started = true → o.pass = o.serial → passOf (s.core c) o.pass = [o] →
    rangeTrouble s o.who Need.load o.bva.toNat 1536 = [] →
    (∀ k, k < 1536 → physOf s o.who.ctx o.who.asid (o.bva.toNat + k) Need.load = some (place k) ∧
      place k < Config.reservedBase ∧ s.poison.contains (place k / 64) = false) →
    ∃ t g', exec (.matrixDrain c slot n 0 0) s = .next t ∧ SameMemory s t ∧ OthersOf c slot s t ∧
      t.group? c slot = some g' ∧ g'.bare = g.bare ∧
      (∀ fr r, (∀ q, r = .a o.target q → q < 4 ∧ o.quarters.getLsbD q = false) → SameReg g g' fr r) ∧
      ∀ e, e < 256 → (g'.readA o.target).vals.getD e 0 = if o.puts e then
          dotProduct o.mfr (o.rows.getD (e / 16) [])
            (bColumn ((List.range 1536).map (fun k => Memory.get s.mem (place k))) (e % 16))
            ((o.shadow.getD (g.readA o.target).vals).getD e 0)
        else (g.readA o.target).vals.getD e 0) ∧
  (∀ (s : State) (c slot n : Nat) (residue dual : BitVec 4) (o : MatOp) (g : Group) (place : Nat → Nat), InArray s c slot n o g →
    o.kind = .mmm → o.started = true → o.pass = o.serial → passOf (s.core c) o.pass = [o] →
    (residue = 0 ∨ mfrKind o.mfr = 2) → (dual = 0 ∨ o.dual = true) →
    rangeTrouble s o.who Need.load o.bva.toNat 1536 = [] →
    (∀ k, k < 1536 → physOf s o.who.ctx o.who.asid (o.bva.toNat + k) Need.load = some (place k) ∧ place k < Config.reservedBase) →
    (∃ k, k < 1536 ∧ s.poison.contains (place k / 64) = true) →
    ∃ t g', exec (.matrixDrain c slot n residue dual) s = .next t ∧ SameMemory s t ∧ OthersOf c slot s t ∧
      t.group? c slot = some g' ∧ (∀ fr r, SameReg g g' fr r) ∧
      g'.mfaults.length = g.mfaults.length + (quarterList o.quarters).length ∧
      ∀ q ∈ quarterList o.quarters, ∃ f ∈ g'.mfaults, f.acc = o.target ∧ f.quarter = q ∧ f.cause = 2 ∧ f.serial = o.serial ∧
        f.tval = BitVec.ofNat 64 (o.pc.toNat / 4 % 2 ^ 54 * 2 ^ 10 + q * 2 ^ 8 + 2 ^ 7 + o.target)) ∧
  (∀ (s : State) (c slot n : Nat) (o : MatOp) (g : Group) (l : List W32), InArray s c slot n o g → o.kind = .mmm →
    o.started = true → o.pass = o.serial → rangeTrouble s o.who Need.load o.bva.toNat 1536 ≠ [] → o.shadow = some l →
    (∀ k x, (s.core c).mats[k]? = some x → x.serial = o.serial → k = n) →
    ∃ t g', exec (.matrixDrain c slot n 0 0) s = .next t ∧ SameButRing s t ∧ OthersOf c slot s t ∧
      t.group? c slot = some g' ∧ (∀ fr r, (∀ q, r = .a o.target q → q < 4 ∧ o.quarters.getLsbD q = false) → SameReg g g' fr r) ∧
      (∀ e, e < 256 → o.quarters.getLsbD (e / 64) = true → (g'.readA o.target).vals.getD e 0 = l.getD e 0) ∧
      (t.core c).mats[n]? = some { o with
        absent := true, records := (rangeTrouble s o.who Need.load o.bva.toNat 1536).length, started := false } ∧
      ∀ va ∈ rangeTrouble s o.who Need.load o.bva.toNat 1536, ∃ rec ∈ t.hub.ring ++ t.hub.recWait,
        rec.va = va ∧ rec.kind = 8 ∧ rec.op = o.serial) ∧
  (∀ (s : State) (c slot n : Nat) (o : MatOp) (g : Group), (s.core c).mats[n]? = some o → o.who.slot = slot → o.kind = .tld →
    (s.core c).owns o.who = true → s.group? c slot = some g →
    (∀ k pa, k < 1536 → physOf s o.who.ctx o.who.asid (o.bva.toNat + k) Need.load = some pa → pa < Config.reservedBase) →
    ∃ t g', exec (.tldComplete c slot n) s = .next t ∧ SameMemory s t ∧ (t.core c).mats = dropAt (s.core c).mats n ∧
      t.group? c slot = some g' ∧ Kept g g' 0 [.t o.target, .p 15] ∧
      (o.lost = 0 → (∀ k, k < 1536 → (g'.readT o.target).bytes.getD k 0 =
          ((physOf s o.who.ctx o.who.asid (o.bva.toNat + k) Need.load).map (Memory.get s.mem)).getD 0) ∧
        ∀ u, u < 24 → ((g'.readT o.target).poison.getLsbD u = true ↔ ∃ k pa, k < 64 ∧
          physOf s o.who.ctx o.who.asid (o.bva.toNat + (64 * u + k)) Need.load = some pa ∧ s.poison.contains (pa / 64) = true)) ∧
      (o.lost ≠ 0 → g'.readT o.target = g.readT o.target) ∧
      ((∀ k, k < 1536 → (physOf s o.who.ctx o.who.asid (o.bva.toNat + k) Need.load).isSome = true) →
        ∀ l, l < 32 → (g'.pval 15).getLsbD l = (o.who.mask.getLsbD l || (g.pval 15).getLsbD l)) ∧
      ((∃ k, k < 1536 ∧ physOf s o.who.ctx o.who.asid (o.bva.toNat + k) Need.load = none) →
        ∀ l, l < 32 → (g'.pval 15).getLsbD l = ((g.pval 15).getLsbD l && !(o.who.mask.getLsbD l)))) ∧
  (∀ (s : State) (c slot n : Nat) (o : MatOp), (s.core c).mats[n]? = some o → o.who.slot = slot → o.absent = true →
    o.records = 0 →
    ∃ t, exec (.mmmRerun c slot n) s = .next t ∧ SameMemory s t ∧ t.tasks = s.tasks ∧
      (t.core c).mats[n]? = some { o with absent := false } ∧ ∀ c' g, t.group? c' g = s.group? c' g)

/-- CPY below 2^36 bytes, and CPY2 of at most 2^24 rows of at most 2^24 bytes below 2^36 in all, whose ranges are allowed,
complete whenever nothing stands in their way and fewer than 64 copies are outstanding: one copy of their rows is
outstanding with its token register, its cost is debited and added to rsv, and no register and no byte of memory
changes yet. With 64 outstanding they wait and nothing changes. A longer CPY enters the handler with cause 6, and so
do a CPY2 whose bytes per row, then rows, then length are beyond their limit, with that value in tval, and either
where it may not reach its ranges, with the lowest such address. (R33, R178, R265, R266, R267, R268) -/
def Obligations.Copies : Prop :=
  (∀ (d a b : Nat) (v : View) (s : State), Ready (.cpy d a b) v s → Settled v → v.core.copies.length < 64 → v.ui d < 2 ^ 36 →
    rowsBad s v.who [⟨v.rs a, v.rs b, v.ui d⟩] = none → (∀ x ∈ v.task.tilerecs, x.closed = true) →
    ∃ t o, exec (.cpy d a b) s = .next t ∧ t.tick = s.tick + 1 ∧ SameMemory s t ∧ SameWorld s t ∧ OtherGroups v s t ∧
      t.group? v.sel.core v.sel.slot = some (v.booked s v.nextPc v.group) ∧ (t.core v.sel.core).copies = v.core.copies ++ [o] ∧
      o.who = v.who ∧ o.token = d ∧ o.frame = v.fr ∧ o.rows = [⟨v.rs a, v.rs b, v.ui d⟩] ∧ o.len = v.ui d ∧
      o.cost = 2 + ceil64 (v.ui d) ∧ o.cancelled = false ∧ o.records = 0 ∧
      t.tasks = Table.modify s.tasks v.tid (fun x =>
        let y := if v.split.paid.isSome then x else x.charge (2 + ceil64 (v.ui d))
        { y with rsv := y.rsv + (2 + ceil64 (v.ui d)) })) ∧
  (∀ (d a : Nat) (v : View) (s : State) (rows : List CopyRow), Ready (.cpy2 d a) v s → Settled v → v.core.copies.length < 64 →
    v.ui (a + 2) ≤ 2 ^ 24 → v.ui (a + 3) ≤ 2 ^ 24 → v.ui (a + 2) * v.ui (a + 3) < 2 ^ 36 →
    rows = (List.range (v.ui (a + 3))).map (fun k => ⟨v.rs a + BitVec.ofNat 64 k * v.rs (a + 4),
      v.rs (a + 1) + BitVec.ofNat 64 k * v.rs (a + 5), v.ui (a + 2)⟩) →
    rowsBad s v.who rows = none → (∀ x ∈ v.task.tilerecs, x.closed = true) →
    ∃ t o, exec (.cpy2 d a) s = .next t ∧ t.tick = s.tick + 1 ∧ SameMemory s t ∧ SameWorld s t ∧ OtherGroups v s t ∧
      t.group? v.sel.core v.sel.slot = some (v.booked s v.nextPc v.group) ∧ (t.core v.sel.core).copies = v.core.copies ++ [o] ∧
      o.who = v.who ∧ o.token = d ∧ o.frame = v.fr ∧ o.rows = rows ∧ o.len = v.ui (a + 2) * v.ui (a + 3) ∧
      o.cost = 2 + ceil64 (v.ui (a + 2) * v.ui (a + 3)) ∧ o.cancelled = false ∧ o.records = 0 ∧
      t.tasks = Table.modify s.tasks v.tid (fun x =>
        let y := if v.split.paid.isSome then x else x.charge (2 + ceil64 (v.ui (a + 2) * v.ui (a + 3)))
        { y with rsv := y.rsv + (2 + ceil64 (v.ui (a + 2) * v.ui (a + 3))) })) ∧
  (∀ (i : Instr) (v : View) (s : State), ((∃ d a b, i = .cpy d a b) ∨ (∃ d a, i = .cpy2 d a)) → Ready i v s →
    64 ≤ v.core.copies.length →
    ∃ t, exec i s = .next t ∧ t.tick = s.tick + 1 ∧ SameMemory s t ∧ SameWorld s t ∧ t.tasks = s.tasks ∧
      ∀ c g, t.group? c g = s.group? c g) ∧
  (∀ (d a b : Nat) (v : View) (s : State), Ready (.cpy d a b) v s → HasHandler v → v.core.copies.length < 64 → 2 ^ 36 ≤ v.ui d →
    ∃ t, exec (.cpy d a b) s = .next t ∧ EntersHandler v s t 6 v.split.pc (v.rs d) ∧ Refunded v s t) ∧
  (∀ (d a b at' : Nat) (v : View) (s : State), Ready (.cpy d a b) v s → HasHandler v → v.core.copies.length < 64 →
    v.ui d < 2 ^ 36 → rowsBad s v.who [⟨v.rs a, v.rs b, v.ui d⟩] = some at' →
    ∃ t, exec (.cpy d a b) s = .next t ∧ EntersHandler v s t 6 v.split.pc (BitVec.ofNat 64 at') ∧ Refunded v s t) ∧
  (∀ (d a : Nat) (v : View) (s : State), Ready (.cpy2 d a) v s → HasHandler v → v.core.copies.length < 64 →
    (2 ^ 24 < v.ui (a + 2) →
      ∃ t, exec (.cpy2 d a) s = .next t ∧ EntersHandler v s t 6 v.split.pc (v.rs (a + 2)) ∧ Refunded v s t) ∧
    (v.ui (a + 2) ≤ 2 ^ 24 → 2 ^ 24 < v.ui (a + 3) →
      ∃ t, exec (.cpy2 d a) s = .next t ∧ EntersHandler v s t 6 v.split.pc (v.rs (a + 3)) ∧ Refunded v s t) ∧
    (v.ui (a + 2) ≤ 2 ^ 24 → v.ui (a + 3) ≤ 2 ^ 24 → 2 ^ 36 ≤ v.ui (a + 2) * v.ui (a + 3) →
      ∃ t, exec (.cpy2 d a) s = .next t ∧
        EntersHandler v s t 6 v.split.pc (BitVec.ofNat 64 (v.ui (a + 2) * v.ui (a + 3))) ∧ Refunded v s t) ∧
    (∀ at', v.ui (a + 2) ≤ 2 ^ 24 → v.ui (a + 3) ≤ 2 ^ 24 → v.ui (a + 2) * v.ui (a + 3) < 2 ^ 36 →
      rowsBad s v.who ((List.range (v.ui (a + 3))).map (fun k => ⟨v.rs a + BitVec.ofNat 64 k * v.rs (a + 4),
        v.rs (a + 1) + BitVec.ofNat 64 k * v.rs (a + 5), v.ui (a + 2)⟩)) = some at' →
      ∃ t, exec (.cpy2 d a) s = .next t ∧ EntersHandler v s t 6 v.split.pc (BitVec.ofNat 64 at') ∧ Refunded v s t))

/-- A copy of one row between resident ranges of plain memory, whose destination bytes are distinct, completes: each
destination byte takes the value its source byte had before the copy, every other byte reads as before, a unit that
clean bytes cover whole is clean, the token scalar becomes 0 and rsv falls by its cost. A cancelled copy leaves the
engine, its cost leaves rsv, and the root of its unwinding collects the units of what it did not write, which are the
model's free choice (log entry 10). (R269 leaves the moment of each byte open; that a copy reads and writes all of
them at one moment, its completion, is the model's choice, log entries 47 and 73, DESIGN CHOICE.) (R186, R266, R268,
R269, R270, R271, R301) -/
def Obligations.CopyEnds : Prop :=
  (∀ (s : State) (c n d sr len : Nat) (o : CopyOp) (g : Group) (x : Task) (pd ps : Nat → Nat), (s.core c).copies[n]? = some o →
    o.cancelled = false → o.records = 0 → o.imaged = false → o.rows = [⟨BitVec.ofNat 64 d, BitVec.ofNat 64 sr, len⟩] →
    d + len ≤ 2 ^ 56 → sr + len ≤ Config.mereAlias → copyTrouble s o.who o.rows = [] → (s.core c).owns o.who = true →
    s.group? c o.who.slot = some g → (o.token < 32 ∨ (s.core c).sgenOf o.frame = o.gen) →
    Table.get? s.tasks o.who.task = some x →
    (∀ k, k < len → physOf s o.who.ctx o.who.asid (d + k) Need.store = some (pd k) ∧ pd k < Config.mereBase ∧
      blockFixed s (pd k) = false ∧
      physOf s o.who.ctx o.who.asid (sr + k) Need.load = some (ps k) ∧ ps k < Config.reservedBase) →
    (∀ j k, j < len → k < len → pd j = pd k → j = k) →
    ∃ t g' x', exec (.copyComplete c n) s = .next t ∧ t.tick = s.tick ∧ (t.core c).copies = dropAt (s.core c).copies n ∧
      (∀ k, k < len → Memory.get t.mem (pd k) = Memory.get s.mem (ps k)) ∧
      (∀ a, (∀ k, k < len → pd k ≠ a) → Memory.get t.mem a = Memory.get s.mem a) ∧
      ((∀ k, k < len → s.poison.contains (ps k / 64) = false) →
        ∀ u, u ∈ t.poison ↔ u ∈ s.poison ∧ ¬∀ k, k < 64 → ∃ j, j < len ∧ pd j = 64 * u + k) ∧
      t.group? c o.who.slot = some g' ∧ Kept g g' o.frame [.s o.token] ∧ g'.readS o.frame o.token = SReg.zero ∧
      Table.get? t.tasks o.who.task = some x' ∧ x'.rsv = x.rsv - o.cost ∧ x'.alw = x.alw) ∧
  (∀ (s : State) (c n r : Nat) (o : CopyOp) (x y : Task), (s.core c).copies[n]? = some o → o.cancelled = true →
    Table.get? s.tasks o.who.task = some x → x.unwinder = some r → r ≠ o.who.task → Table.get? s.tasks r = some y →
    ∃ t x' y' back, exec (.copyCancelReport c n) s = .next t ∧ t.tick = s.tick ∧ (t.core c).copies = dropAt (s.core c).copies n ∧
      Table.get? t.tasks o.who.task = some x' ∧ x'.rsv = x.rsv - o.cost ∧ Table.get? t.tasks r = some y' ∧
      y'.sum = y.sum + back ∧ back ≤ ceil64 o.len)

/-- On a channel of the crew whose producer stage is the group's, with an empty slot and no split parked on it, PUSH fills
the next slot with its whole register and its poison; on one whose consumer stage is the group's with a full slot, POP
takes the oldest into the active lanes of its register, each with its poison, and empties the slot. No other register
changes. With no empty slot PUSH parks, and with no full one POP, after those that already wait. A PUSH on a channel
where a POP waits hands it the slot, and a POP on a full one where a PUSH waits lets it fill the slot: the waiting
split has its register, or its slot, and goes on. From another stage, or with no such channel, both enter the handler
with cause 12. (R137, R138, R139, R141, R272) -/
def Obligations.Channels : Prop :=
  (∀ (a ch : Nat) (v : View) (s : State), Ready (.push a ch) v s → (chanOf v.task ch).depth ≠ 0 →
    v.group.stg = (chanOf v.task ch).prod → (chanOf v.task ch).full.length < (chanOf v.task ch).depth →
    (chanOf v.task ch).poppers = [] → (chanOf v.task ch).pushers = [] →
    ∃ t x, exec (.push a ch) s = .next t ∧ t.tick = s.tick + 1 ∧ SameMemory s t ∧ SameWorld s t ∧ OtherGroups v s t ∧
      t.group? v.sel.core v.sel.slot = some (v.booked s v.nextPc v.group) ∧ Table.get? t.tasks v.tid = some x ∧
      (chanOf x ch).full = (chanOf v.task ch).full ++ [v.group.readV v.fr a] ∧ (∀ k, k ≠ ch → chanOf x k = chanOf v.task k)) ∧
  (∀ (d ch : Nat) (r : VReg) (rest : List VReg) (v : View) (s : State), Ready (.pop d ch) v s → (chanOf v.task ch).depth ≠ 0 →
    v.group.stg = (chanOf v.task ch).cons → (chanOf v.task ch).full = r :: rest →
    (chanOf v.task ch).poppers = [] → (chanOf v.task ch).pushers = [] →
    ∃ t x g, exec (.pop d ch) s = .next t ∧ t.tick = s.tick + 1 ∧ SameMemory s t ∧ SameWorld s t ∧ OtherGroups v s t ∧
      t.group? v.sel.core v.sel.slot = some (v.booked s v.nextPc g) ∧ Kept v.group g v.fr [.v d] ∧ g.sat = v.group.sat ∧
      (∀ k, k < 32 → (v.m.getLsbD k = true → laneAt (g.lanes v.fr d) k = laneAt r.lanes k ∧
          (g.readV v.fr d).poison.getLsbD k = r.poison.getLsbD k) ∧
        (v.m.getLsbD k = false → laneAt (g.lanes v.fr d) k = v.lane d k)) ∧
      Table.get? t.tasks v.tid = some x ∧ (chanOf x ch).full = rest) ∧
  (∀ (a ch : Nat) (v : View) (s : State), Ready (.push a ch) v s → (chanOf v.task ch).depth ≠ 0 →
    v.group.stg = (chanOf v.task ch).prod → (chanOf v.task ch).depth ≤ (chanOf v.task ch).full.length →
    ∃ t x g sp, exec (.push a ch) s = .next t ∧ SameMemory s t ∧ t.group? v.sel.core v.sel.slot = some g ∧
      (∀ fr r, SameReg v.group g fr r) ∧ g.splits[v.sel.idx]? = some sp ∧ sp.state = .parked ∧ sp.pc = v.split.pc ∧
      Table.get? t.tasks v.tid = some x ∧
      (chanOf x ch).pushers = (chanOf v.task ch).pushers ++ [(v.sel.slot, lowLane v.m)] ∧ (chanOf x ch).full = (chanOf v.task ch).full) ∧
  (∀ (d ch : Nat) (v : View) (s : State), Ready (.pop d ch) v s → (chanOf v.task ch).depth ≠ 0 →
    v.group.stg = (chanOf v.task ch).cons → (chanOf v.task ch).full = [] →
    ∃ t x g sp, exec (.pop d ch) s = .next t ∧ SameMemory s t ∧ t.group? v.sel.core v.sel.slot = some g ∧
      (∀ fr r, SameReg v.group g fr r) ∧ g.splits[v.sel.idx]? = some sp ∧ sp.state = .parked ∧ sp.pc = v.split.pc ∧
      Table.get? t.tasks v.tid = some x ∧
      (chanOf x ch).poppers = (chanOf v.task ch).poppers ++ [(v.sel.slot, lowLane v.m)]) ∧
  (∀ (a ch slot lane d : Nat) (rest : List (Nat × Nat)) (h : Group) (sp : Split) (v : View) (s : State), Ready (.push a ch) v s →
    (chanOf v.task ch).depth ≠ 0 → v.group.stg = (chanOf v.task ch).prod → (chanOf v.task ch).full = [] →
    (chanOf v.task ch).pushers = [] → (chanOf v.task ch).poppers = (slot, lane) :: rest →
    s.group? v.sel.core slot = some h → h.atLane lane = some sp → sp.wait = .pop ch d →
    (slot = v.sel.slot → lane ≠ lowLane v.m) →
    ∃ t x h1, exec (.push a ch) s = .next t ∧ t.tick = s.tick + 1 ∧ SameMemory s t ∧ SameWorld s t ∧
      Kept h h1 sp.frame [.v d] ∧ h1.sat = h.sat ∧
      (∀ k, k < 32 → (sp.mask.getLsbD k = true → laneAt (h1.lanes sp.frame d) k = v.lane a k ∧
          (h1.readV sp.frame d).poison.getLsbD k = (v.group.readV v.fr a).poison.getLsbD k) ∧
        (sp.mask.getLsbD k = false → laneAt (h1.lanes sp.frame d) k = laneAt (h.lanes sp.frame d) k)) ∧
      (slot ≠ v.sel.slot → t.group? v.sel.core slot = some (h1.resume lane) ∧
        t.group? v.sel.core v.sel.slot = some (v.booked s v.nextPc v.group)) ∧
      (slot = v.sel.slot → t.group? v.sel.core v.sel.slot = some (v.booked s v.nextPc (h1.resume lane))) ∧
      (∀ c n, ¬(c = v.sel.core ∧ (n = v.sel.slot ∨ n = slot)) → t.group? c n = s.group? c n) ∧
      Table.get? t.tasks v.tid = some x ∧ (chanOf x ch).full = [] ∧ (chanOf x ch).poppers = rest ∧
      (chanOf x ch).pushers = []) ∧
  (∀ (d ch slot lane : Nat) (r q : VReg) (full : List VReg) (rest : List (Nat × Nat)) (h : Group) (sp : Split) (v : View)
    (s : State), Ready (.pop d ch) v s → (chanOf v.task ch).depth ≠ 0 → v.group.stg = (chanOf v.task ch).cons →
    (chanOf v.task ch).full = r :: full → (chanOf v.task ch).full.length = (chanOf v.task ch).depth →
    (chanOf v.task ch).poppers = [] → (chanOf v.task ch).pushers = (slot, lane) :: rest →
    s.group? v.sel.core slot = some h → h.atLane lane = some sp → sp.wait = .push ch q →
    (slot = v.sel.slot → lane ≠ lowLane v.m) →
    ∃ t x g, exec (.pop d ch) s = .next t ∧ t.tick = s.tick + 1 ∧ SameMemory s t ∧ SameWorld s t ∧
      Kept v.group g v.fr [.v d] ∧ g.sat = v.group.sat ∧
      (∀ k, k < 32 → (v.m.getLsbD k = true → laneAt (g.lanes v.fr d) k = laneAt r.lanes k ∧
          (g.readV v.fr d).poison.getLsbD k = r.poison.getLsbD k) ∧
        (v.m.getLsbD k = false → laneAt (g.lanes v.fr d) k = v.lane d k)) ∧
      (slot ≠ v.sel.slot → t.group? v.sel.core slot = some (h.resume lane) ∧
        t.group? v.sel.core v.sel.slot = some (v.booked s v.nextPc g)) ∧
      (slot = v.sel.slot → t.group? v.sel.core v.sel.slot = some (v.booked s v.nextPc (g.resume lane))) ∧
      (∀ c n, ¬(c = v.sel.core ∧ (n = v.sel.slot ∨ n = slot)) → t.group? c n = s.group? c n) ∧
      Table.get? t.tasks v.tid = some x ∧ (chanOf x ch).full = full ++ [q] ∧ (chanOf x ch).pushers = rest ∧
      (chanOf x ch).poppers = []) ∧
  (∀ (i : Instr) (ch : Nat) (v : View) (s : State), Ready i v s → HasHandler v →
    ((∃ a, i = .push a ch) ∧ ((chanOf v.task ch).depth = 0 ∨ v.group.stg ≠ (chanOf v.task ch).prod) ∨
     (∃ d, i = .pop d ch) ∧ ((chanOf v.task ch).depth = 0 ∨ v.group.stg ≠ (chanOf v.task ch).cons)) →
    ∃ t, exec i s = .next t ∧ EntersHandler v s t 12 v.split.pc (BitVec.ofNat 64 ch))

/-- ENQ on an aligned, allowed, resident queue whose tail word is full and whose slot is empty, with nobody in the Tarn
and no store of the core outstanding, writes its 64 bytes to the slot, leaves it full, adds 1 to the tail, writes OK
to its scalar and goes on. With the tail word empty its split waits in the Tarn, or, with the Tarn full, takes BUSY
and is presented again after 512 cycles. With its slot full the tail word is as before, full with its value, and the
split waits on the slot word to its deadline of 4,096 cycles, or is presented again after 512. With a page that it
needs absent it performs no part of itself and parks on one record of kind 2 for each such page. An ENQ that has
waited to its deadline leaves the Tarn with FULL in its scalar and goes on. With its tail word poisoned it takes the
word and stands at its instruction again with the poisoned return to deliver. A misaligned block or image enters the
handler with cause 7; an image that may not be read, and a block or a ring that ENQ may not use, with cause 6. All
this is as the split's own stores leave the block. (What ENQ needs of its pages, and that stores outstanding are
performed first, are the model's: DEDUCED, log entry 24, and DESIGN CHOICE, log entry 15; that a ring base that is not
aligned, or a slot count beyond its limits, raises cause 6 with the base, and that the ring needs R, W and M, is a
DESIGN CHOICE, log entry 59.) (R15, R211, R212, R213, R225, R226, R227, R235, R273) -/
def Obligations.Enqueue : Prop :=
  (∀ (d a b sw tail : Nat) (r : RingView) (v : View) (s : State), Ready (.enq d a b) v s → Settled v → s.tarn = [] →
    v.group.atLane (lowLane v.m) = some v.split → (v.group.handler = true → v.split.inHandler = true) →
    enqTrap s v.who (v.rs a) (v.rs b) = none → enqAbsent s v.who (v.rs a) (v.rs b) = [] →
    ringOf s v.task.ctx v.task.asid (v.ui a) = some r → isFull s r.tail = true → r.tail + 8 ≤ Config.mereBase →
    Clean s r.tail 8 → tail = wordAt s.mem r.tail 8 → physOf s v.task.ctx v.task.asid (r.base + 64 * (tail % r.slots)) Need.fill = some sw →
    isFull s sw = false → sw + 64 ≤ Config.mereBase → Open s sw 64 → Open s r.tail 8 → (r.tail + 8 ≤ sw ∨ sw + 64 ≤ r.tail) →
    ∃ t g sp, exec (.enq d a b) s = .next t ∧ t.tick = s.tick + 1 ∧ Debited v s t 2 ∧ OtherGroups v s t ∧
      t.group? v.sel.core v.sel.slot = some g ∧
      (∀ fr r, ¬(r = .s d ∧ (r.frameLocal = true → fr = v.fr)) → SameReg v.group g fr r) ∧
      g.readS v.fr d = SReg.zero ∧ g.splits[v.sel.idx]? = some sp ∧ sp.pc = v.nextPc ∧ sp.state = .ready ∧
      (∀ k, k < 64 → Memory.get t.mem (sw + k) = ((bytes64 s v.task.ctx v.task.asid v.reader (v.ui b)).map Prod.fst).getD k 0) ∧
      wordAt t.mem r.tail 8 = (tail + 1) % 2 ^ 64 ∧ t.full = Table.insertNat s.full (sw / 8)) ∧
  (∀ (d a b : Nat) (r : RingView) (v : View) (s : State), Ready (.enq d a b) v s → Settled v → s.tarn = [] →
    v.group.atLane (lowLane v.m) = some v.split → (v.group.handler = true → v.split.inHandler = true) →
    enqTrap s v.who (v.rs a) (v.rs b) = none → enqAbsent s v.who (v.rs a) (v.rs b) = [] →
    ringOf s v.task.ctx v.task.asid (v.ui a) = some r → isFull s r.tail = true → r.tail + 8 ≤ Config.mereBase →
    ¬Clean s r.tail 8 →
    ∃ t g sp op, exec (.enq d a b) s = .next t ∧ t.tick = s.tick + 1 ∧ Debited v s t 2 ∧ OtherGroups v s t ∧ t.mem = s.mem ∧
      t.full = Table.removeNat s.full (r.tail / 8) ∧ t.group? v.sel.core v.sel.slot = some g ∧
      (∀ fr q, SameReg v.group g fr q) ∧ g.splits[v.sel.idx]? = some sp ∧ sp.pc = v.split.pc ∧ sp.state = .ready ∧
      sp.paid = some 2 ∧ (t.core v.sel.core).loads = v.core.loads ++ [op] ∧ op.who = v.who ∧ op.arrived = true ∧
      op.poison = some (v.rs a + 16)) ∧
  (∀ (d a b base size : Nat) (v : View) (s s0 : State), Ready (.enq d a b) v s → HasHandler v → s0 = s.drainStores v.sel.core →
    base = dwordAt s0 v.task.ctx v.task.asid (v.ui a) % 2 ^ 56 → size = dwordAt s0 v.task.ctx v.task.asid (v.ui a + 8) % 32 →
    (v.ui a % 64 ≠ 0 → ∃ t, exec (.enq d a b) s = .next t ∧ EntersHandler v s t 7 v.split.pc (v.rs a) ∧ Refunded v s t) ∧
    (v.ui a % 64 = 0 → v.ui b % 64 ≠ 0 →
      ∃ t, exec (.enq d a b) s = .next t ∧ EntersHandler v s t 7 v.split.pc (v.rs b) ∧ Refunded v s t) ∧
    (v.ui a % 64 = 0 → v.ui b % 64 = 0 → rangeBad s0 v.task.ctx v.task.asid v.tid Need.load (v.ui b) 64 ≠ none →
      ∃ t, exec (.enq d a b) s = .next t ∧ EntersHandler v s t 6 v.split.pc (v.rs b) ∧ Refunded v s t) ∧
    (v.ui a % 64 = 0 → v.ui b % 64 = 0 → rangeBad s0 v.task.ctx v.task.asid v.tid Need.load (v.ui b) 64 = none →
      (rangeBad s0 v.task.ctx v.task.asid v.tid enqNeed (v.ui a) 64 ≠ none →
        ∃ t, exec (.enq d a b) s = .next t ∧ EntersHandler v s t 6 v.split.pc (v.rs a) ∧ Refunded v s t) ∧
      (rangeBad s0 v.task.ctx v.task.asid v.tid enqNeed (v.ui a) 64 = none →
        (∀ k, k < 16 → ∃ pa, physOf s0 v.task.ctx v.task.asid (v.ui a + k) Need.load = some pa ∧ pa < Config.mereBase) →
        rangeAbsent s0 v.task.ctx v.task.asid enqNeed 2 (v.ui a) (v.ui a + 64) = [] →
        (base % 64 ≠ 0 ∨ size = 0 ∨ 16 < size →
          ∃ t, exec (.enq d a b) s = .next t ∧ EntersHandler v s t 6 v.split.pc (BitVec.ofNat 64 base) ∧ Refunded v s t) ∧
        (base % 64 = 0 → 0 < size → size ≤ 16 → ∀ at',
          rangeBad s0 v.task.ctx v.task.asid v.tid enqNeed base (64 * 2 ^ size) = some at' →
          ∃ t, exec (.enq d a b) s = .next t ∧ EntersHandler v s t 6 v.split.pc (BitVec.ofNat 64 at') ∧ Refunded v s t)))) ∧
  (∀ (d a b sw tail : Nat) (r : RingView) (v : View) (s : State), Ready (.enq d a b) v s → Settled v →
    (∀ e ∈ s.tarn, e.pa ≠ r.tail) → v.group.atLane (lowLane v.m) = some v.split →
    enqTrap s v.who (v.rs a) (v.rs b) = none → enqAbsent s v.who (v.rs a) (v.rs b) = [] →
    ringOf s v.task.ctx v.task.asid (v.ui a) = some r → isFull s r.tail = true → r.tail + 8 ≤ Config.mereBase →
    Clean s r.tail 8 → tail = wordAt s.mem r.tail 8 →
    physOf s v.task.ctx v.task.asid (r.base + 64 * (tail % r.slots)) Need.fill = some sw → isFull s sw = true → sw ≠ r.tail →
    ∃ t g sp, exec (.enq d a b) s = .next t ∧ t.tick = s.tick + 1 ∧ Debited v s t 2 ∧ OtherGroups v s t ∧ SameMemory s t ∧
      t.group? v.sel.core v.sel.slot = some g ∧ (∀ fr q, SameReg v.group g fr q) ∧ g.splits[v.sel.idx]? = some sp ∧
      sp.state = .parked ∧ sp.pc = v.split.pc ∧
      (tarnRoom s sw = true → t.tarn = s.tarn ++ [⟨sw, .split v.sel.core v.sel.slot (lowLane v.m)⟩] ∧
        sp.wait = .enq d (v.rs a) (v.rs b) (s.cyc v.sel.core + 4096) false) ∧
      (tarnRoom s sw = false → t.tarn = s.tarn ∧ ∃ acc, sp.wait = .busy acc (s.cyc v.sel.core + 512))) ∧
  (∀ (d a b : Nat) (r : RingView) (v : View) (s : State), Ready (.enq d a b) v s → Settled v →
    enqTrap s v.who (v.rs a) (v.rs b) = none → enqAbsent s v.who (v.rs a) (v.rs b) = [] →
    ringOf s v.task.ctx v.task.asid (v.ui a) = some r → isFull s r.tail = false →
    ∃ t g sp, exec (.enq d a b) s = .next t ∧ Debited v s t 2 ∧ SameMemory s t ∧ t.group? v.sel.core v.sel.slot = some g ∧
      (∀ fr q, SameReg v.group g fr q) ∧ g.splits[v.sel.idx]? = some sp ∧ sp.state = .parked ∧ sp.pc = v.split.pc ∧
      (tarnRoom s r.tail = true → t.tarn = s.tarn ++ [⟨r.tail, .split v.sel.core v.sel.slot (lowLane v.m)⟩]) ∧
      (tarnRoom s r.tail = false → t.tarn = s.tarn ∧ ∃ acc, sp.wait = .busy acc (s.cyc v.sel.core + 512))) ∧
  (∀ (d a b : Nat) (v : View) (s s0 : State), Ready (.enq d a b) v s → s0 = s.drainStores v.sel.core →
    enqTrap s0 v.who (v.rs a) (v.rs b) = none → enqAbsent s0 v.who (v.rs a) (v.rs b) ≠ [] →
    ∃ t g sp acc, exec (.enq d a b) s = .next t ∧ Debited v s t 2 ∧ SameButRing s t ∧ t.tarn = s.tarn ∧
      t.group? v.sel.core v.sel.slot = some g ∧ (∀ fr q, SameReg v.group g fr q) ∧ g.splits[v.sel.idx]? = some sp ∧
      sp.state = .parked ∧ sp.pc = v.split.pc ∧ sp.wait = .faults (enqAbsent s0 v.who (v.rs a) (v.rs b)).length acc ∧
      ∀ va ∈ enqAbsent s0 v.who (v.rs a) (v.rs b), ∃ rec ∈ t.hub.ring ++ t.hub.recWait, rec.va = va ∧ rec.kind = 2) ∧
  (∀ (s : State) (c slot n d deadline : Nat) (block image : W64) (onTail : Bool) (g : Group) (sp : Split), s.group? c slot = some g →
    g.entries[n]? = some sp → sp.wait = .enq d block image deadline onTail → deadline ≤ s.cyc c →
    g.atLane (lowLane sp.mask) = some sp → s.savingAt c slot = false →
    ∃ t g', exec (.enqDeadline c slot n) s = .next t ∧ t.tick = s.tick ∧ (g.out = false → SameMemory s t) ∧
      t.tasks = s.tasks ∧
      t.group? c slot = some g' ∧ (∀ fr r, ¬(r = .s d ∧ (r.frameLocal = true → fr = sp.frame)) → SameReg g g' fr r) ∧
      g'.readS sp.frame d = (if d = 0 then SReg.zero else ⟨2, false⟩) ∧
      (∀ e ∈ t.tarn, e.user ≠ .split c slot (lowLane sp.mask)) ∧
      ∃ sp' ∈ g'.entries, sp'.pc = sp.pc + 4 ∧ sp'.mask = sp.mask ∧ sp'.wait = .none)

/-- SPAWN of a good template that lies in allowed, resident memory, below the nesting limit and with a slot free,
completes whenever nothing stands in its way and no store of the core is outstanding: the slot holds a task of the
template with the units asked for, READY when it depends on nothing and ARMED otherwise, its parent has one child
more, the scalar takes the handle, the slot holds the child's TCB and the parent's TCB its kids, and memory outside
these two is as before. Past the nesting limit the scalar takes DEPTH (3), with no slot FULL (2), and all but 8 units
come back. A bad template enters the handler with cause 6, a good one with poison with cause 2, both with its address
in tval. A template on pages that are not resident parks the split, debited, with a record of kind 9 for each. Which
free slot is taken is the model's free choice (log entry 8); where the pool's slots lie is a DESIGN CHOICE (log entry
7), that the parent's TCB is written with its new count is DEDUCED (log entry 27), and that the fields of a template
are checked before its poison is a DESIGN CHOICE (log entry 56). (R15, R33, R166, R167, R168, R170, R171, R178, R213,
R247, R281) -/
def Obligations.Spawning : Prop :=
  (∀ (d a b slot amt : Nat) (tm : List Byte) (cx : Ctx) (v : View) (s : State), Ready (.spawn d a b) v s → Settled v →
    v.task.alw ≤ Config.unmetered → rangeBad s v.task.ctx v.task.asid v.tid Need.load (v.ui a) 256 = none →
    rangeAbsent s v.task.ctx v.task.asid Need.load 6 (v.ui a) (v.ui a + 256) = [] →
    tm = (templateBytes s v.who v.reader (v.ui a)).map Prod.fst → templateGood tm = true →
    (templateBytes s v.who v.reader (v.ui a)).any Prod.snd = false →
    amt = (if v.split.paid = none then v.ui b else (spawnAmount v b).toNat) → Table.get? s.hub.ctxs v.task.ctx = some cx →
    v.task.depth + 1 ≤ cx.lmax → s.poolSlot v.task.ctx = some slot → Table.get? s.tasks slot = none →
    Config.poolBase ≤ slot →
    ∃ t g child me, exec (.spawn d a b) s = .next t ∧ t.tick = s.tick + 1 ∧ OtherGroups v s t ∧
      t.group? v.sel.core v.sel.slot = some (v.booked s v.nextPc g) ∧ Kept v.group g v.fr [.s d] ∧ g.sat = v.group.sat ∧
      g.readS v.fr d = (if d = 0 then SReg.zero else ⟨BitVec.ofNat 64 (slot + (Table.getD s.incs slot 0).toNat), false⟩) ∧
      Table.get? t.tasks slot = some child ∧ child.va = slot ∧ child.isRoot = false ∧ child.ctx = v.task.ctx ∧
      child.asid = v.task.asid ∧ child.parent = some v.tid ∧ child.depth = v.task.depth + 1 ∧ child.kids = 0 ∧
      child.alw = (if v.task.alw = Config.unmetered ∧ amt = Config.unmetered then Config.unmetered
        else min amt Config.maxMetered) ∧ child.pnnt = v.who.pennants.headD 0 ∧
      child.entry.toNat = leNat ((tm.drop 16).take 8) % 2 ^ 56 ∧ child.dep = leNat ((tm.drop 12).take 4) ∧
      child.state = (if child.dep = 0 then .ready else .armed) ∧
      Table.get? t.tasks v.tid = some me ∧ me.kids = v.task.kids + 1 ∧
      ((∀ pa, tcbPhys s v.task = some pa → pa + 256 ≤ Config.reservedBase + (slot - Config.poolBase) ∨
          Config.reservedBase + (slot - Config.poolBase) + 256 ≤ pa) →
        wordAt t.mem (Config.reservedBase + (slot - Config.poolBase)) 4 % 16 = child.state.code) ∧
      (v.task.seq < 2 ^ 16 → ∀ pa, tcbPhys s v.task = some pa → wordAt t.mem (pa + 0x3C) 2 = me.kids % 2 ^ 16) ∧
      ∀ a, ¬Within a (Config.reservedBase + (slot - Config.poolBase)) 256 →
        (∀ pa, tcbPhys s v.task = some pa → ¬Within a pa 128) → Memory.get t.mem a = Memory.get s.mem a) ∧
  (∀ (d a b : Nat) (cx : Ctx) (v : View) (s : State), Ready (.spawn d a b) v s → Settled v → v.split.paid = none →
    v.task.alw < Config.unmetered →
    rangeBad s v.task.ctx v.task.asid v.tid Need.load (v.ui a) 256 = none →
    rangeAbsent s v.task.ctx v.task.asid Need.load 6 (v.ui a) (v.ui a + 256) = [] →
    templateGood ((templateBytes s v.who v.reader (v.ui a)).map Prod.fst) = true →
    (templateBytes s v.who v.reader (v.ui a)).any Prod.snd = false → Table.get? s.hub.ctxs v.task.ctx = some cx →
    (cx.lmax < v.task.depth + 1 ∨ s.poolSlot v.task.ctx = none) →
    ∃ t g me, exec (.spawn d a b) s = .next t ∧ SameMemory s t ∧ t.group? v.sel.core v.sel.slot = some (v.booked s v.nextPc g) ∧
      Kept v.group g v.fr [.s d] ∧
      g.readS v.fr d = (if d = 0 then SReg.zero else ⟨if cx.lmax < v.task.depth + 1 then 3 else 2, false⟩) ∧
      Table.get? t.tasks v.tid = some me ∧ me.alw = v.task.alw - 8 ∧ me.kids = v.task.kids) ∧
  (∀ (d a b : Nat) (v : View) (s : State), Ready (.spawn d a b) v s → Settled v → HasHandler v →
    (rangeBad s v.task.ctx v.task.asid v.tid Need.load (v.ui a) 256).isSome = true ∨
      rangeAbsent s v.task.ctx v.task.asid Need.load 6 (v.ui a) (v.ui a + 256) = [] ∧
      templateGood ((templateBytes s v.who v.reader (v.ui a)).map Prod.fst) = false →
    ∃ t, exec (.spawn d a b) s = .next t ∧ EntersHandler v s t 6 v.split.pc (v.rs a) ∧ Refunded v s t) ∧
  (∀ (d a b : Nat) (v : View) (s : State), Ready (.spawn d a b) v s → Settled v → HasHandler v →
    rangeBad s v.task.ctx v.task.asid v.tid Need.load (v.ui a) 256 = none →
    rangeAbsent s v.task.ctx v.task.asid Need.load 6 (v.ui a) (v.ui a + 256) = [] →
    templateGood ((templateBytes s v.who v.reader (v.ui a)).map Prod.fst) = true →
    (templateBytes s v.who v.reader (v.ui a)).any Prod.snd = true →
    ∃ t, exec (.spawn d a b) s = .next t ∧ EntersHandler v s t 2 v.split.pc (v.rs a) ∧ Refunded v s t) ∧
  (∀ (d a b : Nat) (v : View) (s : State), Ready (.spawn d a b) v s → Settled v →
    rangeBad s v.task.ctx v.task.asid v.tid Need.load (v.ui a) 256 = none →
    rangeAbsent s v.task.ctx v.task.asid Need.load 6 (v.ui a) (v.ui a + 256) ≠ [] →
    ∃ t g sp acc vas, exec (.spawn d a b) s = .next t ∧ SameButRing s t ∧ OtherGroups v s t ∧
      Debited v s t (costOf v (.spawn d a b)) ∧
      vas = lowestPerPage s v.task.asid (rangeAbsent s v.task.ctx v.task.asid Need.load 6 (v.ui a) (v.ui a + 256)) ∧
      t.group? v.sel.core v.sel.slot = some g ∧ (∀ fr r, SameReg v.group g fr r) ∧ g.splits[v.sel.idx]? = some sp ∧
      sp.state = .parked ∧ sp.pc = v.split.pc ∧ sp.wait = .faults vas.length acc ∧
      ∀ va ∈ vas, ∃ rec ∈ t.hub.ring ++ t.hub.recWait, rec.va = va ∧ rec.kind = 9)

/-- JOIN with no child left writes jstat to its scalar, adds pend to the allowance and clears both; with children left its
split parks. JOIN_COMPLETE does the same for a parked JOIN once no child is left, the first in order of arrival, side
and lane among those of its crew, and its split goes on. No byte of memory outside the task's TCB changes (for a
JOIN_COMPLETE of a group whose frames are in the core), and no other group. (That it does so for a task that has
become STARVED since is a DESIGN CHOICE, log entry 56.) (R172, R185, R187, R189) -/
def Obligations.Joins : Prop :=
  (∀ (d : Nat) (v : View) (s : State), Ready (.join d) v s → v.task.kids = 0 → v.task.alw < Config.unmetered →
    v.task.alw + v.task.pend ≤ Config.maxMetered →
    ∃ t g me, exec (.join d) s = .next t ∧ t.tick = s.tick + 1 ∧ OtherGroups v s t ∧
      t.group? v.sel.core v.sel.slot = some (v.booked s v.nextPc g) ∧ Kept v.group g v.fr [.s d] ∧ g.sat = v.group.sat ∧
      g.readS v.fr d = (if d = 0 then SReg.zero else ⟨BitVec.ofNat 64 v.task.jstat, false⟩) ∧
      Table.get? t.tasks v.tid = some me ∧ me.pend = 0 ∧ me.jstat = 0 ∧ me.kids = 0 ∧
      me.alw = v.task.alw + v.task.pend - (if v.split.paid.isSome then 0 else 2) ∧
      ∀ a, (∀ pa, tcbPhys s v.task = some pa → ¬Within a pa 128) → Memory.get t.mem a = Memory.get s.mem a) ∧
  (∀ (d : Nat) (v : View) (s : State), Ready (.join d) v s → v.task.kids ≠ 0 →
    ∃ t g sp, exec (.join d) s = .next t ∧ SameMemory s t ∧ Debited v s t 2 ∧ t.group? v.sel.core v.sel.slot = some g ∧
      (∀ fr r, SameReg v.group g fr r) ∧ g.splits[v.sel.idx]? = some sp ∧ sp.state = .parked ∧ sp.pc = v.split.pc ∧
      sp.wait = .join d (s.cyc v.sel.core)) ∧
  (∀ (s : State) (c slot n d came : Nat) (g : Group) (sp : Split) (x : Task), s.group? c slot = some g →
    g.entries[n]? = some sp → sp.wait = .join d came → x.saving = none →
    (∀ k ∈ joinKeys s g.task, (came * 2 + slot % 2) * 32 + lowLane sp.mask ≤ k) → g.atLane (lowLane sp.mask) = some sp → Table.get? s.tasks g.task = some x → x.kids = 0 →
    x.alw < Config.unmetered → x.alw + x.pend ≤ Config.maxMetered →
    ∃ t g' me, exec (.joinComplete c slot n) s = .next t ∧ t.tick = s.tick ∧ OthersOf c slot s t ∧ t.group? c slot = some g' ∧
      (g.out = false → ∀ a, (∀ pa, tcbPhys s x = some pa → ¬Within a pa 128) → Memory.get t.mem a = Memory.get s.mem a) ∧
      (∀ fr r, ¬(r = .s d ∧ (r.frameLocal = true → fr = sp.frame)) → SameReg g g' fr r) ∧
      g'.readS sp.frame d = (if d = 0 then SReg.zero else ⟨BitVec.ofNat 64 x.jstat, false⟩) ∧
      (∃ sp' ∈ g'.entries, sp'.pc = sp.pc + 4 ∧ sp'.mask = sp.mask ∧ sp'.wait = .none) ∧
      Table.get? t.tasks g.task = some me ∧ me.alw = x.alw + x.pend ∧ me.pend = 0 ∧ me.jstat = 0)

/-- DONE of a split that is not its group's last removes that entry and no other, and frees the frames that lose their
last claim with it, each with its generation one higher. Its origin, where it is left with one member, is dissolved:
that member takes the parent of the origin as its own; else no origin changes. The last member of the handler set
takes handler mode with it, and every frozen entry is ready; the last split that another waits for at a MEET lets that
one go on behind the MEET. DONE of the last split ends the group, and with the last group its task is DRAINING and
gives up its group slots, which it keeps till then. YIELD changes nothing but PC and account with no queued task of
its priority or above; else a pre-emption request stands and the split has stopped after it. TAKE writes the next
coordinate of its crew's sweep and advances the counter, or all ones when none is left or the crew has no sweep. (R29,
R110, R116, R119, R127, R184, R190, R192, R193, R277) -/
def Obligations.ExitYieldTake : Prop :=
  (∀ (v : View) (s : State), Ready .done v s → v.group.splits.length + v.group.spilled.length ≠ 1 →
    (∀ e ∈ v.group.origins, 2 ≤ v.group.members e.1) → (∀ sp ∈ v.group.entries, sp.state ≠ .meet) →
    (v.group.handler = true → ∃ sp ∈ dropAt v.group.splits v.sel.idx ++ v.group.spilled, sp.inHandler = true) →
    ∃ t g, exec .done s = .next t ∧ t.tick = s.tick + 1 ∧ SameWorld s t ∧ t.msgs = s.msgs ∧ t.tarn = s.tarn ∧
      OtherGroups v s t ∧ Debited v s t 1 ∧ t.full = s.full ∧ (v.group.spilled = [] → SameMemory s t) ∧
      (∀ a, ¬Within a (areaPhys (splitAreaOf v.sel.core v.sel.slot)) 832 → Memory.get t.mem a = Memory.get s.mem a) ∧
      t.group? v.sel.core v.sel.slot = some g ∧ g.handler = v.group.handler ∧
      g.splits.map Split.sansOrigin = (dropAt v.group.splits v.sel.idx).map Split.sansOrigin ∧
      g.spilled.map Split.sansOrigin = v.group.spilled.map Split.sansOrigin ∧
      (v.split.origin ∉ Table.keys v.group.origins ∨ 2 < v.group.members v.split.origin →
        g.origins = v.group.origins ∧ g.splits = dropAt v.group.splits v.sel.idx ∧ g.spilled = v.group.spilled) ∧
      (v.split.origin ∈ Table.keys v.group.origins → (Table.keys v.group.origins).Nodup →
        v.group.members v.split.origin = 2 →
        g.origins = Table.mapVals (Table.erase v.group.origins v.split.origin)
          (fun q => if q = v.split.origin then v.group.parentOf v.split.origin else q) ∧
        g.splits = (dropAt v.group.splits v.sel.idx).map (fun sp =>
          if sp.origin = v.split.origin then { sp with origin := v.group.parentOf v.split.origin } else sp) ∧
        g.spilled = v.group.spilled.map (fun sp =>
          if sp.origin = v.split.origin then { sp with origin := v.group.parentOf v.split.origin } else sp)) ∧
      (∀ fr r, (r.frameLocal = true → (Table.get? g.frames fr).isSome = true) → SameReg v.group g fr r) ∧
      (∀ sp ∈ g.entries, Table.get? g.frames sp.frame = Table.get? v.group.frames sp.frame) ∧
      (({ v.group with splits := dropAt v.group.splits v.sel.idx } : Group).claims v.fr ≠ 0 →
        g.frames = v.group.frames ∧ (t.core v.sel.core).sgen = v.core.sgen) ∧
      (({ v.group with splits := dropAt v.group.splits v.sel.idx } : Group).claims v.fr = 0 →
        v.fr < Config.scalarGranules → Table.get? g.frames v.fr = none) ∧
      ∀ fr, (Table.get? v.group.frames fr).isSome = true → Table.get? g.frames fr = none →
        (t.core v.sel.core).sgenOf fr = v.core.sgenOf fr + 1) ∧
  (∀ (v : View) (s : State), Ready .done v s → v.group.splits.length + v.group.spilled.length ≠ 1 →
    (∀ sp ∈ v.group.entries, sp.state ≠ .meet) → v.group.handler = true →
    (∀ sp ∈ dropAt v.group.splits v.sel.idx ++ v.group.spilled, sp.inHandler = false) →
    ∃ t g, exec .done s = .next t ∧ t.tick = s.tick + 1 ∧ OtherGroups v s t ∧ Debited v s t 1 ∧
      t.group? v.sel.core v.sel.slot = some g ∧ g.handler = false ∧
      (∀ fr r, (r.frameLocal = true → (Table.get? g.frames fr).isSome = true) → SameReg v.group g fr r) ∧
      g.splits.map Split.sansOrigin = (dropAt v.group.splits v.sel.idx).map (fun sp =>
        { sp.sansOrigin with state := if sp.state = .frozen then .ready else sp.state }) ∧
      g.spilled.map Split.sansOrigin = v.group.spilled.map (fun sp =>
        { sp.sansOrigin with state := if sp.state = .frozen then .ready else sp.state })) ∧
  (∀ (v : View) (s : State) (w : Split), Ready .done v s →
    (v.sel.idx = 0 ∧ v.group.splits = [v.split, w] ∨ v.sel.idx = 1 ∧ v.group.splits = [w, v.split]) → v.group.spilled = [] →
    w.state = .meet → v.group.handler = false →
    ∃ t g sp, exec .done s = .next t ∧ t.tick = s.tick + 1 ∧ SameMemory s t ∧ OtherGroups v s t ∧ Debited v s t 1 ∧
      t.group? v.sel.core v.sel.slot = some g ∧
      (∀ fr r, (r.frameLocal = true → (Table.get? g.frames fr).isSome = true) → SameReg v.group g fr r) ∧
      g.splits = [sp] ∧ g.spilled = [] ∧ sp.pc = w.meet + 4 ∧ sp.mask = w.mask ∧ sp.frame = w.frame ∧ sp.state = .ready) ∧
  (∀ (v : View) (s : State), Ready .done v s → v.group.splits.length + v.group.spilled.length = 1 →
    ∃ t x, exec .done s = .next t ∧ t.tick = s.tick + 1 ∧ OtherGroups v s t ∧ t.group? v.sel.core v.sel.slot = none ∧
      (t.core v.sel.core).ggenOf v.sel.slot = v.core.ggenOf v.sel.slot + 1 ∧ Table.get? t.tasks v.tid = some x ∧
      (v.task.place = v.sel.core → (∀ e ∈ v.core.groups, e.2.task = v.tid → e.1 = v.sel.slot) → x.state = .draining ∧
        ∀ e ∈ (t.core v.sel.core).kept, e.2 ≠ v.tid) ∧
      (v.task.place = v.sel.core → (∃ n g, n ≠ v.sel.slot ∧ s.group? v.sel.core n = some g ∧ g.task = v.tid) →
        x.state = v.task.state ∧ SameMemory s t ∧ Table.get? (t.core v.sel.core).kept v.sel.slot = some v.tid)) ∧
  (∀ (v : View) (s : State), Ready .yield v s → (∀ e ∈ queued s v.task.place, e.2.prio < v.task.prio) →
    ∃ t, exec .yield s = .next t ∧ Retires .yield v s t v.nextPc v.group id) ∧
  (∀ (v : View) (s : State), Ready .yield v s → (∃ e ∈ queued s v.task.place, v.task.prio ≤ e.2.prio) →
    ∃ t g sp x, exec .yield s = .next t ∧ SameMemory s t ∧ t.group? v.sel.core v.sel.slot = some g ∧
      (∀ fr r, SameReg v.group g fr r) ∧ g.splits[v.sel.idx]? = some sp ∧ sp.pc = v.nextPc ∧ sp.stop = .yield ∧
      Table.get? t.tasks v.tid = some x ∧ x.request.isSome = true) ∧
  (∀ (d n : Nat) (w : Sweep) (v : View) (s : State), Ready (.take d) v s → v.task.swcrew = true → v.task.sweep = some n →
    Table.get? s.hub.sweeps n = some w → w.next < w.x * w.y * w.z →
    ∃ t g, exec (.take d) s = .next t ∧ SameMemory s t ∧ OtherGroups v s t ∧
      t.group? v.sel.core v.sel.slot = some (v.booked s v.nextPc g) ∧ Kept v.group g v.fr [.s d] ∧
      g.readS v.fr d = (if d = 0 then SReg.zero else
        ⟨BitVec.ofNat 64 (w.next % w.x + w.next / w.x % w.y * 2 ^ 16 + w.next / (w.x * w.y) * 2 ^ 32), false⟩) ∧
      t.hub = { s.hub with sweeps := Table.set s.hub.sweeps n { w with next := w.next + 1 } }) ∧
  (∀ (d : Nat) (v : View) (s : State), Ready (.take d) v s →
    (v.task.swcrew = false ∨ v.task.sweep = none ∨ ∃ n w, v.task.sweep = some n ∧ Table.get? s.hub.sweeps n = some w ∧
      w.x * w.y * w.z ≤ w.next) →
    ∃ t g, exec (.take d) s = .next t ∧ SameMemory s t ∧ OtherGroups v s t ∧ t.hub = s.hub ∧
      t.group? v.sel.core v.sel.slot = some (v.booked s v.nextPc g) ∧ Kept v.group g v.fr [.s d] ∧
      g.readS v.fr d = (if d = 0 then SReg.zero else ⟨0xFFFFFFFFFFFFFFFF, false⟩))

/-- GRANT and CANCEL of a handle that names a descendant send one operation to its Wellspring and park their split until
the result; SIGNAL of a handle that names a task sends one and goes on. GRANT is debited 4 and its amount, CANCEL and
SIGNAL 1 (R33). Each changes no register and no byte of memory (for SIGNAL, with no store of the core outstanding). A
handle whose incarnation differs, and one of a FREE slot, names no task: GRANT and CANCEL send their operation without
a target, and SIGNAL does nothing but issue. A handle that names no task slot of the context, and for GRANT and CANCEL
a task that is no descendant, enters the handler with cause 6. (That a handle with a bit of [63:56] set names no task
is the model's choice, DESIGN CHOICE, log entry 56.) (R33, R167, R172, R180, R181, R183) -/
def Obligations.MessagesSent : Prop :=
  (∀ (i : Instr) (d a tid : Nat) (k : MsgKind) (v : View) (s : State),
    ((∃ b, i = .grant d a b ∧ k = .grant (v.ui b)) ∨ (i = .cancel d a ∧ k = .cancel)) → Ready i v s →
    namedBy s v.task.ctx v.task.asid (v.rs a) = .task tid → descends s v.tid 64 tid = true →
    ∃ t g sp x m, exec i s = .next t ∧ t.tick = s.tick + 1 ∧ SameMemory s t ∧ OtherGroups v s t ∧
      t.msgs = s.msgs ++ [m] ∧ m.kind = k ∧ m.target = some tid ∧ m.issuer = some v.tid ∧ m.inc.toNat = v.ui a % 256 ∧
      m.reply = some (v.sel.core, v.sel.slot, v.core.ggenOf v.sel.slot, lowLane v.m, d) ∧
      t.group? v.sel.core v.sel.slot = some g ∧ (∀ fr r, SameReg v.group g fr r) ∧ g.splits[v.sel.idx]? = some sp ∧
      sp.state = .parked ∧ sp.pc = v.split.pc ∧ sp.wait = .wellspring d ∧ Table.get? t.tasks v.tid = some x ∧
      x.awaiting = v.task.awaiting + 1 ∧ t.tasks = Table.modify s.tasks v.tid (fun y =>
        let z := if v.split.paid.isSome then y else y.charge (costOf v i)
        { z with awaiting := z.awaiting + 1 }) ∧
      (∀ b, i = .grant d a b → costOf v i = 4 + v.ui b) ∧ (i = .cancel d a → costOf v i = 1)) ∧
  (∀ (a tid : Nat) (v : View) (s : State), Ready (.signal a) v s → Settled v →
    namedBy s v.task.ctx v.task.asid (v.rs a) = .task tid →
    ∃ t m, exec (.signal a) s = .next t ∧ t.tick = s.tick + 1 ∧ SameMemory s t ∧ OtherGroups v s t ∧ Debited v s t 1 ∧ t.msgs = s.msgs ++ [m] ∧ m.kind = .signal ∧
      m.target = some tid ∧ m.inc.toNat = v.ui a % 256 ∧
      t.group? v.sel.core v.sel.slot = some (v.booked s v.nextPc v.group)) ∧
  (∀ (s : State) (ctx asid va : Nat) (h : W64), h.toNat < 2 ^ 56 → va = h.toNat / 256 * 256 →
    (inPool va = true → Table.get? s.tasks va = none → namedBy s ctx asid h = .gone) ∧
    (∀ x, inPool va = true → Table.get? s.tasks va = some x → namedBy s ctx asid h =
      if x.ctx ≠ ctx then .bad else if x.inc.toNat = h.toNat % 256 then .task va else .gone) ∧
    (inPool va = false → (∀ x, Table.get? s.tasks (rootKey asid va) = some x → x.isRoot = false ∨ x.ctx ≠ ctx) →
      namedBy s ctx asid h = .bad)) ∧
  (∀ (i : Instr) (d a : Nat) (k : MsgKind) (v : View) (s : State),
    ((∃ b, i = .grant d a b ∧ k = .grant (v.ui b)) ∨ (i = .cancel d a ∧ k = .cancel)) → Ready i v s →
    namedBy s v.task.ctx v.task.asid (v.rs a) = .gone →
    ∃ t g sp m, exec i s = .next t ∧ t.tick = s.tick + 1 ∧ SameMemory s t ∧ OtherGroups v s t ∧
      t.msgs = s.msgs ++ [m] ∧ m.kind = k ∧ m.target = none ∧ m.issuer = some v.tid ∧
      m.reply = some (v.sel.core, v.sel.slot, v.core.ggenOf v.sel.slot, lowLane v.m, d) ∧
      t.group? v.sel.core v.sel.slot = some g ∧ (∀ fr r, SameReg v.group g fr r) ∧ g.splits[v.sel.idx]? = some sp ∧
      sp.state = .parked ∧ sp.pc = v.split.pc ∧ sp.wait = .wellspring d) ∧
  (∀ (a : Nat) (v : View) (s : State), Ready (.signal a) v s → Settled v →
    namedBy s v.task.ctx v.task.asid (v.rs a) = .gone →
    ∃ t, exec (.signal a) s = .next t ∧ Retires (.signal a) v s t v.nextPc v.group id) ∧
  (∀ (i : Instr) (a : Nat) (v : View) (s : State), Ready i v s → HasHandler v →
    (((∃ d b, i = .grant d a b) ∨ (∃ d, i = .cancel d a)) ∧
      (namedBy s v.task.ctx v.task.asid (v.rs a) = .bad ∨ ∃ tid, namedBy s v.task.ctx v.task.asid (v.rs a) = .task tid ∧
        descends s v.tid 64 tid = false) ∨
     i = .signal a ∧ namedBy s v.task.ctx v.task.asid (v.rs a) = .bad) →
    ∃ t, exec i s = .next t ∧ EntersHandler v s t 6 v.split.pc (v.rs a) ∧ Refunded v s t)

/-- A GRANT reaches a metered task that runs: its units are added up to the largest metered allowance, and a STARVED task
resumes. A SIGNAL takes one from the dependence count of an ARMED task, which is READY when none is left. A CANCEL of
a task that has started makes it UNWINDING with status CANCELLED, of one still waiting in the pool frees its slot. A
return adds a child's remainder to its parent's pend, takes the child from its count, keeps the first status that is
not OK, and frees the child's slot with its incarnation one higher. A GRANT to no task, to one that is unwinding or
done, and to an unmetered one gives its units back and answers 1; a CANCEL of no task and of one that is unwinding or
done answers 7; a GRANT that is accepted answers 0: the split that waits takes the answer in its scalar and goes on.
Each takes its message from the queue, where its place among the operations that the Wellspring takes in one cycle
allows it (R172; the places of the hub's operations are a DESIGN CHOICE, log entry 3, and so is that of a return, log
entry 71), and that place is the Wellspring's latest. (R166, R172, R177, R180, R181, R183, R187) -/
def Obligations.MessagesApplied : Prop :=
  (∀ (s : State) (n amt tid i : Nat) (m : Msg) (x : Task), s.msgs[n]? = some m → served s m = true → m.inTurn s = true → m.kind = .grant amt →
    m.target = some tid → Table.get? s.tasks tid = some x → x.inc = m.inc → x.state ≠ .unwinding → x.state ≠ .done →
    x.alw < Config.unmetered → m.issuer = some i → i ≠ tid →
    ∃ t y, exec (.grantApply n) s = .next t ∧ t.tick = s.tick ∧ t.msgs = dropAt s.msgs n ∧ Table.get? t.tasks tid = some y ∧
      y.alw = x.alw + min amt (Config.maxMetered - x.alw) ∧ y.state = (if x.state = .starved then .running else x.state) ∧
      y.consumed = x.consumed ∧ y.pend = x.pend ∧ (t.core x.place).turn = (s.tick + 1, m.key)) ∧
  (∀ (s : State) (n tid : Nat) (m : Msg) (x : Task), s.msgs[n]? = some m → served s m = true → m.inTurn s = true → m.kind = .signal →
    m.target = some tid → Table.get? s.tasks tid = some x → x.inc = m.inc → x.state = .armed → 0 < x.dep →
    ∃ t y, exec (.signalApply n) s = .next t ∧ t.tick = s.tick ∧ t.msgs = dropAt s.msgs n ∧ Table.get? t.tasks tid = some y ∧
      y.dep = x.dep - 1 ∧ y.state = (if x.dep = 1 then .ready else .armed) ∧ y.alw = x.alw ∧
      (t.core x.place).turn = (s.tick + 1, m.key)) ∧
  (∀ (s : State) (n tid : Nat) (m : Msg) (x : Task), s.msgs[n]? = some m → served s m = true → m.inTurn s = true → m.kind = .cancel →
    m.target = some tid → Table.get? s.tasks tid = some x → x.inc = m.inc → x.state = .running → x.unwinder = none →
    (∀ j, m.issuer = some j → j ≠ tid) →
    ∃ t y, exec (.cancelApply n) s = .next t ∧ t.tick = s.tick ∧ t.msgs = dropAt s.msgs n ∧ Table.get? t.tasks tid = some y ∧
      y.state = .unwinding ∧ y.xstat = 7 ∧ y.unwinder = some tid ∧ (t.core x.place).turn = (s.tick + 1, m.key)) ∧
  (∀ (s : State) (n tid p i : Nat) (m : Msg) (x y : Task), s.msgs[n]? = some m → served s m = true → m.inTurn s = true → m.kind = .cancel →
    m.target = some tid → Table.get? s.tasks tid = some x → x.inc = m.inc → x.state = .armed → x.isRoot = false → x.isSweep = false →
    x.parent = some p → p ≠ tid → Table.get? s.tasks p = some y → m.issuer = some i → i ≠ tid →
    ∃ t z, exec (.cancelApply n) s = .next t ∧ t.msgs = dropAt s.msgs n ∧ Table.get? t.tasks tid = none ∧
      Table.get? t.incs tid = some (x.inc + 1) ∧ Table.get? t.tasks p = some z ∧ z.kids = y.kids - 1 ∧
      (t.core x.place).turn = (s.tick + 1, m.key)) ∧
  (∀ (s : State) (n amt i : Nat) (m : Msg) (z : Task), s.msgs[n]? = some m → served s m = true → m.inTurn s = true →
    m.kind = .grant amt → stillNamed s m.target m.inc = none → m.issuer = some i → Table.get? s.tasks i = some z →
    z.state ≠ .unwinding → z.alw < Config.unmetered → z.alw + amt ≤ Config.maxMetered →
    ∃ t y, exec (.grantApply n) s = .next t ∧ t.tick = s.tick ∧ t.msgs = dropAt s.msgs n ∧ Table.get? t.tasks i = some y ∧
      y.alw = z.alw + amt ∧ y.awaiting = z.awaiting - 1) ∧
  (∀ (s : State) (n amt i c slot lane d : Nat) (gen : BitVec 8) (step : Instr) (m : Msg) (g : Group) (sp : Split) (x : W64),
    s.msgs[n]? = some m → served s m = true → m.inTurn s = true → m.issuer = some i → m.packet = none →
    m.reply = some (c, slot, gen, lane, d) → s.group? c slot = some g → (s.core c).ggenOf slot = gen → g.task = i →
    g.atLane lane = some sp → g.out = false →
    (m.kind = .grant amt ∧ step = .grantApply n ∧
        (x = 1 ∧ (∀ y, stillNamed s m.target m.inc = some y → y.state = .unwinding ∨ y.state = .done ∨ y.alw = Config.unmetered) ∨
         x = 0 ∧ ∃ y, stillNamed s m.target m.inc = some y ∧ y.state ≠ .unwinding ∧ y.state ≠ .done ∧ y.alw ≠ Config.unmetered) ∨
      m.kind = .cancel ∧ step = .cancelApply n ∧ x = 7 ∧
        ∀ y, stillNamed s m.target m.inc = some y → y.state = .unwinding ∨ y.state = .done) →
    ∃ t g', exec step s = .next t ∧ t.msgs = dropAt s.msgs n ∧ OthersOf c slot s t ∧ t.group? c slot = some g' ∧
      (∀ fr r, ¬(r = .s d ∧ (r.frameLocal = true → fr = sp.frame)) → SameReg g g' fr r) ∧
      g'.readS sp.frame d = (if d = 0 then SReg.zero else ⟨x, false⟩) ∧
      ∃ sp' ∈ g'.entries, sp'.pc = sp.pc + 4 ∧ sp'.mask = sp.mask ∧ sp'.wait = .none) ∧
  (∀ (s : State) (n p child rem status : Nat) (m : Msg) (x y : Task), s.msgs[n]? = some m → served s m = true →
    m.inTurn s = true → m.kind = .ret rem status → m.target = some p → m.issuer = some child → p ≠ child → Table.get? s.tasks p = some x →
    Table.get? s.tasks child = some y → x.pend + rem ≤ Config.unmetered →
    ∃ t z, exec (.returnDelivery n) s = .next t ∧ t.tick = s.tick ∧ t.msgs = dropAt s.msgs n ∧ Table.get? t.tasks p = some z ∧
      z.pend = x.pend + rem ∧ z.kids = x.kids - 1 ∧ z.jstat = (if x.jstat = 0 then status else x.jstat) ∧
      Table.get? t.tasks child = none ∧ Table.get? t.incs child = some (y.inc + 1) ∧
      (t.core x.place).turn = (s.tick + 1, m.key))

/-- A DRAINING task of the pool with nothing outstanding is DONE, and its units and pend are on their way to its parent
with status OK. A stop order makes a running descendant UNWINDING and stopped, its units in the sum of the unwinding,
with what unwindings below it had collected; one that still waits in the pool is gone. When every part of an unwinding
has completed, the task is DONE with its status and the sum is on its way to its parent. (That a return takes the
place of side 0, lane 0 of its core among operations of one cycle is log entry 71, DESIGN CHOICE.) (R166, R172, R184,
R186, R187, R189) -/
def Obligations.TaskEnds : Prop :=
  (∀ (s : State) (tid p : Nat) (x : Task), Table.get? s.tasks tid = some x → x.state = .draining → x.kids = 0 → x.rsv = 0 →
    x.awaiting = 0 → x.unwinder = none → x.tilerecs = [] → (s.core x.place).busyFor tid = false → x.parent = some p →
    x.sweep = none → s.inTurn x.place 0 = true →
    ∃ t y, exec (.drainingComplete tid) s = .next t ∧ t.tick = s.tick ∧ Table.get? t.tasks tid = some y ∧ y.state = .done ∧
      y.xstat = 0 ∧ t.msgs = s.msgs ++ [⟨.ret (x.units + x.pend) 0, some p, x.inc, some tid, none, none, opKey x.place 0 0⟩]) ∧
  (∀ (s : State) (tid r : Nat) (x y : Task), Table.get? s.tasks tid = some x → x.unwinder = some r → r ≠ tid →
    x.stopped = false → x.state = .running → (s.core x.place).inReset = false → s.inTurn x.place 1 = true → Table.get? s.tasks r = some y →
    (∀ e ∈ descendants s tid, e ≠ r) →
    ∃ t z w, exec (.unwindOrder tid) s = .next t ∧ t.tick = s.tick ∧ Table.get? t.tasks tid = some z ∧ z.state = .unwinding ∧
      z.stopped = true ∧ z.unwinder = some r ∧ Table.get? t.tasks r = some w ∧ w.sum = y.sum + s.carriedBy (descendants s tid) + x.units ∧
      (∀ e ∈ (t.core x.place).mats, e.who.task ≠ tid) ∧ (∀ e ∈ (t.core x.place).copies, e.who.task = tid → e.cancelled = true)) ∧
  (∀ (s : State) (tid r : Nat) (x y : Task), Table.get? s.tasks tid = some x → x.unwinder = some r → r ≠ tid →
    x.stopped = false → x.state = .armed → (s.core x.place).inReset = false → s.inTurn x.place 1 = true → Table.get? s.tasks r = some y →
    (∀ e ∈ descendants s tid, e ≠ r) →
    ∃ t w, exec (.unwindOrder tid) s = .next t ∧ Table.get? t.tasks tid = none ∧ Table.get? t.tasks r = some w ∧
      w.sum = y.sum + s.carriedBy (descendants s tid) + x.units + x.pend) ∧
  (∀ (s : State) (tid p : Nat) (x : Task), Table.get? s.tasks tid = some x → x.unwinder = some tid → unwound s tid = true →
    x.restarting = false → x.parent = some p → s.inTurn x.place 0 = true → (∀ e ∈ membersOf s tid, e.1 = tid) →
    ∃ t y, exec (.unwindingComplete tid) s = .next t ∧ t.tick = s.tick ∧ Table.get? t.tasks tid = some y ∧ y.state = .done ∧
      y.xstat = x.xstat ∧ y.kids = 0 ∧ y.unwinder = none ∧
      t.msgs = s.msgs ++ [⟨.ret (x.sum + x.pend) x.xstat, some p, x.inc, some tid, none, none, opKey x.place 0 0⟩])

/-- The READY task at the head of the highest queue of a core in service, whose whole crew fits, starts: it runs, and in
the slot of each of its groups stands a group whose registers, special registers and one split have the values of crew
start. A task that waits for a place takes one that is free; that a sweep's TCB is then DRAINING is DEDUCED (log entry
35). (R23, R24, R110, R111, R173, R174, R175) -/
def Obligations.CrewStarts : Prop :=
  (∀ (s : State) (c tid : Nat) (x : Task) (a : Allotment), queueHead s c = some (tid, x) → x.state = .ready →
    (s.core c).inReset = false → setFits s c x.ctx = true →
    allot s c (List.range (x.groups + 1)) ((x.groups + 1) * x.egran +
      chanGranules (templateChans (List.replicate 0x48 0 ++ x.chanBytes))) (x.groups + 1) ((x.groups + 1) * x.tiles)
      ((x.groups + 1) * x.accs) = some a →
    ∃ t y, exec (.crewStart c) s = .next t ∧ t.tick = s.tick ∧ Table.get? t.tasks tid = some y ∧ y.state = .running ∧
      y.alw = x.alw ∧ ∀ k, k < x.groups + 1 → ∃ g, t.group? c (a.slots.getD k 0) = some g ∧ Fresh g tid k x) ∧
  (∀ (s : State) (c : Nat) (e : Nat × Task), residents s c < 64 → firstBy earlier (waitingTasks s c) = some e →
    Table.get? s.tasks e.1 = some e.2 → e.2.isSweep = false →
    ∃ t y, exec (.taskResident c) s = .next t ∧ t.tick = s.tick ∧ SameMemory s t ∧ Table.get? t.tasks e.1 = some y ∧
      y = { e.2 with resident := true }) ∧
  (∀ (s : State) (c : Nat) (e : Nat × Task), residents s c < 64 → firstBy earlier (waitingTasks s c) = some e →
    Table.get? s.tasks e.1 = some e.2 → e.2.isSweep = true →
    ∃ t y, exec (.taskResident c) s = .next t ∧ t.tick = s.tick ∧ Table.get? t.tasks e.1 = some y ∧ y.resident = true ∧
      y.state = .draining ∧ y.kids = e.2.kids)

/-- A running task with a pre-emption request and every split of its crew safe begins its save: its splits issue nothing
more and stand in no Tarn, their registers as before. When what a save waits for has landed it is saved: it is
PREEMPTED, its crew's slots are free, the task keeps one saved group for each, and its image stands in memory. 65,536
cycles after the request a crew that is not safe begins its save as well, and is marked forced, every register kept.
The PREEMPTED task at the head of the highest queue, with a resident place free, whose crew fits and whose image has
only state codes and format bytes that the rules give, runs again: each of its groups, with its scalars, vector
registers, predicates, tiles, accumulators, special registers and frames with theirs as saved; a split that was parked
on a channel, and still has to wait there, waits there again. An image with another code, or with a poisoned unit,
ends the context LOST. The image holds its fields, channel slots, saved MMMs, registers, tiles, accumulators and
frames with their poison where R294 to R296 put them, each vector register in the format of R206. A closed sweep tile
with no operation left leaves its task, and its record of 64 bytes goes to the next place of the context's stamp
buffer, or, with the buffer full or of size 0, the buffer's lost count rises. (That the restore takes registers from
the model's own record of the image is log entry 17, which split hnd names log entry 20, and that a crew stops when
its save begins log entry 33, both DEDUCED; that the image has no register-cache tags is log entry 15.) (R173, R174,
R205, R206, R292, R293, R294, R295, R296, R297, R308, R309) -/
def Obligations.Saves : Prop :=
  (∀ (s : State) (tid : Nat) (x : Task), Table.get? s.tasks tid = some x → x.state = .running → x.request.isSome = true →
    x.saving = none → crewSafe s tid = true →
    ∃ t y, exec (.crewSave tid) s = .next t ∧ t.tick = s.tick ∧ SameMemory s t ∧ Table.get? t.tasks tid = some y ∧
      y.state = .running ∧ y.saving = some false ∧ y.alw = x.alw ∧
      ∀ e ∈ crewOf s tid, (∀ g, s.group? x.place e.1 = some g → ∃ g', t.group? x.place e.1 = some g' ∧
        (∀ fr r, SameReg g g' fr r) ∧ g'.splits.map Split.pc = g.splits.map Split.pc) ∧
        ∀ sp ∈ e.2.entries, ∀ w ∈ t.tarn, w.user ≠ .split x.place e.1 (lowLane sp.mask)) ∧
  (∀ (s : State) (tid at' : Nat) (x : Task), Table.get? s.tasks tid = some x → x.state = .running → x.request = some at' →
    x.saving = none → at' + 65536 ≤ s.cyc x.place → crewSafe s tid = false →
    ∃ t y, exec (.forcedSave tid) s = .next t ∧ t.tick = s.tick ∧ SameMemory s t ∧ Table.get? t.tasks tid = some y ∧
      y.state = .running ∧ y.saving = some true ∧ y.alw = x.alw) ∧
  (∀ (s : State) (tid : Nat) (forced : Bool) (i : Instr) (x : Task), Table.get? s.tasks tid = some x → x.state = .running →
    x.saving = some forced → i = (if forced then .forcedSave tid else .crewSave tid) → crewLanded s tid = true →
    crewOf s tid ≠ [] →
    ∃ t y, exec i s = .next t ∧ t.tick = s.tick ∧ Table.get? t.tasks tid = some y ∧ y.state = .preempted ∧
      y.request = none ∧ y.saving = none ∧ y.alw = x.alw ∧ y.saved.length = (crewOf s tid).length ∧
      (∀ e ∈ crewOf s tid, t.group? x.place e.1 = none) ∧
      (∀ (j : Nat) (e : Nat × Group) (z : SavedGroup), (crewOf s tid)[j]? = some e → y.saved[j]? = some z → z.forced = forced ∧ z.slot = e.1 ∧
        (∀ n, groupSpecial z.group n = groupSpecial e.2 n) ∧ z.group.splits.map Split.pc = e.2.splits.map Split.pc ∧
        ((forced = true ∨ ∀ sp ∈ e.2.entries, ∀ n, sp.stop ≠ .safe n) →
          ∀ fr r, (∀ a q, r ≠ .a a q) → SameReg e.2 z.group fr r)) ∧
      ((Table.get? s.hub.ctxs x.ctx).bind Ctx.capture = none →
        ∀ k, k < y.imageBytes.length → Memory.get t.mem (areaPhys (imageOf tid) + k) = y.imageBytes.getD k 0)) ∧
  (∀ y : Task, y.saved.length ≤ 16 → ∃ off, ImageLaid y.imageBytes y off) ∧
  (∀ (s : State) (c tid : Nat) (x : Task) (a : Allotment), queueHead s c = some (tid, x) → x.state = .preempted →
    (s.core c).inReset = false → setFits s c x.ctx = true → residents s c < 64 → imageSound s tid x = true →
    s.poisonIn (areaPhys (imageOf tid)) x.imageBytes.length = false →
    allot s c (x.saved.map (fun z => z.group.gid)) (total (x.saved.map (fun z => z.group.granules)) + chanGranules x.chans)
      (total (x.saved.map (fun z => z.group.frames.length))) (total (x.saved.map (fun z => z.group.tiles.length)))
      (total (x.saved.map (fun z => z.group.accs.length))) = some a →
    (∀ z ∈ x.saved, (∀ sp ∈ z.group.entries, ¬AtChannel sp.wait) ∧ (Table.keys z.group.frames).Nodup) →
    ∃ t y, exec (.crewRestore c) s = .next t ∧ t.tick = s.tick ∧ Table.get? t.tasks tid = some y ∧ y.state = .running ∧
      y.saved = [] ∧ ∀ (j : Nat) (z : SavedGroup), x.saved[j]? = some z → ∃ g, t.group? c (a.slots.getD j 0) = some g ∧
        PutBack z.group g (a.scalars.drop (total ((x.saved.take j).map (fun w => w.group.frames.length))))) ∧
  (∀ (s : State) (c tid ch : Nat) (x : Task) (z : SavedGroup) (sp : Split) (a : Allotment) (r : VReg) (d : Nat),
    queueHead s c = some (tid, x) → x.state = .preempted → (s.core c).inReset = false → setFits s c x.ctx = true →
    residents s c < 64 → imageSound s tid x = true → s.poisonIn (areaPhys (imageOf tid)) x.imageBytes.length = false →
    x.saved = [z] → z.group.task = tid → (Table.keys z.group.frames).Nodup →
    allot s c [z.group.gid] (z.group.granules + chanGranules x.chans) z.group.frames.length z.group.tiles.length
      z.group.accs.length = some a →
    (∃ l q, z.group.entries = l ++ sp :: q ∧ ∀ y ∈ l ++ q, ¬AtChannel y.wait) → sp.state = .parked →
    (chanOf x ch).pushers = [] → (chanOf x ch).poppers = [] →
    (sp.wait = .push ch r ∧ (chanOf x ch).depth ≤ (chanOf x ch).full.length ∨ sp.wait = .pop ch d ∧ (chanOf x ch).full = []) →
    ∃ t y g, exec (.crewRestore c) s = .next t ∧ t.tick = s.tick ∧ Table.get? t.tasks tid = some y ∧ y.state = .running ∧
      (chanOf y ch).full = (chanOf x ch).full ∧
      (sp.wait = .push ch r → (chanOf y ch).pushers = [(a.slots.getD 0 0, lowLane sp.mask)] ∧ (chanOf y ch).poppers = []) ∧
      (sp.wait = .pop ch d → (chanOf y ch).poppers = [(a.slots.getD 0 0, lowLane sp.mask)] ∧ (chanOf y ch).pushers = []) ∧
      t.group? c (a.slots.getD 0 0) = some g ∧ PutBack z.group g a.scalars) ∧
  (∀ (s : State) (c tid : Nat) (x : Task), queueHead s c = some (tid, x) → x.state = .preempted →
    (s.core c).inReset = false → setFits s c x.ctx = true → residents s c < 64 →
    imageSound s tid x = false ∨ s.poisonIn (areaPhys (imageOf tid)) x.imageBytes.length = true →
    exec (.crewRestore c) s = .next (loseContext x.ctx s)) ∧
  (∀ (s : State) (tid tile : Nat) (x : Task) (r : TileRec), Table.get? s.tasks tid = some x →
    x.tilerecs.find? (fun y => decide (y.number = tile)) = some r → r.closed = true → r.ops = 0 →
    ∃ t y, exec (.stampRecordWrite tid tile) s = .next t ∧ t.tick = s.tick ∧ Table.get? t.tasks tid = some y ∧
      y.tilerecs = x.tilerecs.filter (fun z => decide (z.number ≠ tile))) ∧
  (∀ (s : State) (tid tile : Nat) (x : Task) (r : TileRec) (cx : Ctx) (f : Nat → Nat), Table.get? s.tasks tid = some x →
    x.tilerecs.find? (fun y => decide (y.number = tile)) = some r → r.closed = true → r.ops = 0 →
    Table.get? s.hub.ctxs x.ctx = some cx → cx.sbuf ≠ 0 → BufferLaid s x.ctx x.asid cx.sbuf cx.ssize f →
    ∃ t, exec (.stampRecordWrite tid tile) s = .next t ∧
      ((cx.ssize ≠ 0 ∧ (placedWord s.mem f 0 8 + 2 ^ 64 - placedWord s.mem f 8 8) % 2 ^ 64 ≠ cx.ssize →
        RecordLaid t.mem f (64 * (1 + placedWord s.mem f 0 8 % cx.ssize)) r x (placedWord s.mem f 0 8) ∧
        placedWord t.mem f 0 8 = (placedWord s.mem f 0 8 + 1) % 2 ^ 64 ∧
        ∀ a, (∀ k, k < 8 ∨ 64 * (1 + placedWord s.mem f 0 8 % cx.ssize) ≤ k ∧
          k < 64 * (2 + placedWord s.mem f 0 8 % cx.ssize) → f k ≠ a) → Memory.get t.mem a = Memory.get s.mem a) ∧
      (cx.ssize = 0 ∨ (placedWord s.mem f 0 8 + 2 ^ 64 - placedWord s.mem f 8 8) % 2 ^ 64 = cx.ssize →
        placedWord t.mem f 16 6 = min (placedWord s.mem f 16 8 % 2 ^ 48 + 1) (2 ^ 48 - 1) ∧
        ∀ a, (∀ k, 16 ≤ k → k < 22 → f k ≠ a) → Memory.get t.mem a = Memory.get s.mem a)))

/-- NOP is the word of opcode 0x74 with a zero code, and a nonzero code makes the word illegal; it costs 1 and changes
nothing but the PC and the account of its task. (R91) -/
def Obligations.NopOnlyIssues : Prop :=
  decodeWord (0x74 * 2 ^ 25) = some .nop ∧ (∀ code, 0 < code → code < 2 ^ 25 → decodeWord (0x74 * 2 ^ 25 + code) = none) ∧
  (∀ (v : View), costOf v .nop = 1) ∧
  ∀ (v : View) (s : State), Ready .nop v s → ∃ t, exec .nop s = .next t ∧ Retires .nop v s t v.nextPc v.group id

/-- MFS and MTS of the numbers 0 to 17 complete whenever nothing stands in their way. MFS writes the register as the table
of special registers gives it, `alw` after its own debit and `cyc` as the core counts in that cycle, and nothing else
but PC and account. MTS gives a register of the group the bits of s(a) that its fields take, clears `sat` where the
bit is 1, changes nothing of a read-only one, and leaves every other register. A word of MFS or MTS that names a
number from 18 to 127 decodes to no instruction, and so takes cause 0. (R25, R26) -/
def Obligations.SpecialRegisters : Prop :=
  (∀ (d sr : Nat) (v : View) (s : State), WellFormed (.mfs d sr) → Ready (.mfs d sr) v s →
    ∃ t g, exec (.mfs d sr) s = .next t ∧ Retires (.mfs d sr) v s t v.nextPc g id ∧ Kept v.group g v.fr [.s d] ∧
      g.sat = v.group.sat ∧ g.readS v.fr d = if d = 0 then SReg.zero else ⟨specialRule v s sr, false⟩) ∧
  (∀ (sr a : Nat) (v : View) (s : State), WellFormed (.mts sr a) → Ready (.mts sr a) v s →
    ∃ t g, exec (.mts sr a) s = .next t ∧ Retires (.mts sr a) v s t v.nextPc g id ∧ (∀ fr r, SameReg v.group g fr r) ∧
      g.frames = v.group.frames ∧ g.splits = v.group.splits ∧ g.spilled = v.group.spilled ∧ g.pennants = v.group.pennants ∧
      groupSpecial g sr = mtsRule (groupSpecial v.group sr) (v.rs a) sr ∧
      ∀ n, n ≠ sr → groupSpecial g n = groupSpecial v.group n) ∧
  (∀ (n x w : Nat) (v : View) (s : State), 18 ≤ n → n < 128 → x < 128 →
    (w = 0x70 * 2 ^ 25 + x * 2 ^ 18 + n * 2 ^ 11 ∨ w = 0x70 * 2 ^ 25 + n * 2 ^ 18 + x * 2 ^ 11 + 1) →
    decodeWord w = none ∧ (Selected v s → HasHandler v →
      ∃ t, exec (.illegalInstruction (BitVec.ofNat 32 w)) s = .next t ∧ EntersHandler v s t 0 v.split.pc (BitVec.ofNat 64 w)))

/-- TRAP, of any 25-bit code, is debited 1 and enters the handler with cause 11, tpc = PC + 4 and its whole word in tval,
whose low 25 bits are the code; with tvb = 0 its task is UNWINDING with status CANCELLED. BRK does the same with cause
10. ERET goes to tpc: outside handler mode it changes nothing else; by a split of the handler set it ends handler
mode, and every frozen split of the group is ready. (R87) -/
def Obligations.TrapsAndReturns : Prop :=
  (∀ (i : Instr) (code : BitVec 25) (v : View) (s : State), (i = .trap code ∨ i = .brk code) → Ready i v s → v.group.tvb ≠ 0 →
    ∃ t, exec i s = .next t ∧ EntersHandler v s t (if i = .trap code then 11 else 10) v.nextPc (BitVec.ofNat 64 (encode i)) ∧
      Debited v s t 1 ∧ encode i % 2 ^ 25 = code.toNat ∧ decodeWord (encode i) = some i) ∧
  (∀ (i : Instr) (code : BitVec 25) (v : View) (s : State), (i = .trap code ∨ i = .brk code) → Ready i v s → v.group.tvb = 0 →
    ∃ t x, exec i s = .next t ∧ Table.get? t.tasks v.tid = some x ∧ x.state = .unwinding ∧ x.xstat = 7 ∧
      x.xcause = (if i = .trap code then 11 else 10) ∧ x.xpc = v.split.pc ∧ x.xval = BitVec.ofNat 64 (encode i)) ∧
  (∀ (v : View) (s : State), Ready .eret v s → v.group.handler = false → (∀ sp ∈ v.group.entries, sp.state ≠ .meet) →
    ∃ t, exec .eret s = .next t ∧ Retires .eret v s t v.group.tpc v.group id) ∧
  (∀ (v : View) (s : State), Ready .eret v s → v.group.handler = true → v.split.inHandler = true →
    (∀ sp ∈ v.group.entries, sp.state ≠ .meet) →
    ∃ t g, exec .eret s = .next t ∧ Issued .eret v s t ∧ t.group? v.sel.core v.sel.slot = some g ∧ g.handler = false ∧
      (∀ fr r, SameReg v.group g fr r) ∧ (∀ n, groupSpecial g n = groupSpecial v.group n) ∧
      (∃ sp, g.splits[v.sel.idx]? = some sp ∧ sp.pc = v.group.tpc ∧ sp.state = .ready ∧ sp.inHandler = false) ∧
      ∀ k sp, k ≠ v.sel.idx → v.group.splits[k]? = some sp → ∃ sp', g.splits[k]? = some sp' ∧ sp'.inHandler = false ∧
        sp'.pc = sp.pc ∧ sp'.state = if sp.state = .frozen then .ready else sp.state)

/-- WAITC goes on when the four counters of its group are within its limits and else waits at its PC, debited;
WAITC_RESUME lets it go on once they are. SAFE changes nothing but PC and account without a pre-emption request, and
with one its split has stopped after it at its index. IPF requests the block of its target when it lies in a resident
executable page and is not at hand, and else does nothing. RDCTR writes a counter of its context's loaded set while a
capture window is open, and its value at the last write-back otherwise, also where the window is open and the core
holds no set. (R89, R90, R92, R289, R314) -/
def Obligations.WaitsAndHints : Prop :=
  (∀ (l q c m : Nat) (v : View) (s : State), Ready (.waitc l q c m) v s →
    (groupCounters v.core v.sel.slot v.group).1 ≤ l → (groupCounters v.core v.sel.slot v.group).2.1 ≤ q →
    (groupCounters v.core v.sel.slot v.group).2.2.1 ≤ c → (groupCounters v.core v.sel.slot v.group).2.2.2 ≤ m →
    ∃ t, exec (.waitc l q c m) s = .next t ∧ Retires (.waitc l q c m) v s t v.nextPc v.group id) ∧
  (∀ (l q c m : Nat) (v : View) (s : State), Ready (.waitc l q c m) v s →
    withinLimits v.core v.sel.slot v.group l q c m = false →
    ∃ t g sp, exec (.waitc l q c m) s = .next t ∧ Issued (.waitc l q c m) v s t ∧ t.group? v.sel.core v.sel.slot = some g ∧
      (∀ fr r, SameReg v.group g fr r) ∧ g.splits[v.sel.idx]? = some sp ∧ sp.state = .waitc ∧ sp.pc = v.split.pc) ∧
  (∀ (s : State) (c slot n l q cp m : Nat) (g : Group) (sp : Split), s.group? c slot = some g → g.entries[n]? = some sp →
    sp.wait = .waitc l q cp m → withinLimits (s.core c) slot g l q cp m = true →
    ∃ t g', exec (.waitcResume c slot n) s = .next t ∧ t.tick = s.tick ∧ SameMemory s t ∧ t.tasks = s.tasks ∧
      t.group? c slot = some g' ∧ (∀ fr r, SameReg g g' fr r) ∧
      ∃ sp', g'.entries[n]? = some sp' ∧ sp'.pc = sp.pc + 4 ∧ sp'.wait = .none ∧ sp'.state = g.wakeState sp) ∧
  (∀ (code : BitVec 25) (v : View) (s : State), Ready (.safe code) v s → v.task.request = none →
    ∃ t, exec (.safe code) s = .next t ∧ Retires (.safe code) v s t v.nextPc v.group id) ∧
  (∀ (code : BitVec 25) (v : View) (s : State), Ready (.safe code) v s → v.task.request ≠ none →
    ∃ t, exec (.safe code) s = .next t ∧ Retires (.safe code) v s t v.nextPc { v.group with
      splits := changeAt v.group.splits v.sel.idx (fun sp => { sp with stop := .safe code.toNat }) } id) ∧
  (∀ (off : BitVec 18) (p : Page) (v : View) (s : State), Ready (.ipf off) v s →
    codePage s v.task.asid (v.target off).toNat = some p → p.x = true → p.res = true →
    v.core.hasLine v.task.asid ((v.target off).toNat / 256) = false →
    ∃ t, exec (.ipf off) s = .next t ∧ Retires (.ipf off) v s t v.nextPc v.group
      (fun k => { k with fills := k.fills ++ [(v.task.asid, (v.target off).toNat / 256)] })) ∧
  (∀ (off : BitVec 18) (v : View) (s : State), Ready (.ipf off) v s →
    (codePage s v.task.asid (v.target off).toNat = none ∨ (∃ p, codePage s v.task.asid (v.target off).toNat = some p ∧
      (p.x = false ∨ p.res = false)) ∨ v.core.hasLine v.task.asid ((v.target off).toNat / 256) = true) →
    ∃ t, exec (.ipf off) s = .next t ∧ Retires (.ipf off) v s t v.nextPc v.group id) ∧
  (∀ (d n : Nat) (v : View) (s : State), Ready (.rdctr d n) v s →
    ∃ t g, exec (.rdctr d n) s = .next t ∧ Retires (.rdctr d n) v s t v.nextPc g id ∧ Kept v.group g v.fr [.s d] ∧
      g.sat = v.group.sat ∧
      (∀ cx blocks x, d ≠ 0 → Table.get? s.hub.ctxs v.task.ctx = some cx → cx.capture = some blocks →
        Table.get? v.core.sets v.task.ctx = some x →
        g.readS v.fr d = ⟨BitVec.ofNat 64 (x.counters.getD n 0).toNat, false⟩) ∧
      (∀ cx, d ≠ 0 → Table.get? s.hub.ctxs v.task.ctx = some cx →
        (cx.capture = none ∨ Table.get? v.core.sets v.task.ctx = none) →
        g.readS v.fr d = ⟨BitVec.ofNat 64 ((Table.getD v.core.lastCtr v.task.ctx []).getD n 0).toNat, false⟩))

/-- With no debug stop that matches and no halt that stands, ENTER puts its identifier on the split's pennant stack and
LEAVE takes the top one off, and nothing else changes but PC and account. The core holds the top 16 entries: an ENTER
on 16 or more puts the entry that leaves the core at 4 times its place in the spill area, where no other byte of
memory changes, and a LEAVE from more than 16 reads it back; where that area's page is not resident the group is held
with a record of kind 5 and the instruction, debited, stands at its PC (that it then goes on with no second debit is
log entry 17). A stop that matches halts the group after the ENTER or LEAVE has completed, and tells the host. ENTER
on a stack of 256 and LEAVE on an empty one enter the handler with cause 13. (R126, R302, R303, R304, R315, R325) -/
def Obligations.Regions : Prop :=
  (∀ (r : BitVec 24) (v : View) (s : State), Ready (.enter r) v s → v.split.ptop < 16 → NoStop v s r true →
    ∃ t, exec (.enter r) s = .next t ∧ Retires (.enter r) v s t v.nextPc (v.entered r) id) ∧
  (∀ (r : BitVec 24) (v : View) (s : State), Ready (.enter r) v s → 16 ≤ v.split.ptop → v.split.ptop < 256 →
    NoStop v s r true → s.areaMeets (pennantAreaOf v.sel.core v.sel.slot) (4 * (v.split.ptop - 16)) 4 = none →
    ∃ t, exec (.enter r) s = .next t ∧ t.tick = s.tick + 1 ∧ SameWorld s t ∧ OtherGroups v s t ∧ Debited v s t 1 ∧
      t.group? v.sel.core v.sel.slot = some (v.booked s v.nextPc (v.entered r)) ∧
      wordAt t.mem (areaPhys (pennantAreaOf v.sel.core v.sel.slot) + 4 * (v.split.ptop - 16)) 4 =
        (Table.getD v.group.pennants (v.split.ptop - 16) 0).toNat ∧
      ∀ a, ¬Within a (areaPhys (pennantAreaOf v.sel.core v.sel.slot) + 4 * (v.split.ptop - 16)) 4 →
        Memory.get t.mem a = Memory.get s.mem a) ∧
  (∀ (v : View) (s : State), Ready .leave v s → v.split.ptop ≠ 0 →
    (16 < v.split.ptop → s.areaMeets (pennantAreaOf v.sel.core v.sel.slot) (4 * (v.split.ptop - 17)) 4 = none) →
    NoStop v s (Table.getD v.group.pennants (v.split.ptop - 1) 0) false →
    ∃ t, exec .leave s = .next t ∧ Retires .leave v s t v.nextPc v.leftRegion id) ∧
  (∀ (i : Instr) (r : BitVec 24) (v : View) (s : State),
    (i = .enter r ∧ 16 ≤ v.split.ptop ∧ v.split.ptop < 256 ∨ i = .leave ∧ 16 < v.split.ptop) → Ready i v s →
    s.areaState (pennantAreaOf v.sel.core v.sel.slot) = some .absent →
    ∃ t, exec i s = .next t ∧ HeldForArea v s t (pennantAreaOf v.sel.core v.sel.slot)) ∧
  (∀ (r : BitVec 24) (cx : Ctx) (v : View) (s : State), Ready (.enter r) v s → v.split.ptop < 256 →
    (16 ≤ v.split.ptop → s.areaMeets (pennantAreaOf v.sel.core v.sel.slot) (4 * (v.split.ptop - 16)) 4 = none) →
    Table.get? s.hub.ctxs v.task.ctx = some cx → cx.debug = true → (∃ p ∈ cx.stops, p.region = r ∧ p.onEnter = true) →
    ∃ t e, exec (.enter r) s = .next t ∧ t.tick = s.tick + 1 ∧ OtherGroups v s t ∧ Debited v s t 1 ∧
      t.group? v.sel.core v.sel.slot = some (v.booked s v.nextPc (v.entered r)).stopped ∧
      t.hub = { s.hub with events := s.hub.events ++ [e] } ∧ e.kind = 7 ∧ e.payload.getD 2 0 = v.nextPc ∧
      (v.split.ptop < 16 → SameMemory s t)) ∧
  (∀ (cx : Ctx) (v : View) (s : State), Ready .leave v s → v.split.ptop ≠ 0 → v.split.ptop ≤ 16 →
    Table.get? s.hub.ctxs v.task.ctx = some cx → cx.debug = true →
    (∃ p ∈ cx.stops, p.region = Table.getD v.group.pennants (v.split.ptop - 1) 0 ∧ p.onLeave = true) →
    ∃ t e, exec .leave s = .next t ∧ t.tick = s.tick + 1 ∧ OtherGroups v s t ∧ Debited v s t 1 ∧ SameMemory s t ∧
      t.group? v.sel.core v.sel.slot = some (v.booked s v.nextPc v.leftRegion).stopped ∧
      t.hub = { s.hub with events := s.hub.events ++ [e] } ∧ e.kind = 7 ∧ e.payload.getD 2 0 = v.nextPc) ∧
  (∀ (i : Instr) (r : BitVec 24) (v : View) (s : State), (i = .enter r ∧ v.split.ptop = 256 ∨ i = .leave ∧ v.split.ptop = 0) →
    Ready i v s → HasHandler v →
    ∃ t, exec i s = .next t ∧ EntersHandler v s t 13 v.split.pc (BitVec.ofNat 64 (encode i)) ∧
      Refunded v s t)

/-- An encoded instruction that stands at its allowance check (shape and frame good, nothing to deliver, no register
pending, its granules or engine place there) and whose cost a metered task's allowance does not cover executes
nothing: its task records cause 1, the PC and the cost and keeps its units; under policy PARK it is STARVED and no
group changes, so that the same instruction stands to be checked again; under UNWIND it is UNWINDING with status
EXHAUSTED. (That xval holds the cost modulo 2^64 where a GRANT or SPAWN costs 2^64 or more is the model's choice,
DESIGN CHOICE, log entry 19.) (R31, R34, R39, R177, R188) -/
def Obligations.Exhaustion : Prop :=
  ∀ (i : Instr) (v : View) (s : State), i.isEncoded = true → Selected v s → shapeTrap v i = none →
    matrixDelivery v i = none → poisonDelivery v i = none → heldBack (s.core v.sel.core) v i = false → engineWaits v i = false →
    (∀ d, frameDemand v i = some d → v.core.requests = [] ∧ demandFits s v.sel.core d.1 d.2 = true) →
    v.split.paid = none → v.task.short (costOf v i) = true →
    ∃ t y, exec i s = .next t ∧ t.tick = s.tick + 1 ∧ Table.get? t.tasks v.tid = some y ∧ y.xcause = 1 ∧
      y.xpc = v.split.pc ∧ y.xval = BitVec.ofNat 64 (costOf v i) ∧ y.alw = v.task.alw ∧ y.consumed = v.task.consumed ∧
      (v.task.park = true → y.state = .starved ∧ ∀ c n, t.group? c n = s.group? c n) ∧
      (v.task.park = false → y.state = .unwinding ∧ y.xstat = 4)

/-- When nothing happens at once and the move chosen is the issue of one split whose PC lies on an executable page and
whose block is in the instruction cache, with a word that is not poisoned, the step is exec of the decoded instruction
at the state in which that split is selected, and exec of the illegal word where the word decodes to none. When the
move chosen is a step of the table, the step is exec of it. A poisoned word raises cause 2, a page that is not
executable cause 9, an unmapped one cause 6. Which of several possible moves is chosen is the model's free choice (log
entry 3). (R18, R40, R52, R125, R130, R131, R299) -/
def Obligations.StepRunsDecoded : Prop :=
  (∀ (s s' : State) (sel : Sel) (v : View) (p : Page) (l : ILine), urgent s = none → choose s = (.issue [[sel]], s') →
    (s'.chosen sel).view? = some v → codePage s' v.task.asid v.split.pc.toNat = some p → p.x = true →
    (s'.core sel.core).unseen p = false → (s'.core sel.core).line v.task.asid v.split.pc.toNat = some l →
    l.poison.getD (v.split.pc.toNat % 256 / 4) false = false →
    (∀ i, decodeWord (l.wordAt v.split.pc.toNat) = some i → step s = exec i (s'.chosen sel)) ∧
    (decodeWord (l.wordAt v.split.pc.toNat) = none →
      step s = exec (.illegalInstruction (BitVec.ofNat 32 (l.wordAt v.split.pc.toNat))) (s'.chosen sel))) ∧
  (∀ (s s' : State) (sel : Sel) (v : View) (p : Page) (l : ILine), urgent s = none → choose s = (.issue [[sel]], s') →
    (s'.chosen sel).view? = some v → codePage s' v.task.asid v.split.pc.toNat = some p → p.x = true →
    (s'.core sel.core).unseen p = false → (s'.core sel.core).line v.task.asid v.split.pc.toNat = some l →
    l.poison.getD (v.split.pc.toNat % 256 / 4) false = true →
    step s = .next (takeTrap sel 2 v.split.pc (s'.chosen sel)).endCycle) ∧
  (∀ (s s' : State) (i : Instr), urgent s = none → choose s = (.row i, s') → step s = exec i s') ∧
  (∀ (s s' : State) (sel : Sel) (v : View), urgent s = none → choose s = (.issue [[sel]], s') →
    (s'.chosen sel).view? = some v →
    (codePage s' v.task.asid v.split.pc.toNat = none →
      step s = .next (takeTrap sel 6 v.split.pc (s'.chosen sel)).endCycle) ∧
    (∀ p, codePage s' v.task.asid v.split.pc.toNat = some p → p.x = false →
      step s = .next (takeTrap sel 9 v.split.pc (s'.chosen sel)).endCycle)) ∧
  (∀ s s' : State, urgent s = some s' → step s = .next s')

/-- From every state whose memory is in canonical form (addresses rising, no byte listed that reads as an unlisted one
does), every step that answers a next state leaves memory in canonical form. The form is the model's own: equal
memories are equal data. (R8, R198) -/
def Obligations.MemoryCanonical : Prop :=
  ∀ s t : State, Memory.wf s.mem = true → step s = .next t → Memory.wf t.mem = true

/-- A split whose count at its MEET has run out while another of its origin has not arrived goes on alone after the MEET.
Two ready entries at one PC in one frame become one with both masks, no split waiting at a MEET. With fewer than eight
resident entries the most recently spilled comes back at the old end; after 1,024 opportunities the entry at the head
rotates in and the oldest resident one goes to the tail. The first waiting group of a side takes a free place of the
active set, that of an active group without a ready split, or that of the one admitted first once it has had its place
long enough; one group a side and cycle. A refill or rotation that meets a spill area whose page is not resident
leaves the group held, with a record of kind 5. A requested block of a resident executable page comes into the cache
byte by byte, in place of another where the cache holds 512, and the splits that missed it go on. What a core chooses
for one cycle is one choice a side, at most two, each splits of one group, one to four, in ascending order of lowest
lane, and no two have a lane in one slice of four. (What a fused entry keeps beside mask, place, ptop and origin,
which group without a ready split gives up its place and which line leaves the cache are the model's: DESIGN CHOICE,
log entries 55 and 9; that a refill or rotation takes the entry from the model's own record and not from the spill
area's bytes, and where the area lies, is log entry 17, DESIGN CHOICE.) No register and no byte of memory below the
range that firmware keeps changes. (R4, R120, R121, R124, R125, R126, R130, R131, R134, R108, R132, R133) -/
def Obligations.CoreSteps : Prop :=
  (∀ (s : State) (sides : List (List Sel)), sides ∈ issueChoices s → sides ≠ [] ∧ sides.length ≤ 2 ∧
    sides.Pairwise (fun a b => ∀ x ∈ a, ∀ y ∈ b, x.core = y.core ∧ x.slot % 2 ≠ y.slot % 2) ∧
    ∀ sels ∈ sides, sels ≠ [] ∧ sels.length ≤ 4 ∧ ∃ (c slot : Nat) (g : Group), s.group? c slot = some g ∧
      (∀ sel ∈ sels, sel.core = c ∧ sel.slot = slot ∧ (g.splits[sel.idx]?).isSome = true) ∧
      sels.Pairwise (fun a b => ∀ p q, g.splits[a.idx]? = some p → g.splits[b.idx]? = some q →
        lowLane p.mask ≤ lowLane q.mask ∧
        ∀ i j, i < 32 → j < 32 → i / 4 = j / 4 → ¬(p.mask.getLsbD i = true ∧ q.mask.getLsbD j = true))) ∧
  (∀ (s : State) (c slot n : Nat) (g : Group) (sp : Split), s.group? c slot = some g → g.splits[n]? = some sp →
    sp.state = .meet → g.held = false → sp.mrem ≤ s.cyc c - sp.mfrom → (∃ y ∈ g.entries, g.ofOrigin sp.origin y = true ∧ arrived sp y = false) →
    ∃ t g' sp', exec (.meetBoundExpiry c slot n) s = .next t ∧ t.tick = s.tick ∧ SameMemory s t ∧ t.tasks = s.tasks ∧
      t.group? c slot = some g' ∧ (∀ fr r, SameReg g g' fr r) ∧ g'.spilled = g.spilled ∧ g'.splits[n]? = some sp' ∧
      sp'.pc = sp.meet + 4 ∧ sp'.mask = sp.mask ∧ sp'.state = (if g.handler && !sp.inHandler then .frozen else .ready) ∧
      ∀ m, m ≠ n → g'.splits[m]? = g.splits[m]?) ∧
  (∀ (s : State) (c slot i j : Nat) (g : Group) (a b : Split), s.group? c slot = some g → g.splits[i]? = some a →
    g.splits[j]? = some b → i < j → g.held = false → a.state = .ready → b.state = .ready → a.pc = b.pc →
    a.frame = b.frame → a.inHandler = b.inHandler → (∀ sp ∈ g.entries, sp.state ≠ .meet) →
    ∃ t g', exec (.splitFusion c slot i j) s = .next t ∧ t.tick = s.tick ∧ (g.spilled = [] → SameMemory s t) ∧
      (∀ x, ¬Within x (areaPhys (splitAreaOf c slot)) 832 → Memory.get t.mem x = Memory.get s.mem x) ∧ t.tasks = s.tasks ∧
      t.group? c slot = some g' ∧ (∀ fr r, SameReg g g' fr r) ∧
      g'.splits.map Split.sansOrigin = changeAt (dropAt (g.splits.map Split.sansOrigin) j) i (fun x => { x with
        mask := a.mask ||| b.mask, missing := a.missing || b.missing
        paid := fusePaid a.paid b.paid, stop := fuseStop a.stop b.stop
        ptop := if lowLane a.mask < lowLane b.mask then a.ptop else b.ptop })) ∧
  (∀ (s : State) (c slot : Nat) (g : Group) (l : List Split) (sp : Split), s.group? c slot = some g → g.splits.length < 8 →
    g.spilled = l ++ [sp] → g.refillAt ≤ s.cyc c → g.stall = false → s.areaState (splitAreaOf c slot) = none →
    ∃ t g', exec (.splitRefill c slot) s = .next t ∧ t.tick = s.tick ∧ t.tasks = s.tasks ∧ t.group? c slot = some g' ∧
      (∀ fr r, SameReg g g' fr r) ∧ g'.splits = { sp with mfrom := s.cyc c, lastIssue := 0 } :: g.splits ∧ g'.spilled = l ∧
      g'.opps = 0 ∧ g'.refillAt = s.cyc c + 1 ∧ ∀ a, a < Config.reservedBase → Memory.get t.mem a = Memory.get s.mem a) ∧
  (∀ (s : State) (c slot : Nat) (i : Instr) (g : Group), s.group? c slot = some g → g.spilled ≠ [] → g.stall = false →
    (i = .splitRefill c slot ∧ g.splits.length < 8 ∧ g.refillAt ≤ s.cyc c ∨
      i = .splitRotation c slot ∧ 1024 ≤ g.opps ∧ g.splits ≠ []) → s.areaState (splitAreaOf c slot) = some .absent →
    ∃ t, exec i s = .next t ∧ MoveHeld s t c slot (splitAreaOf c slot) 5 g) ∧
  (∀ (s : State) (c slot : Nat) (g : Group) (h sp : Split) (hs rest : List Split), s.group? c slot = some g →
    1024 ≤ g.opps → g.spilled = h :: hs → g.splits = sp :: rest → g.stall = false →
    s.areaState (splitAreaOf c slot) = none →
    ∃ t g', exec (.splitRotation c slot) s = .next t ∧ t.tick = s.tick ∧ t.tasks = s.tasks ∧ t.group? c slot = some g' ∧
      (∀ fr r, SameReg g g' fr r) ∧ g'.splits = { h with mfrom := s.cyc c, lastIssue := 0 } :: rest ∧
      g'.spilled = hs ++ [if sp.state = .meet then
        { sp with mrem := sp.mrem - (s.cyc c - sp.mfrom), mfrom := s.cyc c } else sp] ∧
      g'.head = (g.head + 1) % 24 ∧ g'.opps = 0 ∧ ∀ a, a < Config.reservedBase → Memory.get t.mem a = Memory.get s.mem a) ∧
  (∀ (s : State) (c side slot : Nat), (waitingGroups (s.core c)).find? (fun x => decide (x % 2 = side)) = some slot →
    (∀ a ∈ (s.core c).active, a.1 % 2 = side → a.2 ≠ s.cyc c) →
    ((s.core c).active.filter (fun a => decide (a.1 % 2 = side))).length < 8 →
    ∃ t, exec (.activeSetAdmit c side) s = .next t ∧ t.tick = s.tick ∧ SameMemory s t ∧ t.tasks = s.tasks ∧
      (∀ n, t.group? c n = s.group? c n) ∧ (t.core c).active = (s.core c).active ++ [(slot, s.cyc c)] ∧
      slot ∉ (t.core c).waiting) ∧
  (∀ (s : State) (c side slot : Nat) (old : Nat × Nat),
    (waitingGroups (s.core c)).find? (fun x => decide (x % 2 = side)) = some slot →
    (∀ a ∈ (s.core c).active, a.1 % 2 = side → a.2 ≠ s.cyc c) →
    8 ≤ ((s.core c).active.filter (fun a => decide (a.1 % 2 = side))).length →
    ((s.core c).active.filter (fun a => decide (a.1 % 2 = side))).find? (fun a => match Table.get? (s.core c).groups a.1 with
      | some g => !g.anyReady
      | none => true) = some old →
    ∃ t, exec (.activeSetAdmit c side) s = .next t ∧ SameMemory s t ∧ (∀ n, t.group? c n = s.group? c n) ∧
      (t.core c).active = (s.core c).active.filter (fun a => decide (a.1 ≠ old.1)) ++ [(slot, s.cyc c)]) ∧
  (∀ (s : State) (c side slot : Nat) (old : Nat × Nat),
    (waitingGroups (s.core c)).find? (fun x => decide (x % 2 = side)) = some slot →
    (∀ a ∈ (s.core c).active, a.1 % 2 = side → a.2 ≠ s.cyc c) →
    8 ≤ ((s.core c).active.filter (fun a => decide (a.1 % 2 = side))).length →
    (∀ a ∈ (s.core c).active, a.1 % 2 = side → ∃ g, Table.get? (s.core c).groups a.1 = some g ∧ g.anyReady = true) →
    old ∈ (s.core c).active → old.1 % 2 = side → old.2 + Config.activeHold ≤ s.cyc c →
    (∀ a ∈ (s.core c).active, a.1 % 2 = side → a = old ∨ old.2 < a.2 ∨ (old.2 = a.2 ∧ old.1 < a.1)) →
    ∃ t, exec (.activeSetAdmit c side) s = .next t ∧ SameMemory s t ∧ (∀ n, t.group? c n = s.group? c n) ∧
      (t.core c).active = (s.core c).active.filter (fun a => decide (a.1 ≠ old.1)) ++ [(slot, s.cyc c)]) ∧
  (∀ (s : State) (c n asid block : Nat) (p : Page), (s.core c).fills[n]? = some (asid, block) →
    codePage s asid (block * 256) = some p → p.x = true → p.res = true →
    p.pa + (block * 256 - p.va) + 256 ≤ Config.mereBase →
    ∃ t l, exec (.icacheLineFill c n) s = .next t ∧ t.tick = s.tick ∧ SameMemory s t ∧ t.tasks = s.tasks ∧
      (t.core c).fills = dropAt (s.core c).fills n ∧
      ((s.core c).ilines.length < 512 → (t.core c).ilines = (s.core c).ilines ++ [l]) ∧
      (512 ≤ (s.core c).ilines.length → ∃ k, k < (s.core c).ilines.length ∧
        (t.core c).ilines = dropAt (s.core c).ilines k ++ [l]) ∧ l.asid = asid ∧
      (∀ c' slot g, s.group? c' slot = some g → ∃ g', t.group? c' slot = some g' ∧ ∀ fr r, SameReg g g' fr r) ∧
      l.block = block ∧ (∀ k, k < 256 → l.bytes[k]? = some (Memory.get s.mem (p.pa + (block * 256 - p.va) + k))) ∧
      ∀ slot g x sp, t.group? c slot = some g → Table.get? s.tasks g.task = some x → x.asid = asid → sp ∈ g.entries →
        sp.pc.toNat / 256 = block → sp.missing = false)

/-- When the core cannot go on for want of granules its victim stops: it issues nothing, its requests are withdrawn and
kept, its places in the Tarn and on channels are given up, and no register changes. When its returns have landed, its
frames leave the register file: their bytes stand in its spill area, its scalar granules advance their generations,
and no register value is lost. The first victim that fits and that no earlier one holds back takes new granules: its
group is back with its group-global registers as they were, each frame with its registers, return PC and depth, and
its requests stand again. Where the spill area's page is not resident, a spill or refill leaves the victim held, with
a record of kind 6; a poisoned unit of the area ends the context LOST at the refill. (Where the area lies, and that a
refill takes the registers from the model's own record and not from the area's bytes, is log entry 17, DESIGN CHOICE;
that a victim stops first and is written out once its returns have landed is log entry 33, DEDUCED.) (R126, R129,
R286, R287, R288, R296) -/
def Obligations.Escapes : Prop :=
  (∀ (s : State) (c slot : Nat) (g : Group), (s.core c).inReset = false → escapeNeeded s c = true →
    (∀ e ∈ (s.core c).groups, e.2.leaving = false) → escapeVictim s c = some (slot, g) → s.group? c slot = some g →
    ∃ t g', exec (.escapeSpill c) s = .next t ∧ t.tick = s.tick ∧ SameMemory s t ∧ OthersOf c slot s t ∧
      t.group? c slot = some g' ∧ g'.leaving = true ∧ g'.out = g.out ∧ (∀ fr r, SameReg g g' fr r) ∧
      g'.splits.map Split.pc = g.splits.map Split.pc ∧ (t.core c).sgen = (s.core c).sgen ∧
      (t.core c).requests = (s.core c).requests.filter (fun r => decide (r.slot ≠ slot)) ∧
      (∃ v ∈ (t.core c).victims, v.slot = slot ∧
        v.requests = (s.core c).requests.filter (fun r => decide (r.slot = slot))) ∧
      ∀ sp ∈ g.entries, withdrawnWait sp.wait = true → ∀ w ∈ t.tarn, w.user ≠ .split c slot (lowLane sp.mask)) ∧
  (∀ (s : State) (c slot : Nat) (g : Group), (s.core c).inReset = false →
    (s.core c).groups.find? (fun e => e.2.leaving) = some (slot, g) → s.group? c slot = some g →
    loadsLanded (s.core c) slot true = true → g.stall = false → s.areaState (frameAreaOf c slot) = none →
    (Table.keys g.frames).Nodup →
    ∃ t g', exec (.escapeSpill c) s = .next t ∧ t.tick = s.tick ∧ t.group? c slot = some g' ∧ g'.out = true ∧
      g'.leaving = false ∧ (∀ fr r, SameReg g g' fr r) ∧
      (∀ fr ∈ Table.keys g.frames, (t.core c).sgenOf fr = (s.core c).sgenOf fr + 1) ∧
      (∀ v ∈ (t.core c).victims, v.slot = slot → v.since = s.cyc c ∧ v.gens = leftGens (s.core c) g) ∧
      (∀ k, k < (frameAreaBytes g (leftGens (s.core c) g)).length →
        Memory.get t.mem (areaPhys (frameAreaOf c slot) + k) = (frameAreaBytes g (leftGens (s.core c) g)).getD k 0) ∧
      ∀ a, a < Config.reservedBase → Memory.get t.mem a = Memory.get s.mem a) ∧
  (∀ (s : State) (c slot : Nat) (g : Group), (s.core c).inReset = false →
    (s.core c).groups.find? (fun e => e.2.leaving) = some (slot, g) → s.group? c slot = some g →
    loadsLanded (s.core c) slot true = true → g.stall = false → s.areaState (frameAreaOf c slot) = some .absent →
    ∃ t, exec (.escapeSpill c) s = .next t ∧ MoveHeld s t c slot (frameAreaOf c slot) 6 g) ∧
  (∀ (s : State) (c : Nat) (x : Victim) (g : Group), (s.core c).victims.find? (mayRefill s c) = some x →
    s.group? c x.slot = some g → (Table.keys g.frames).Nodup → g.stall = false →
    s.areaState (frameAreaOf c x.slot) = none →
    s.poisonIn (areaPhys (frameAreaOf c x.slot)) (frameAreaBytes g x.gens).length = false →
    (∀ sp ∈ g.entries, withdrawnWait sp.wait = false) →
    ∃ t g', exec (.escapeRefill c) s = .next t ∧ t.tick = s.tick ∧ SameMemory s t ∧ t.tasks = s.tasks ∧
      t.group? c x.slot = some g' ∧ g'.out = false ∧ g'.s = g.s ∧ g'.v = g.v ∧ g'.p = g.p ∧ g'.tiles = g.tiles ∧
      g'.accs = g.accs ∧ (∀ n, groupSpecial g' n = groupSpecial g n) ∧
      (∀ e ∈ g.frames, ∃ f ∈ g'.frames, f.2.v = e.2.v ∧ f.2.s = e.2.s ∧ f.2.retPc = e.2.retPc ∧ f.2.depth = e.2.depth ∧
        f.2.grans.length = e.2.grans.length) ∧
      x ∉ (t.core c).victims ∧ (∀ r ∈ x.requests, r ∈ (t.core c).requests)) ∧
  (∀ (s : State) (c : Nat) (x : Victim) (g : Group), (s.core c).victims.find? (mayRefill s c) = some x →
    s.group? c x.slot = some g → g.stall = false →
    s.poisonIn (areaPhys (frameAreaOf c x.slot)) (frameAreaBytes g x.gens).length = true →
    exec (.escapeRefill c) s = .next (loseContext (s.ctxOf c x.slot) s)) ∧
  (∀ (s : State) (c : Nat) (x : Victim) (g : Group), (s.core c).victims.find? (mayRefill s c) = some x →
    s.group? c x.slot = some g → g.stall = false → s.areaState (frameAreaOf c x.slot) = some .absent →
    s.poisonIn (areaPhys (frameAreaOf c x.slot)) (frameAreaBytes g x.gens).length = false →
    ∃ t, exec (.escapeRefill c) s = .next t ∧ MoveHeld s t c x.slot (frameAreaOf c x.slot) 6 g)

/-- The first record that waits takes a free place of the ring with the next sequence number, its 64 bytes stand there in
memory, and a TOUCH it held goes on. The oldest record of the ring, or before it one whose copy from a backing has
stopped because its page was mapped anew, gets its reply at once where its page is resident and no copy or row load
asks more, starts a copy of a page that has a backing, and is forwarded as an event of kind 1 where nothing backs the
page, once the event ring has a place and no event stands before it: until then it stays in the fault ring. A record
of a spill area brings the area back, and its reply lets the group's move be made again. A copy that ends leaves its
page resident with the bytes of its backing, and each record on it gets its reply. A reply that is not the last of its
split's access is counted; the last one of a fetch lets the split fetch again, of a store sends the store on its way,
with the operands recorded at its issue (the model's reading, DEDUCED, log entry 46), and of a hub copy lets the copy
go on. How many places the ring has and where it lies are the model's free choices (log entries 11 and 17). (R211,
R212, R214, R298, R325, R326, R334) -/
def Obligations.FaultService : Prop :=
  (∀ (s : State) (r : FaultRec) (rest : List FaultRec), s.hub.recWait = r :: rest →
    s.hub.ring.length ≤ Config.faultRingPlaces →
    ∃ t, exec .faultRingRoom s = .next t ∧ t.tick = s.tick ∧ SameButRing s t ∧ t.tasks = s.tasks ∧ t.hub.recWait = rest ∧
      t.hub.ring = s.hub.ring ++ [{ r with seq := s.hub.recSeq }] ∧ t.hub.recSeq = (s.hub.recSeq + 1) % 2 ^ 32 ∧
      (let at' := areaPhys ringArea + 64 * (s.hub.recSeq % ringPlaces);
        wordAt t.mem at' 8 = r.va % 2 ^ 56 ∧ wordAt t.mem (at' + 24) 4 = r.mask.toNat ∧
        wordAt t.mem (at' + 48) 8 = r.cyc.toNat ∧ wordAt t.mem (at' + 56) 8 = s.hub.recSeq % 2 ^ 64 ∧
        ∀ a, ¬Within a at' 64 → Memory.get t.mem a = Memory.get s.mem a) ∧
      (∀ g sp, r.kind = 4 → (s.core r.core).ggenOf r.slot = r.ggen → s.group? r.core r.slot = some g →
        g.atLane r.lane = some sp → sp.wait = .touch → ∃ g' sp', t.group? r.core r.slot = some g' ∧
          (∀ fr q, SameReg g g' fr q) ∧ g'.atLane r.lane = some sp' ∧ sp'.pc = sp.pc + 4 ∧ sp'.wait = .none)) ∧
  (∀ (s : State) (r : FaultRec) (rest : List FaultRec) (p : Page), s.hub.anew = [] → s.hub.ring = r :: rest →
    findPage s r.asid r.va = some p → p.res = true → r.isArea = false → r.core ≠ 0x1FF → r.kind ≠ 7 → r.kind ≠ 8 →
    ∃ t, exec .faultRecordService s = .next t ∧ SameDevice s t ∧ t.mem = s.mem ∧
      t.hub = { s.hub with ring := rest, replies := s.hub.replies ++ [r] }) ∧
  (∀ (s : State) (r : FaultRec) (rest : List FaultRec) (p : Page), s.hub.anew = r :: rest →
    findPage s r.asid r.va = some p → p.res = true → r.isArea = false → r.core ≠ 0x1FF → r.kind ≠ 7 → r.kind ≠ 8 →
    ∃ t, exec .faultRecordService s = .next t ∧ SameDevice s t ∧ t.mem = s.mem ∧
      t.hub = { s.hub with anew := rest, replies := s.hub.replies ++ [r] }) ∧
  (∀ (s : State) (r : FaultRec) (rest : List FaultRec) (p : Page) (b : Nat), s.hub.anew = [] → s.hub.ring = r :: rest →
    findPage s r.asid r.va = some p → r.isArea = false → p.res = false → p.back = some b →
    ∃ t, exec .faultRecordService s = .next t ∧ SameDevice s t ∧ t.mem = s.mem ∧
      t.hub = { s.hub with
        ring := rest
        taken := s.hub.taken ++ [r]
        backing := if (p.asid, p.va) ∈ s.hub.backing then s.hub.backing else s.hub.backing ++ [(p.asid, p.va)] }) ∧
  (∀ (s : State) (r : FaultRec) (rest : List FaultRec), s.hub.anew = [] → s.hub.ring = r :: rest → r.isArea = false →
    (findPage s r.asid r.va = none ∨ ∃ p, findPage s r.asid r.va = some p ∧ p.res = false ∧ p.back = none) →
    (s.hub.events = [] → eventSlot s.hub + 8 ≤ Config.mereBase → wordAt s.mem (eventSlot s.hub) 8 < 2 ^ 63 →
      ∃ t e, exec .faultRecordService s = .next t ∧ SameDevice s t ∧ t.mem = s.mem ∧ e.kind = 1 ∧
        e.payload.take 3 = [BitVec.ofNat 64 (r.va % 2 ^ 56),
          BitVec.ofNat 64 (r.kind + r.asid * 2 ^ 8 + r.core * 2 ^ 32 + r.slot * 2 ^ 48 + r.pennants.length * 2 ^ 56),
          BitVec.ofNat 64 (r.ctx + r.lane * 2 ^ 32 + r.ggen.toNat * 2 ^ 40)] ∧
        t.hub = { s.hub with ring := rest, taken := s.hub.taken ++ [r], events := [e] }) ∧
    (s.hub.events ≠ [] ∨ (eventSlot s.hub + 8 ≤ Config.mereBase ∧ 2 ^ 63 ≤ wordAt s.mem (eventSlot s.hub) 8) →
      exec .faultRecordService s = .fault .notEnabled)) ∧
  (∀ (s : State) (r : FaultRec) (rest : List FaultRec), s.hub.anew = [] → s.hub.ring = r :: rest → r.isArea = true →
    ∃ t, exec .faultRecordService s = .next t ∧ SameDevice s t ∧ t.mem = s.mem ∧
      t.hub.ring = rest ∧ t.hub.replies = s.hub.replies ++ [r] ∧ t.areaState r.op ≠ some .absent ∧
      ∀ n, n ≠ r.op → t.areaState n = s.areaState n) ∧
  (∀ (s : State) (n asid va b : Nat) (p : Page), s.hub.backing[n]? = some (asid, va) →
    s.hub.pages.find? (fun q => decide (q.asid = asid) && decide (q.va = va)) = some p → p.back = some b → p.res = false →
    Memory.wf s.mem = true →
    ∃ t, exec (.backingCopyComplete n) s = .next t ∧ t.tick = s.tick ∧ t.cores = s.cores ∧ t.tasks = s.tasks ∧
      t.hub.backing = dropAt s.hub.backing n ∧
      (∀ k, k < pageBytes p.size → Memory.get t.mem (p.pa + k) = Memory.get s.mem (b + k)) ∧
      (∀ a, ¬Within a p.pa (pageBytes p.size) → Memory.get t.mem a = Memory.get s.mem a) ∧
      t.hub.pages.find? (fun q => decide (q.asid = asid) && decide (q.va = va)) = some { p with res := true } ∧
      ∀ r ∈ s.hub.taken, findPage s r.asid r.va = some p → r.isArea = false → r.core ≠ 0x1FF →
        r.kind ≠ 7 → r.kind ≠ 8 → r ∈ t.hub.replies ∧ r ∉ t.hub.taken) ∧
  (∀ (s : State) (n k : Nat) (r : FaultRec) (o : HubOp) (d sr : W64) (len : Nat), s.hub.replies[n]? = some r →
    r.core = 0x1FF → o ∈ s.hub.ops → o.id = r.op → o.wait = .copy d sr len (k + 1) →
    ∃ t, exec (.faultReply n) s = .next t ∧ SameDevice s t ∧ t.mem = s.mem ∧ t.hub.replies = dropAt s.hub.replies n ∧
      { o with wait := .copy d sr len k } ∈ t.hub.ops) ∧
  (∀ (s : State) (n : Nat) (r : FaultRec) (g : Group), s.hub.replies[n]? = some r → r.isArea = true → r.core ≠ 0x1FF →
    (s.core r.core).inReset = false → s.group? r.core r.slot = some g → (s.core r.core).ggenOf r.slot = r.ggen →
    s.savingAt r.core r.slot = false →
    ∃ t, exec (.faultReply n) s = .next t ∧ t.tick = s.tick ∧ SameMemory s t ∧ t.tasks = s.tasks ∧
      t.hub.replies = dropAt s.hub.replies n ∧ t.group? r.core r.slot = some { g with stall := false } ∧
      OthersOf r.core r.slot s t) ∧
  (∀ (s : State) (n : Nat) (r : FaultRec) (g : Group) (sp : Split) (w : Who) (a : Access) (m : Nat),
    s.hub.replies[n]? = some r → r.core ≠ 0x1FF → r.isArea = false → r.kind ≠ 7 → r.kind ≠ 8 →
    (s.core r.core).inReset = false → s.group? r.core r.slot = some g → (s.core r.core).ggenOf r.slot = r.ggen →
    g.out = false → g.leaving = false → s.savingAt r.core r.slot = false →
    g.atLane r.lane = some sp → whoOfLane s r.core r.slot r.lane = some w →
    (sp.wait = .fetch 1 → r.kind = 3 → ∃ t g' sp', exec (.faultReply n) s = .next t ∧ t.tick = s.tick ∧ SameMemory s t ∧
      t.hub.replies = dropAt s.hub.replies n ∧ t.group? r.core r.slot = some g' ∧ (∀ fr q, SameReg g g' fr q) ∧
      g'.atLane r.lane = some sp' ∧ sp'.pc = sp.pc ∧ sp'.wait = .none ∧
      sp'.state = (if g.handler && !sp.inHandler then .frozen else .ready)) ∧
    (sp.wait = .faults (m + 2) a → accessKind a.instr = r.kind → ∃ t g' sp', exec (.faultReply n) s = .next t ∧
      SameMemory s t ∧ t.group? r.core r.slot = some g' ∧ (∀ fr q, SameReg g g' fr q) ∧ g'.atLane r.lane = some sp' ∧
      sp'.wait = .faults (m + 1) a ∧ sp'.state = .parked ∧ sp'.pc = sp.pc) ∧
    (∀ x, sp.wait = .faults 1 a → isStore a.instr = true → r.kind = 0 → Table.get? s.tasks g.task = some x →
      x.state = .running → (s.core r.core).outstanding < Config.requests → accessTrap s w a = none → accessAbsent s w a = [] →
      ∃ t g' sp', exec (.faultReply n) s = .next t ∧ SameMemory s t ∧ t.tasks = s.tasks ∧
        (t.core r.core).stores = (s.core r.core).stores ++ [⟨w, storeCells s w a, (s.core r.core).epoch, s.tick⟩] ∧
        t.group? r.core r.slot = some g' ∧ (∀ fr q, SameReg g g' fr q) ∧ g'.atLane r.lane = some sp' ∧
        sp'.pc = sp.pc + 4 ∧ sp'.wait = .none))

/-- An uncorrectable error of a 64-byte unit of memory poisons that unit alone, and where the unit holds a save image or a
spill area ends the context that owns it as LOST, of a scalar that scalar alone, of a lane that lane alone, of a
predicate, a tile unit, an accumulator quarter or a channel slot's lane that one alone; a lost instruction-cache line
leaves the cache, and a translation entry costs nothing. An error of a page-table entry, a tag or a directory entry
ends every ASID with a page there as LOST, with an event of kind 5; one of a Tarn entry, a sweep's counter, a save
image or a spill area ends the context that owns it as LOST; one of a core's control structures resets the core. A
core that returns to service counts from 0, and an event of kind 4 tells of it. The alarm is kept with an event of
kind 2, and the policy decides whether the device halts and is zeroised. A watchdog restart replays an update whose
journal word stands (head, slot and journal, of a packet queue and of the admin queue, of the latter also where aen
has become 0 or admq names another block since) and is kept with an event of kind 3. Which units an error can poison
is log entry 44; that started packets go on over a restart is log entry 36. Bring-up ends with ready 1, provisioning
ends the zeroised state, and a core that lowers its clock changes no count and no result. (R279, R283, R284, R285,
R325, R335, R336, R338, R339, R340, R341) -/
def Obligations.ErrorsAndFirmware : Prop :=
  (∀ (s : State) (pa : Nat), pa < Config.reservedEnd → areaContexts s pa = [] →
    ∃ t, exec (.uncorrectableError (.memory pa)) s = .next t ∧ t = { s with poison := t.poison } ∧
      ∀ u, u ∈ t.poison ↔ u ∈ s.poison ∨ u = pa / 64) ∧
  (∀ (s : State) (pa ctx : Nat), pa < Config.reservedEnd → ctx ∈ areaContexts s pa → (∀ x ∈ areaContexts s pa, x = ctx) →
    ∃ t, exec (.uncorrectableError (.memory pa)) s = .next t ∧ t.tick = s.tick ∧
      RootsEnd s t (fun x => x.ctx = ctx) 5) ∧
  (∀ (s : State) (c slot fr n : Nat) (g : Group), s.group? c slot = some g → 0 < n → n < 64 →
    (n < 32 ∨ (Table.get? g.frames fr).isSome = true) →
    ∃ t g', exec (.uncorrectableError (.scalar c slot fr n)) s = .next t ∧ t.tick = s.tick ∧ SameMemory s t ∧
      t.group? c slot = some g' ∧ (∀ fr' r, ¬(r = .s n ∧ (r.frameLocal = true → fr' = fr)) → SameReg g g' fr' r) ∧
      g'.readS fr n = ⟨(g.readS fr n).val, true⟩) ∧
  (∀ (s : State) (c slot fr n k : Nat) (g : Group), s.group? c slot = some g → k < 32 → 120 ≤ n → n < 128 →
    ∃ t g', exec (.uncorrectableError (.vlane c slot fr n k)) s = .next t ∧ SameMemory s t ∧ t.group? c slot = some g' ∧
      (∀ fr' r, r ≠ .v n → SameReg g g' fr' r) ∧ g'.lanes fr n = g.lanes fr n ∧
      ∀ j, j < 32 → (g'.readV fr n).poison.getLsbD j = ((g.readV fr n).poison.getLsbD j || decide (j = k))) ∧
  (∀ (s : State) (c slot fr n k : Nat) (g : Group), s.group? c slot = some g → k < 32 → n < 120 →
    (Table.get? g.frames fr).isSome = true → n < 8 * (g.frame fr).grans.length →
    ∃ t g', exec (.uncorrectableError (.vlane c slot fr n k)) s = .next t ∧ SameMemory s t ∧ t.group? c slot = some g' ∧
      (∀ fr' r, ¬(r = .v n ∧ fr' = fr) → SameReg g g' fr' r) ∧ g'.lanes fr n = g.lanes fr n ∧
      ∀ j, j < 32 → (g'.readV fr n).poison.getLsbD j = ((g.readV fr n).poison.getLsbD j || decide (j = k))) ∧
  (∀ (s : State) (c slot n : Nat) (g : Group), s.group? c slot = some g → n < 16 →
    ∃ t g', exec (.uncorrectableError (.pred c slot n)) s = .next t ∧ SameMemory s t ∧ t.group? c slot = some g' ∧
      (∀ fr r, r ≠ .p n → SameReg g g' fr r) ∧ g'.readP n = ⟨(g.readP n).val, true⟩) ∧
  (∀ (s : State) (c slot n u : Nat) (g : Group), s.group? c slot = some g → (Table.get? g.tiles n).isSome = true → u < 24 →
    ∃ t g', exec (.uncorrectableError (.tileUnit c slot n u)) s = .next t ∧ SameMemory s t ∧ t.group? c slot = some g' ∧
      (∀ fr r, r ≠ .t n → SameReg g g' fr r) ∧ (g'.readT n).bytes = (g.readT n).bytes ∧
      ∀ j, j < 24 → (g'.readT n).poison.getLsbD j = ((g.readT n).poison.getLsbD j || decide (j = u))) ∧
  (∀ (s : State) (c slot n q : Nat) (g : Group), s.group? c slot = some g → (Table.get? g.accs n).isSome = true → q < 4 →
    ∃ t g', exec (.uncorrectableError (.accQuarter c slot n q)) s = .next t ∧ SameMemory s t ∧ t.group? c slot = some g' ∧
      (∀ fr r, (∀ k, r ≠ .a n k) → SameReg g g' fr r) ∧ (g'.readA n).vals = (g.readA n).vals ∧
      (g'.readA n).elem = (g.readA n).elem ∧
      ∀ j, j < 4 → (g'.readA n).poison.getLsbD j = ((g.readA n).poison.getLsbD j || decide (j = q))) ∧
  (∀ (s : State) (tid ch i k : Nat) (x : Task), Table.get? s.tasks tid = some x → i < (chanOf x ch).full.length → k < 32 →
    ∃ t y, exec (.uncorrectableError (.chanLane tid ch i k)) s = .next t ∧ SameMemory s t ∧ t.cores = s.cores ∧
      Table.get? t.tasks tid = some y ∧ (chanOf y ch).full.map VReg.lanes = (chanOf x ch).full.map VReg.lanes ∧
      ∀ e r, (chanOf x ch).full[e]? = some r → ∃ r', (chanOf y ch).full[e]? = some r' ∧
        ∀ j, j < 32 → r'.poison.getLsbD j = (r.poison.getLsbD j || (decide (e = i) && decide (j = k)))) ∧
  (∀ (s : State) (asid va : Nat) (p : Page), findPage s asid va = some p →
    ∃ t, exec (.uncorrectableError (.pageTable asid va)) s = .next t ∧ t.tick = s.tick ∧
      AsidsLost s t p.pa (pageBytes p.size) 0) ∧
  (∀ (s : State) (pa : Nat), pa < Config.reservedEnd →
    (∃ t, exec (.uncorrectableError (.dieTag pa)) s = .next t ∧ t.tick = s.tick ∧ AsidsLost s t pa 1 1) ∧
    ∃ t, exec (.uncorrectableError (.directory pa)) s = .next t ∧ t.tick = s.tick ∧ AsidsLost s t pa 1 2) ∧
  (∀ (s : State) (i pa c slot lane : Nat), s.tarn[i]? = some ⟨pa, .split c slot lane⟩ →
    ∃ t, exec (.uncorrectableError (.tarn i)) s = .next t ∧ t.tick = s.tick ∧
      RootsEnd s t (fun x => x.ctx = s.ctxOf c slot) 5) ∧
  (∀ (s : State) (i pa op : Nat) (o : HubOp) (q : Queue), s.tarn[i]? = some ⟨pa, .hub op⟩ →
    s.hub.ops.find? (fun y => decide (y.id = op)) = some o → Table.get? s.hub.queues o.queue = some q →
    ∃ t, exec (.uncorrectableError (.tarn i)) s = .next t ∧ t.tick = s.tick ∧ RootsEnd s t (fun x => x.ctx = q.ctx) 5) ∧
  (∀ (s : State) (n : Nat) (w : Sweep) (x : Task), Table.get? s.hub.sweeps n = some w → Table.get? s.tasks w.task = some x →
    ∃ t, exec (.uncorrectableError (.wellhead n)) s = .next t ∧ t.tick = s.tick ∧ RootsEnd s t (fun y => y.ctx = x.ctx) 5) ∧
  (∀ (s : State) (tid : Nat) (x : Task), Table.get? s.tasks tid = some x → x.state = .preempted →
    ∃ t, exec (.uncorrectableError (.image tid)) s = .next t ∧ t.tick = s.tick ∧ RootsEnd s t (fun y => y.ctx = x.ctx) 5) ∧
  (∀ (s : State) (c slot : Nat) (g : Group), s.group? c slot = some g →
    g.out = true ∨ g.spilled ≠ [] ∨ pennantPlaces < pennantDepth g →
    ∃ t, exec (.uncorrectableError (.spillArea c slot)) s = .next t ∧ t.tick = s.tick ∧
      RootsEnd s t (fun y => y.ctx = s.ctxOf c slot) 5) ∧
  (∀ (s : State) (c : Nat), c < 384 → (s.core c).inReset = false →
    ∃ t lost again, exec (.uncorrectableError (.control c)) s = .next t ∧ t.tick = s.tick ∧ (t.core c).inReset = true ∧
      (t.core c).resetInfo = some (false, lost, again) ∧ (t.core c).groups = [] ∧ (t.core c).stores = [] ∧
      (t.core c).loads = [] ∧ (t.core c).mats = [] ∧ (t.core c).ilines = [] ∧
      ∀ tid ∈ resetTops s c, ∀ x, Table.get? s.tasks tid = some x → x.restart = false →
        ∃ y, Table.get? t.tasks tid = some y ∧ y.state = .unwinding ∧ y.xstat = 5 ∧ y.alw = x.written) ∧
  (∀ (s : State) (c asid block : Nat) (l : ILine), l ∈ (s.core c).ilines → l.asid = asid → l.block = block →
    ∃ t, exec (.uncorrectableError (.icacheLine c asid block)) s = .next t ∧ SameMemory s t ∧
      (∀ n, t.group? c n = s.group? c n) ∧
      ∀ x, x ∈ (t.core c).ilines ↔ x ∈ (s.core c).ilines ∧ ¬(x.asid = asid ∧ x.block = block)) ∧
  (∀ (s : State) (c : Nat), c < 384 → exec (.uncorrectableError (.tlb c)) s = .next s) ∧
  (∀ (s : State) (c lost again : Nat) (command : Bool), (s.core c).resetInfo = some (command, lost, again) →
    (s.core c).inReset = true → (∀ cw, s.hub.adminWait ≠ .reset c cw) →
    ∃ t e, exec (.coreReturnToService c) s = .next t ∧ t.tick = s.tick ∧ SameMemory s t ∧ t.tasks = s.tasks ∧
      (t.core c).inReset = false ∧ t.cyc c = 0 ∧ t.hub = { s.hub with events := s.hub.events ++ [e] } ∧ e.kind = 4 ∧
      e.payload = [BitVec.ofNat 64 (c + if command then 512 else 0), BitVec.ofNat 64 lost, BitVec.ofNat 64 again]) ∧
  (∀ (s : State) (n : Nat), n < 4 →
    ∃ t e, exec (.securityAlarm n) s = .next t ∧ t = { s with hub := { s.hub with
        events := s.hub.events ++ [e]
        alarm := true
        halted := s.hub.halted || decide (1 ≤ s.hub.policy)
        zeroised := s.hub.zeroised || decide (s.hub.policy = 2)
        keyed := s.hub.keyed && decide (s.hub.policy ≠ 2) } } ∧
      e.kind = 2 ∧ e.payload.head? = some (BitVec.ofNat 64 (n + s.hub.policy * 256))) ∧
  (∀ s : State, s.hub.ready = true → s.hub.queues = [] → s.hub.aen = false → s.hub.adminRetire = 0 →
    ∃ t, exec .watchdogRestart s = .next t ∧ t = { s with hub := { s.hub with
      events := s.hub.events ++ [⟨3, [BitVec.ofNat 64 (min 255 (s.hub.wdog + 1)), 0]⟩]
      wdog := min 255 (s.hub.wdog + 1)
      adminRetire := 0 } }) ∧
  (∀ (s : State) (q b j old slot : Nat) (x : Queue) (slotOf : Nat → Option Nat), s.hub.ready = true →
    s.hub.queues = [(q, x)] → s.hub.aen = false → s.hub.adminRetire = 0 → ringPlace s x = some (b, slotOf) → b + 64 ≤ Config.mereBase →
    j = wordAt s.mem (b + 0x28) 8 → old = wordAt s.mem (b + 0x18) 8 →
    (j % 2 = 0 → ∃ t, exec .watchdogRestart s = .next t ∧ SameDevice s t ∧ t.mem = s.mem ∧
      t.hub.events = s.hub.events ++ [⟨3, [BitVec.ofNat 64 (min 255 (s.hub.wdog + 1)), 0]⟩]) ∧
    (j % 2 = 1 → slotOf ((old / 2 ^ 48 * 2 ^ 48 + j / 2 ^ 16 + 2 ^ 64 - 1) % 2 ^ 64) = some slot →
      slot + 64 ≤ Config.mereBase → Apart slot (b + 0x18) → Apart slot (b + 0x28) → Open s slot 8 →
      ∃ t, exec .watchdogRestart s = .next t ∧ t.tick = s.tick ∧ t.cores = s.cores ∧ t.tasks = s.tasks ∧
        t.hub.wdog = min 255 (s.hub.wdog + 1) ∧ t.hub.queues = [(q, { x with retire := 0 })] ∧
        wordAt t.mem (b + 0x18) 8 = old / 2 ^ 48 * 2 ^ 48 + j / 2 ^ 16 ∧ wordAt t.mem (b + 0x28) 8 = j - 1 ∧
        (Config.hostBase ≤ slot → wordAt t.mem slot 8 = wordAt s.mem slot 8 % 2 ^ 63) ∧
        (slot < Config.hostBase → s.tarn = [] → isFull t slot = false) ∧
        t.hub.events = s.hub.events ++ [⟨3, [BitVec.ofNat 64 (min 255 (s.hub.wdog + 1)), 1]⟩])) ∧
  (∀ (s : State) (j old slot lsz b : Nat), s.hub.ready = true → s.hub.queues = [] →
    (s.hub.aen = true ∧ b = s.hub.admq ∧ (s.hub.adminRetire = 0 ∨ s.hub.adminAt = b) ∨
      s.hub.adminRetire ≠ 0 ∧ b = s.hub.adminAt ∧ (s.hub.aen = false ∨
        s.hub.admq + 64 ≤ Config.mereBase ∧ wordAt s.mem (s.hub.admq + 0x28) 8 % 2 = 0)) →
    b + 64 ≤ Config.mereBase → j = wordAt s.mem (b + 0x28) 8 → j % 2 = 1 →
    old = wordAt s.mem (b + 0x18) 8 → lsz = wordAt s.mem (b + 8) 8 % 32 →
    slot = wordAt s.mem b 8 % 2 ^ 56 + 64 * (((old / 2 ^ 48 * 2 ^ 48 + j / 2 ^ 16 + 2 ^ 64 - 1) % 2 ^ 64) % 2 ^ lsz) →
    Config.hostBase ≤ slot → slot + 64 ≤ Config.mereBase →
    Apart slot (b + 0x18) → Apart slot (b + 0x28) → Open s slot 8 →
    ∃ t, exec .watchdogRestart s = .next t ∧ SameDevice s t ∧ t.hub.wdog = min 255 (s.hub.wdog + 1) ∧
      wordAt t.mem (b + 0x18) 8 = old / 2 ^ 48 * 2 ^ 48 + j / 2 ^ 16 ∧
      wordAt t.mem slot 8 = wordAt s.mem slot 8 % 2 ^ 63 ∧ wordAt t.mem (b + 0x28) 8 = j - 1 ∧
      t.hub.events = s.hub.events ++ [⟨3, [BitVec.ofNat 64 (min 255 (s.hub.wdog + 1)), 1]⟩]) ∧
  (∀ s : State, s.hub.ready = false → exec .bringUp s = .next { s with hub := { s.hub with ready := true } }) ∧
  (∀ s : State, s.hub.zeroised = true →
    exec .provisioning s = .next { s with hub := { s.hub with zeroised := false, keyed := true } }) ∧
  (∀ (s : State) (c : Nat), c < 384 →
    ∃ t, exec (.powerLimitThrottle c) s = .next t ∧ t.tick = s.tick ∧ t.hub = s.hub ∧ t.tasks = s.tasks ∧ SameMemory s t ∧
      (∀ k n, t.group? k n = s.group? k n) ∧ t.core c = { s.core c with slowed := true })

/-- A link that changes is kept with an event of kind 6. An inbound write of 64 bytes inside the window of a port whose
link is up is performed with its poison; any other is discarded and counted, as is a unit that a copy of this device
sends to a port whose link is down. A read of a line of device memory gives the host its bytes and poison, of the
range that firmware keeps zeros marked as poison; a write writes the line and clears its poison, and in that range
changes nothing; a line that comes in with poison, an input of the model, leaves its unit poisoned. The RO and RZ
fields of a queue's control block stand against every such write (log entry 54). The oldest event goes to the next
slot of the event ring, if that slot is free, with its full bit and its payload, and vector 1 is signalled. A write of
admq sets its address and enable, and where it names another block of host memory the closed fields of that block
become 0 (DESIGN CHOICE, log entry 78), of the alarm bit clears it where it writes 1, of evtq starts the ring anew at
slot 0 (the model's reading, DEDUCED, log entry 32), of any other dword of BAR0 nothing. (R321, R322, R323, R324,
R325) -/
def Obligations.PortsAndHost : Prop :=
  (∀ (s : State) (n : Nat) (up : Bool), n < 8 → (s.hub.port n).up ≠ up →
    ∃ t, exec (.helasLinkChange n up) s = .next t ∧ SameDevice s t ∧ t.mem = s.mem ∧
      t.hub.port n = { s.hub.port n with up := up } ∧ (∀ k, k ≠ n → t.hub.port k = s.hub.port k) ∧
      t.hub.events = s.hub.events ++ [⟨6, [BitVec.ofNat 64 (n + if up then 256 else 0),
        BitVec.ofNat 64 ((s.hub.port n).refused % 2 ^ 32)]⟩]) ∧
  (∀ (s : State) (n pa : Nat) (data : BitVec 512) (poison : Bool), n < 8 → pa % 64 = 0 → pa < 2 ^ 41 →
    (s.hub.port n).up = true → (s.hub.port n).base ≤ pa → pa + 64 ≤ (s.hub.port n).base + (s.hub.port n).len →
    ∃ t, exec (.helasInboundWrite n pa data poison) s = .next t ∧ t.tick = s.tick ∧ t.hub = s.hub ∧ t.cores = s.cores ∧
      t.tasks = s.tasks ∧ LineWritten s t pa data ∧
      (∀ u, u ∈ t.poison ↔ if u = pa / 64 then poison = true else u ∈ s.poison)) ∧
  (∀ (s : State) (n pa : Nat) (data : BitVec 512) (poison : Bool), n < 8 → pa % 64 = 0 → pa < 2 ^ 41 →
    ((s.hub.port n).up = false ∨ pa < (s.hub.port n).base ∨ (s.hub.port n).base + (s.hub.port n).len < pa + 64) →
    ∃ t, exec (.helasInboundWrite n pa data poison) s = .next t ∧ SameDevice s t ∧ t.mem = s.mem ∧
      t.hub.port n = { s.hub.port n with refused := (s.hub.port n).refused + 1 }) ∧
  (∀ (s : State) (pa : Nat), pa % 64 = 0 → pa < Config.reservedEnd →
    ∃ t got, exec (.cxlMemRead pa) s = .next t ∧ t = { s with hub := { s.hub with hostReads := s.hub.hostReads ++ [got] } } ∧
      (Config.reservedBase ≤ pa → got = (0#512, true)) ∧
      (pa < Config.reservedBase → got.1.toNat = wordAt s.mem pa 64 ∧ (got.2 = true ↔ pa / 64 ∈ s.poison))) ∧
  (∀ (s : State) (pa : Nat) (data : BitVec 512), pa % 64 = 0 → pa < Config.reservedEnd →
    ∃ t, exec (.cxlMemWrite pa data) s = .next t ∧ t.tick = s.tick ∧ t.hub = s.hub ∧ t.cores = s.cores ∧ t.tasks = s.tasks ∧
      (Config.reservedBase ≤ pa → t = s) ∧
      (pa < Config.reservedBase → LineWritten s t pa data ∧ ∀ u, u ∈ t.poison ↔ u ∈ s.poison ∧ u ≠ pa / 64)) ∧
  (∀ (s : State) (pa : Nat) (data : BitVec 512) (poison : Bool) (rest : List Input), pa % 64 = 0 →
    pa < Config.reservedBase → s.inbox = .hostLine pa data poison :: rest →
    ∃ t, perform .world s = .next t ∧ t.tick = s.tick ∧ t.hub = s.hub ∧ t.cores = s.cores ∧ t.tasks = s.tasks ∧
      t.inbox = rest ∧ LineWritten s t pa data ∧
      ∀ u, u ∈ t.poison ↔ if u = pa / 64 then poison = true else u ∈ s.poison) ∧
  (∀ (s : State) (op len n off : Nat) (o : HubOp) (x : Queue) (d sr : W64),
    s.hub.ops.find? (fun y => decide (y.id = op)) = some o → o.wait = .copy d sr len 0 →
    Table.get? s.hub.queues o.queue = some x → copyTrouble s (hubWho x) [⟨d, sr, len⟩] = [] → 0 < len → len ≤ 64 →
    n < 8 → off + 64 ≤ 2 ^ 44 → d.toNat = Config.helasAlias + n * 2 ^ 44 + off → (s.hub.port n).up = false →
    ∃ t, exec (.hubCopyComplete op) s = .next t ∧ t.tick = s.tick ∧ t.cores = s.cores ∧ t.tasks = s.tasks ∧
      SameMemory s t ∧ t.hub.port n = { s.hub.port n with refused := (s.hub.port n).refused + 1 } ∧
      ∀ k, k ≠ n → t.hub.port k = s.hub.port k) ∧
  (∀ (s : State) (e : Event) (rest : List Event) (slot : Nat), s.hub.events = e :: rest → s.hub.ready = true →
    1 ≤ s.hub.evsz → s.hub.evsz ≤ 16 → slot = s.hub.evtq + 64 * (s.hub.evNext % 2 ^ s.hub.evsz) →
    slot + 64 ≤ Config.mereBase → Open s slot 64 → wordAt s.mem slot 8 < 2 ^ 63 → e.kind < 2 ^ 8 →
    ∃ t, exec .eventWrite s = .next t ∧ t.tick = s.tick ∧ t.cores = s.cores ∧ t.tasks = s.tasks ∧
      wordAt t.mem slot 8 = e.kind + 2 ^ 63 ∧
      (∀ k, k < 7 → wordAt t.mem (slot + 8 + 8 * k) 8 = (e.payload.getD k 0).toNat) ∧ SameOutside s t slot 64 ∧
      t.hub = { s.hub with events := rest, evNext := s.hub.evNext + 1, msix := s.hub.msix ++ [1] }) ∧
  (∀ (s : State) (x : W64), x.toNat % 2 ^ 52 = s.hub.admq ∨ x.toNat % 2 ^ 52 < Config.hostBase →
    exec (.admqWrite x) s = .next { s with hub := { s.hub with
      admq := x.toNat % 2 ^ 52, aen := decide (2 ^ 63 ≤ x.toNat) } }) ∧
  (∀ (s : State) (x : W64) (b : Nat), b = x.toNat % 2 ^ 52 → b ≠ s.hub.admq → Config.hostBase ≤ b →
    b + 64 ≤ Config.mereBase → b % 64 = 0 →
    ∃ t, exec (.admqWrite x) s = .next t ∧ SameDevice s t ∧
      t.hub = { s.hub with admq := b, aen := decide (2 ^ 63 ≤ x.toNat) } ∧
      (∀ k, k < 40 → Memory.get t.mem (b + 0x18 + k) = 0) ∧ SameOutside s t (b + 0x18) 40) ∧
  (∀ (s : State) (x : W64), exec (.alarmClear x) s = .next { s with hub := { s.hub with
      alarm := s.hub.alarm && decide (x.toNat / 4 % 2 = 0) } }) ∧
  (∀ (s : State) (x : W64), exec (.bar0RegisterWrite 0x10 x) s = .next { s with hub := { s.hub with
      evtq := x.toNat % 2 ^ 52, evsz := x.toNat / 2 ^ 56 % 32, evNext := 0 } }) ∧
  (∀ (s : State) (o : Nat) (x : W64), o % 8 = 0 → 0x18 ≤ o → o < 4096 → exec (.bar0RegisterWrite o x) s = .next s)

/-- A LAUNCH that passes its checks, its template resident, is taken and creates the root task of its TCB address: the
shape, entry and dependence count of the template, the units and core of the packet, READY when it depends on nothing
and ARMED otherwise; the packet completes with the task. Which free slot of the pool a crew task takes is a free
choice (log entry 8), and where the pool lies is log entry 7. A SWEEP creates its own task, which drains for its crews
once it has a resident place (log entry 35), and one crew task on each named core, which share the units, the
remainder going to the first core; with too many live sweeps or too few slots it is due with FULL. (That the sweep's
own task is not held ARMED by the dependence count of the template is log entry 66, and that a poisoned template is
read as it stands log entry 56, both DESIGN CHOICE.) A GRANT or CANCEL packet of a root task sends one operation to
its Wellspring and waits for the answer. (R165, R166, R168, R178, R181, R183, R191, R192, R330, R331, R335) -/
def Obligations.Launches : Prop :=
  (∀ (q : Nat) (p : Packet) (x : Queue) (r : RingHead) (b : List Byte) (s : State), PacketNext q p 1 x r s →
    tcbGood s x p.w10 = true → templateOk s x p.w18 = true → templateThere s x p.w18 = true → p.w20.toNat < 2 ^ 48 →
    p.w28.toNat < 384 → ZeroFrom p 0x30 → b = (templateBytes s (hubWho x) none p.w18.toNat).map Prod.fst →
    ∃ t y, exec (.launch q p) s = .next t ∧ t.cores = s.cores ∧ t.msgs = s.msgs ∧
      PacketTaken q p x r .wellspring (fun a => ∃ pa, physOf s x.ctx x.asid p.w10.toNat Need.store = some pa ∧
        Within a pa 256) s t ∧
      Table.get? t.tasks (rootKey x.asid p.w10.toNat) = some y ∧ y.va = p.w10.toNat ∧ y.isRoot = true ∧ y.ctx = x.ctx ∧
      y.asid = x.asid ∧ y.alw = p.w20.toNat ∧ y.place = p.w28.toNat ∧ y.parent = none ∧ y.depth = 0 ∧ y.inc = 0 ∧
      y.kids = 0 ∧ y.dep = leNat ((b.drop 12).take 4) ∧ y.entry.toNat = leNat ((b.drop 16).take 8) % 2 ^ 56 ∧
      y.state = (if y.dep = 0 then .ready else .armed) ∧ y.launch = some s.hub.nextOp ∧
      ∀ k, k ≠ rootKey x.asid p.w10.toNat → Table.get? t.tasks k = Table.get? s.tasks k) ∧
  (∀ (q n alw key : Nat) (p : Packet) (x : Queue) (r : RingHead) (s : State), PacketNext q p 2 x r s →
    tcbGood s x p.w10 = true → templateOk s x p.w18 = true → templateThere s x p.w18 = true → p.w20.toNat < 2 ^ 48 →
    p.w28.toNat < 384 → p.w30.toNat < 2 ^ 48 → n = p.w38.toNat → 1 ≤ n → p.w28.toNat + n ≤ 384 →
    sweepFull s x.ctx n = false → alw = p.w20.toNat → key = rootKey x.asid p.w10.toNat →
    ∃ t y, exec (.sweep q p) s = .next t ∧ t.cores = s.cores ∧
      t.hub.ops = s.hub.ops ++ [⟨s.hub.nextOp, q, x.taken, 2, p.cw, .wellspring⟩] ∧
      Table.get? t.tasks key = some y ∧ y.kids = n ∧ y.state = (if y.resident then .draining else .ready) ∧
      (y.resident = true ↔ residents s p.w28.toNat < 64 ∧ waitingTasks s p.w28.toNat = []) ∧ y.sweep = some s.hub.nextSweep ∧
      y.alw = (if alw = Config.unmetered then alw else 0) ∧
      Table.get? t.hub.sweeps s.hub.nextSweep = some ⟨key, p.w30.toNat % 2 ^ 16 + 1, p.w30.toNat / 2 ^ 16 % 2 ^ 16 + 1,
        p.w30.toNat / 2 ^ 32 % 2 ^ 16 + 1, 0⟩ ∧
      (∀ k z, Table.get? t.tasks k = some z → Table.get? s.tasks k = some z ∨ k = key ∨
        z.swcrew = true ∧ z.isRoot = false ∧ z.ctx = x.ctx ∧ z.asid = x.asid ∧ z.parent = some key ∧
        z.sweep = some s.hub.nextSweep ∧ p.w28.toNat ≤ z.place ∧ z.place < p.w28.toNat + n ∧
        z.alw = if alw = Config.unmetered then alw else alw / n + if z.place = p.w28.toNat then alw % n else 0) ∧
      ∀ i, i < n → ∃ k z, Table.get? t.tasks k = some z ∧ z.swcrew = true ∧ z.parent = some key ∧
        z.sweep = some s.hub.nextSweep ∧ z.place = p.w28.toNat + i ∧
        z.alw = if alw = Config.unmetered then alw else alw / n + if i = 0 then alw % n else 0) ∧
  (∀ (q : Nat) (p : Packet) (x : Queue) (r : RingHead) (s : State), PacketNext q p 2 x r s →
    tcbGood s x p.w10 = true → templateOk s x p.w18 = true → templateThere s x p.w18 = true → p.w20.toNat < 2 ^ 48 →
    p.w28.toNat < 384 → p.w30.toNat < 2 ^ 48 → 1 ≤ p.w38.toNat → p.w28.toNat + p.w38.toNat ≤ 384 →
    sweepFull s x.ctx p.w38.toNat = true →
    ∃ t, exec (.sweep q p) s = .next t ∧ t.cores = s.cores ∧ t.tasks = s.tasks ∧
      PacketTaken q p x r (.word 2 0 false) nowhere s t) ∧
  (∀ (q tid : Nat) (p : Packet) (x : Queue) (r : RingHead) (s : State), PacketNext q p 8 x r s →
    rootNamed s x p.w10 = some tid → ZeroFrom p 0x20 →
    ∃ t, exec (.grantPacket q p) s = .next t ∧ t.cores = s.cores ∧ t.tasks = s.tasks ∧
      PacketTaken q p x r .wellspring nowhere s t ∧
      t.msgs = s.msgs ++ [⟨.grant p.w18.toNat, some tid, 0, none, none, some s.hub.nextOp, hubKey⟩]) ∧
  (∀ (q tid : Nat) (p : Packet) (x : Queue) (r : RingHead) (s : State), PacketNext q p 10 x r s →
    rootNamed s x p.w10 = some tid → ZeroFrom p 0x18 →
    ∃ t, exec (.cancelPacket q p) s = .next t ∧ t.cores = s.cores ∧ t.tasks = s.tasks ∧
      PacketTaken q p x r .wellspring nowhere s t ∧
      t.msgs = s.msgs ++ [⟨.cancel, some tid, 0, none, none, some s.hub.nextOp, hubKey⟩])

/-- Each packet that passes its checks is taken. COPY waits for its engine, and completes with every destination byte the
source byte it had, all at one moment (the model's choice, log entry 47, DESIGN CHOICE), or with records for the pages
that are absent. WAITWORD of a full word is due with the word's low 48 bits and empties it where it takes; of an empty
one it parks in the Tarn. FILLWORD of an empty word, or by force, fills it with its value and is due; else it parks.
CAPTURE.START opens the window of its context and CAPTURE.STOP closes it. INVAL takes the blocks of its range out of
every instruction cache, and only those. FENCE waits. A packet whose slot word has a reserved bit set is rejected at
offset 0. After a packet is taken its queue's head goes up by 1, its slot is emptied, and v is cleared, in that order.
That no packet of the queue is taken between the three is read from R335 and R336 (log entry 36); that a reserved bit
of the slot word rejects the packet, where R12 and R332 differ, is the model's choice (log entry 57); which counter
sets CAPTURE.START loads is read from R310 (log entry 42), and this statement says nothing of them. (R225, R246, R268,
R310, R328, R330, R331, R332, R335) -/
def Obligations.Packets : Prop :=
  (∀ (q : Nat) (p : Packet) (x : Queue) (r : RingHead) (s : State), PacketNext q p 3 x r s →
    reaches s x Need.copyOut p.w10.toNat p.w20.toNat = true → reaches s x Need.copyIn p.w18.toNat p.w20.toNat = true →
    p.w20.toNat < 2 ^ 36 → ZeroFrom p 0x28 →
    ∃ t, exec (.copy q p) s = .next t ∧ t.cores = s.cores ∧ t.tasks = s.tasks ∧
      PacketTaken q p x r (.copy p.w10 p.w18 p.w20.toNat 0) nowhere s t) ∧
  (∀ (s : State) (op len : Nat) (o : HubOp) (x : Queue) (d sr : W64) (pd ps : Nat → Nat),
    s.hub.ops.find? (fun y => decide (y.id = op)) = some o → o.wait = .copy d sr len 0 →
    Table.get? s.hub.queues o.queue = some x → copyTrouble s (hubWho x) [⟨d, sr, len⟩] = [] →
    sr.toNat + len ≤ Config.mereAlias →
    (∀ k, k < len → physOf s x.ctx x.asid (d.toNat + k) Need.store = some (pd k) ∧ pd k < Config.mereBase ∧
      physOf s x.ctx x.asid (sr.toNat + k) Need.load = some (ps k) ∧ ps k < Config.reservedBase) →
    (∀ j k, j < len → k < len → pd j = pd k → j = k) → (∀ k, k < len → blockFixed s (pd k) = false) →
    ∃ t, exec (.hubCopyComplete op) s = .next t ∧ t.tick = s.tick ∧ t.cores = s.cores ∧ t.tasks = s.tasks ∧
      (∀ k, k < len → Memory.get t.mem (pd k) = Memory.get s.mem (ps k)) ∧
      (∀ a, (∀ k, k < len → pd k ≠ a) → Memory.get t.mem a = Memory.get s.mem a) ∧
      t.hub.ops = s.hub.ops.map (fun y => if y.id = op then { y with wait := .word 0 0 false } else y)) ∧
  (∀ (s : State) (op len : Nat) (o : HubOp) (x : Queue) (d sr : W64),
    s.hub.ops.find? (fun y => decide (y.id = op)) = some o → o.wait = .copy d sr len 0 →
    Table.get? s.hub.queues o.queue = some x → copyTrouble s (hubWho x) [⟨d, sr, len⟩] ≠ [] →
    ∃ t, exec (.hubCopyComplete op) s = .next t ∧ t.tick = s.tick ∧ t.cores = s.cores ∧ t.tasks = s.tasks ∧
      SameButRing s t ∧ t.hub.ops = s.hub.ops.map (fun y => if y.id = op then
        { y with wait := .copy d sr len (copyTrouble s (hubWho x) [⟨d, sr, len⟩]).length } else y) ∧
      ∀ va ∈ copyTrouble s (hubWho x) [⟨d, sr, len⟩], ∃ rec ∈ t.hub.ring ++ t.hub.recWait,
        rec.va = va ∧ rec.kind = 7 ∧ rec.core = 0x1FF) ∧
  (∀ (q pa : Nat) (p : Packet) (x : Queue) (r : RingHead) (s : State), PacketNext q p 4 x r s →
    wordGood s x Need.take p.w10 = true → p.w18.toNat ≤ 1 → ZeroFrom p 0x20 → s.tarn = [] →
    translate s x.ctx x.asid Need.take p.w10.toNat = .phys pa → pa % 8 = 0 → pa + 8 ≤ Config.mereBase →
    Apart pa (r.block + 0x28) →
    ∃ t, exec (.waitword q p) s = .next t ∧ t.cores = s.cores ∧ t.tasks = s.tasks ∧
      (isFull s pa = true → PacketTaken q p x r (.word 0 (wordAt s.mem pa 8 % 2 ^ 48) false) nowhere s t ∧ t.tarn = [] ∧
        isFull t pa = decide (p.w18 = 0)) ∧
      (isFull s pa = false → PacketTaken q p x r (.waitword p.w10 (p.w18.getLsbD 0) 0) nowhere s t ∧
        isFull t pa = false ∧ t.tarn = [⟨pa, .hub s.hub.nextOp⟩])) ∧
  (∀ (q pa : Nat) (p : Packet) (x : Queue) (r : RingHead) (s : State), PacketNext q p 5 x r s →
    wordGood s x Need.fill p.w10 = true → p.w20.toNat ≤ 1 → ZeroFrom p 0x28 → s.tarn = [] →
    translate s x.ctx x.asid Need.fill p.w10.toNat = .phys pa → pa % 8 = 0 → pa + 8 ≤ Config.mereBase →
    Apart pa (r.block + 0x28) → Open s pa 8 →
    ∃ t, exec (.fillword q p) s = .next t ∧ t.cores = s.cores ∧ t.tasks = s.tasks ∧
      (isFull s pa = false ∨ p.w20 = 1 → PacketTaken q p x r (.word 0 0 false) (fun a => Within a pa 8) s t ∧
        wordAt t.mem pa 8 = p.w18.toNat ∧ isFull t pa = true ∧ t.tarn = []) ∧
      (isFull s pa = true → p.w20 = 0 → PacketTaken q p x r (.fillword p.w10 p.w18 false 0) nowhere s t ∧
        t.tarn = [⟨pa, .hub s.hub.nextOp⟩])) ∧
  (∀ (q : Nat) (p : Packet) (x : Queue) (r : RingHead) (c : Ctx) (s : State), PacketNext q p 6 x r s →
    reaches s x Need.load p.w10.toNat (512 * 384) = true → reaches s x Need.store p.w10.toNat (512 * 384) = true →
    ZeroFrom p 0x18 → Table.get? s.hub.ctxs x.ctx = some c →
    ∃ t, exec (.captureStart q p) s = .next t ∧ t.tasks = s.tasks ∧ PacketTaken q p x r (.word 0 0 false) nowhere s t ∧
      Table.get? t.hub.ctxs x.ctx = some { c with capture := some p.w10.toNat }) ∧
  (∀ (q : Nat) (p : Packet) (x : Queue) (r : RingHead) (c : Ctx) (s : State), PacketNext q p 7 x r s → ZeroFrom p 0x10 →
    Table.get? s.hub.ctxs x.ctx = some c →
    ∃ t, exec (.captureStop q p) s = .next t ∧ t.tasks = s.tasks ∧
      t.hub.ops = s.hub.ops ++ [⟨s.hub.nextOp, q, x.taken, 7, p.cw, .word 0 0 false⟩] ∧
      Table.get? t.hub.ctxs x.ctx = some { c with capture := none } ∧ ∀ k, Table.get? (t.core k).sets x.ctx = none) ∧
  (∀ (q : Nat) (p : Packet) (x : Queue) (r : RingHead) (s : State), PacketNext q p 9 x r s →
    mappedBytes s x.asid p.w10.toNat p.w18.toNat = p.w18.toNat → ZeroFrom p 0x20 →
    ∃ t, exec (.inval q p) s = .next t ∧ t.tasks = s.tasks ∧ PacketTaken q p x r (.word 0 0 false) nowhere s t ∧
      (∀ c n, t.group? c n = s.group? c n) ∧
      ∀ c l, l ∈ (t.core c).ilines ↔ l ∈ (s.core c).ilines ∧ ¬(l.asid = x.asid ∧ p.w18 ≠ 0 ∧
        l.block * 256 < p.w10.toNat + p.w18.toNat ∧ p.w10.toNat < l.block * 256 + 256)) ∧
  (∀ (q : Nat) (p : Packet) (x : Queue) (r : RingHead) (s : State), PacketNext q p 11 x r s → ZeroFrom p 0x10 →
    ∃ t, exec (.fencePacket q p) s = .next t ∧ t.cores = s.cores ∧ t.tasks = s.tasks ∧
      PacketTaken q p x r .fence nowhere s t) ∧
  (∀ (q : Nat) (p : Packet) (x : Queue) (r : RingHead) (i : Instr) (s : State), decodePacket false q p = some i →
    nextPacket s q = some (x, r, p) → p.slotWord.toNat % 2 ^ 63 / 256 ≠ 0 → s.hub.isDying x.asid = false →
    r.block + 64 ≤ Config.mereBase →
    ∃ t, exec i s = .next t ∧ t.cores = s.cores ∧ t.tasks = s.tasks ∧
      t.hub.ops = s.hub.ops ++ [⟨s.hub.nextOp, q, x.taken, p.kind, if cwGood s x p.cw then p.cw else 0, .word 7 0 false⟩]) ∧
  (∀ (s : State) (q b head : Nat) (x : Queue) (slotOf : Nat → Option Nat), Table.get? s.hub.queues q = some x →
    x.retire ≠ 0 → ringPlace s x = some (b, slotOf) → b + 64 ≤ Config.mereBase → head = wordAt s.mem (b + 0x18) 8 →
    nextPacket s q = none ∧
    ∃ t, perform (.retire (some q)) s = .next t ∧ t.tick = s.tick ∧
      (x.retire ≠ 2 ∨ s.tarn = [] → t.cores = s.cores ∧ t.tasks = s.tasks ∧ t.hub.ops = s.hub.ops) ∧
      Table.get? t.hub.queues q = some { x with retire := if x.retire < 3 then x.retire + 1 else 0 } ∧
      (x.retire = 1 → wordAt t.mem (b + 0x18) 8 = (head + 1) % 2 ^ 64 ∧ SameOutside s t (b + 0x18) 8) ∧
      (x.retire = 2 → ∀ slot, slotOf ((head + 2 ^ 64 - 1) % 2 ^ 64) = some slot → slot + 64 ≤ Config.mereBase →
        Open s slot 8 →
        (Config.hostBase ≤ slot → wordAt t.mem slot 8 = wordAt s.mem slot 8 % 2 ^ 63 ∧ SameOutside s t slot 8) ∧
        (slot < Config.hostBase → s.tarn = [] → isFull t slot = false ∧ t.mem = s.mem)) ∧
      (3 ≤ x.retire → wordAt t.mem (b + 0x28) 8 = wordAt s.mem (b + 0x28) 8 / 2 * 2 ∧ SameOutside s t (b + 0x28) 8))

/-- CTX.CREATE gives the lowest free number a context with the packet's ASID, quota, nesting limit, rights and stamp
buffer, and its number is the result; with none free the status is FULL. CTX.SET changes the fields whose change bit
is set and no other, and rights to debug that go are remembered until they may be withdrawn. Both write the header of
a stamp buffer they name as 64 bytes of zero. QUEUE.CREATE gives the lowest free number a queue, its result, and
writes head 0, the context and its ASID, journal 0 and the 16 reserved bytes as 0 to the control block. QUEUE.DESTROY
stops the queue, ends each packet in its ring that has not started with ABORTED and empties its slot, one after
another from the head over the whole ring, keeps the positions whose page is absent for later, and waits for the
others. After an admin packet, in the block it was taken from, head goes up by 1, its slot is emptied and v is
cleared, in that order. That numbers are given lowest first is the model's choice (log entry 29), and so is that the
admin control block, its ring and the completion words of admin packets lie at physical addresses (log entry 30); that
no admin packet is taken between the three parts after a packet is read from R335 and R336 (log entry 36), and that
empty slots of a destroyed queue's ring are passed over from R333 (log entry 37). (R309, R317, R327, R328, R329, R332,
R333, R334, R335) -/
def Obligations.Contexts : Prop :=
  (∀ (p : Packet) (r : RingHead) (n pa : Nat) (s : State), AdminNext p 0x80 r s → OnlyBits ctxBits p.w10 →
    W64.bits p.w10 30 16 ≤ 16384 → W64.bits p.w10 36 32 ≤ 24 → (p.w10.getLsbD 41 = true → p.w10.getLsbD 43 = true) →
    p.w18.toNat < 2 ^ 56 → stampGood s (2 ^ 20) (W64.bits p.w10 10 0) p.w18 p.w20 = true → p.w20.toNat ≤ 2 ^ 24 →
    ZeroFrom p 0x28 → freeNumber (Table.keys s.hub.ctxs) (2 ^ 20) = some n →
    (p.w18 ≠ 0 → Laid s p r n (W64.bits p.w10 10 0) p.w18.toNat 64 Need.store (fun k => pa + k)) →
    ∃ t c, exec (.ctxCreate p) s = .next t ∧ t.cores = s.cores ∧ t.tasks = s.tasks ∧ t.msgs = s.msgs ∧
      AdminEnds p r 0 n (fun a => p.w18 ≠ 0 ∧ Within a pa 64) s t ∧
      (p.w18 ≠ 0 → ∀ k, k < 64 → Memory.get t.mem (pa + k) = 0) ∧
      t.hub = ({ s.hub with ctxs := Table.set s.hub.ctxs n c } : Hub).completed p ∧
      c = {
          asid := W64.bits p.w10 10 0, quota := W64.bits p.w10 30 16, lmax := W64.bits p.w10 36 32,
          mereF := p.w10.getLsbD 40, mereP := p.w10.getLsbD 41, helas := p.w10.getLsbD 42, debug := p.w10.getLsbD 43,
          sbuf := p.w18.toNat, ssize := p.w20.toNat, capture := none, stops := [], edits := [], revoked := false }) ∧
  (∀ (p : Packet) (r : RingHead) (s : State), AdminNext p 0x80 r s → OnlyBits ctxBits p.w10 →
    W64.bits p.w10 30 16 ≤ 16384 → W64.bits p.w10 36 32 ≤ 24 → (p.w10.getLsbD 41 = true → p.w10.getLsbD 43 = true) →
    p.w18.toNat < 2 ^ 56 → stampGood s (2 ^ 20) (W64.bits p.w10 10 0) p.w18 p.w20 = true → p.w20.toNat ≤ 2 ^ 24 →
    ZeroFrom p 0x28 → freeNumber (Table.keys s.hub.ctxs) (2 ^ 20) = none →
    ∃ t, exec (.ctxCreate p) s = .next t ∧ SameDevice s t ∧ AdminEnds p r 2 0 nowhere s t ∧ t.hub = s.hub.completed p) ∧
  (∀ (p : Packet) (r : RingHead) (c : Ctx) (n pa : Nat) (s : State), AdminNext p 0x81 r s → OnlyBits 0xF000FFFFF p.w10 →
    n = W64.bits p.w10 19 0 → Table.get? s.hub.ctxs n = some c → OnlyBits ctxBits p.w18 →
    (p.w10.getLsbD 32 = true → W64.bits p.w18 30 16 ≤ 16384) → (p.w10.getLsbD 33 = true → W64.bits p.w18 36 32 ≤ c.lmax) →
    (p.w10.getLsbD 34 = true → p.w18.getLsbD 41 = true → p.w18.getLsbD 43 = true) → p.w20.toNat < 2 ^ 56 →
    p.w28.toNat < 2 ^ 32 → (p.w10.getLsbD 35 = true → stampGood s n c.asid p.w20 p.w28 = true ∧ p.w28.toNat ≤ 2 ^ 24) →
    ZeroFrom p 0x30 →
    (p.w10.getLsbD 35 = true → p.w20 ≠ 0 → Laid s p r n c.asid p.w20.toNat 64 Need.store (fun k => pa + k)) →
    ∃ t c', exec (.ctxSet p) s = .next t ∧ t.cores = s.cores ∧ t.tasks = s.tasks ∧ t.msgs = s.msgs ∧
      AdminEnds p r 0 0 (fun a => p.w10.getLsbD 35 = true ∧ p.w20 ≠ 0 ∧ Within a pa 64) s t ∧
      (p.w10.getLsbD 35 = true → p.w20 ≠ 0 → ∀ k, k < 64 → Memory.get t.mem (pa + k) = 0) ∧
      t.hub = ({ s.hub with ctxs := Table.set s.hub.ctxs n c' } : Hub).completed p ∧ c'.asid = c.asid ∧
      c'.quota = (if p.w10.getLsbD 32 then W64.bits p.w18 30 16 else c.quota) ∧
      c'.lmax = (if p.w10.getLsbD 33 then W64.bits p.w18 36 32 else c.lmax) ∧
      c'.mereF = (if p.w10.getLsbD 34 then p.w18.getLsbD 40 else c.mereF) ∧
      c'.mereP = (if p.w10.getLsbD 34 then p.w18.getLsbD 41 else c.mereP) ∧
      c'.helas = (if p.w10.getLsbD 34 then p.w18.getLsbD 42 else c.helas) ∧
      c'.debug = (if p.w10.getLsbD 34 then p.w18.getLsbD 43 else c.debug) ∧
      c'.revoked = (c.revoked || (p.w10.getLsbD 34 && c.debug && !p.w18.getLsbD 43)) ∧
      c'.sbuf = (if p.w10.getLsbD 35 then p.w20.toNat else c.sbuf) ∧
      c'.ssize = (if p.w10.getLsbD 35 then p.w28.toNat else c.ssize) ∧ c'.stops = c.stops ∧ c'.edits = c.edits ∧
      c'.capture = c.capture) ∧
  (∀ (p : Packet) (r : RingHead) (c : Ctx) (n ctx pa : Nat) (s : State), AdminNext p 0x82 r s → p.w10.toNat < 2 ^ 56 →
    p.w10.toNat % 64 = 0 → OnlyBits 0x1F000FFFFF p.w18 → ctx = W64.bits p.w18 19 0 → W64.bits p.w18 36 32 ≠ 1 →
    Table.get? s.hub.ctxs ctx = some c → ctxReach s ctx Need.load p.w10.toNat 64 = true →
    ctxReach s ctx Need.store p.w10.toNat 64 = true → ZeroFrom p 0x20 →
    freeNumber (Table.keys s.hub.queues) (2 ^ 16) = some n →
    (physOf s ctx c.asid p.w10.toNat Need.load = some (pa - 0x18) ∧ 0x18 ≤ pa) →
    (∀ k, k < 40 → pa + k < Config.mereBase ∧ Untouched p r (pa + k)) →
    ∃ t x, exec (.queueCreate p) s = .next t ∧ SameDevice s t ∧ AdminEnds p r 0 n (fun a => Within a pa 40) s t ∧
      t.hub = ({ s.hub with queues := Table.set s.hub.queues n x } : Hub).completed p ∧
      x = {
          block := p.w10.toNat, ctx := ctx, asid := c.asid, vec := W64.bits p.w18 36 32, stopped := false, taken := 0
          retire := 0, unwritten := false, flush := some [] } ∧
      wordAt t.mem pa 8 = 0 ∧ wordAt t.mem (pa + 8) 8 = (c.asid + ctx * 2 ^ 32) % 2 ^ 64 ∧ wordAt t.mem (pa + 16) 8 = 0 ∧
      wordAt t.mem (pa + 24) 8 = 0 ∧ wordAt t.mem (pa + 32) 8 = 0) ∧
  (∀ (p : Packet) (r : RingHead) (x : Queue) (s : State), AdminNext p 0x83 r s → p.w10.toNat < 2 ^ 16 →
    Table.get? s.hub.queues p.w10.toNat = some x → ZeroFrom p 0x18 → s.tarn = [] →
    ∃ t y, exec (.queueDestroy p) s = .next t ∧ t.tick = s.tick ∧ t.tasks = s.tasks ∧
      t.hub.adminWait = .destroy p.w10.toNat p.cw ∧
      Table.get? t.hub.queues p.w10.toNat = some y ∧ y.stopped = true ∧ y.block = x.block ∧ y.ctx = x.ctx ∧
      (∃ more, t.hub.ops = s.hub.ops ++ more ∧ ∀ o ∈ more, o.queue = p.w10.toNat ∧ o.wait = .word 8 0 false) ∧
      ∀ b head lsz f full, x.retire = 0 → x.unwritten = false → RingHolds s x b head lsz f → Disjoint64 b r.block →
        (∀ i a, i < 2 ^ lsz → f i = some a → Disjoint64 a r.block) → full = fullPositions s lsz f →
        t.hub.ops = s.hub.ops ++ ((List.range full.length).zip full).map (fun e =>
          let w := packetAt s e.2.2
          ⟨s.hub.nextOp + e.1, p.w10.toNat, x.taken + e.1, w.kind, if cwGood s x w.cw then w.cw else 0, .word 8 0 false⟩) ∧
        wordAt t.mem (b + 0x18) 8 = (match full.getLast? with
          | some e => (head + e.1 + 1) % 2 ^ 64
          | none => head) ∧
        (∀ i a, i < 2 ^ lsz → f i = some a → slotFull t a = false) ∧
        y.flush = some (((List.range (2 ^ lsz)).filter (fun i => (f i).isNone)).map (head + ·))) ∧
  (∀ (s : State) (head slot : Nat), s.hub.adminRetire ≠ 0 → s.hub.adminAt + 64 ≤ Config.mereBase →
    head = wordAt s.mem (s.hub.adminAt + 0x18) 8 →
    slot = wordAt s.mem s.hub.adminAt 8 % 2 ^ 56 +
      64 * ((head + 2 ^ 64 - 1) % 2 ^ 64 % 2 ^ (wordAt s.mem (s.hub.adminAt + 8) 8 % 32)) →
    adminPacket s = none ∧
    ∃ t, perform (.retire none) s = .next t ∧ t.tick = s.tick ∧
      (s.hub.adminRetire ≠ 2 ∨ s.tarn = [] → t.cores = s.cores ∧ t.tasks = s.tasks) ∧
      t.hub.adminRetire = (if s.hub.adminRetire < 3 then s.hub.adminRetire + 1 else 0) ∧
      (s.hub.adminRetire = 1 → wordAt t.mem (s.hub.adminAt + 0x18) 8 = (head + 1) % 2 ^ 64 ∧
        SameOutside s t (s.hub.adminAt + 0x18) 8) ∧
      (s.hub.adminRetire = 2 → slot + 64 ≤ Config.mereBase → Open s slot 8 →
        (Config.hostBase ≤ slot → wordAt t.mem slot 8 = wordAt s.mem slot 8 % 2 ^ 63 ∧ SameOutside s t slot 8) ∧
        (slot < Config.hostBase → s.tarn = [] → isFull t slot = false ∧ t.mem = s.mem)) ∧
      (3 ≤ s.hub.adminRetire → wordAt t.mem (s.hub.adminAt + 0x28) 8 = wordAt s.mem (s.hub.adminAt + 0x28) 8 / 2 * 2 ∧
        SameOutside s t (s.hub.adminAt + 0x28) 8))

/-- MAP puts a page of the packet's size, place and attributes at its virtual address, which translation finds from then
on, and leaves every other mapping; a page of a scratchpad is always resident. PROTECT gives an exact mapping new
rights, or unmaps it. ASID.TEARDOWN marks its ASID, drops its fault records, orders every root task of it to unwind
with status ABORTED, and waits. An ASID whose count of what is outstanding is 0 is recycled: no page, context, queue
or task of it is left, the others stay, and the command completes. Which places and backings MAP accepts is read from
R334 (log entry 48), what is outstanding for an ASID from R337 (log entry 22); that the control block, the ring and
the completion words of the admin queue are physical is the model's choice (log entry 30). (R207, R299, R332, R333,
R334, R337) -/
def Obligations.PagesAndAsids : Prop :=
  (∀ (p : Packet) (r : RingHead) (size : Nat) (res : Bool) (s : State), AdminNext p 0x84 r s → p.w10.toNat < 2 ^ 11 →
    size = W64.bits p.w20 1 0 → p.w18.toNat < 2 ^ 56 → p.w18.toNat % pageBytes size = 0 →
    overlaps s p.w10.toNat p.w18.toNat size = false → OnlyBits 0x3F3 p.w20 →
    (p.w20.getLsbD 7 = true → p.w28.toNat < Config.reservedEnd) → p.w28.toNat < 2 ^ 52 → p.w28.toNat % pageBytes size = 0 →
    pageLies p.w28.toNat size = true → p.w30.toNat < 2 ^ 52 →
    res = (p.w20.getLsbD 8 || decide (Config.mereBase ≤ p.w28.toNat)) →
    (p.w20.getLsbD 8 = false → p.w20.getLsbD 9 = true → p.w30.toNat % pageBytes size = 0 ∧ backingLies p.w30.toNat size = true) →
    ZeroFrom p 0x38 → s.tarn = [] →
    ∃ t moves, exec (.map p) s = .next t ∧ t.tasks = s.tasks ∧ AdminEnds p r 0 0 nowhere s t ∧
      (moves = match exactPage s p.w10.toNat p.w18.toNat size with
        | some y => y.moves + if y.res = true ∧ (y.pa ≠ p.w28.toNat ∨ res = false) then 1 else 0
        | none => 0) ∧
      findPage t p.w10.toNat p.w18.toNat = some {
          asid := p.w10.toNat, va := p.w18.toNat, size := size, r := p.w20.getLsbD 4, w := p.w20.getLsbD 5,
          x := p.w20.getLsbD 6, m := p.w20.getLsbD 7, res := res, pa := p.w28.toNat,
          back := if res = false ∧ p.w20.getLsbD 9 = true then some p.w30.toNat else none, moves := moves } ∧
      ∀ y ∈ s.hub.pages, ¬(y.asid = p.w10.toNat ∧ y.va = p.w18.toNat) → y ∈ t.hub.pages) ∧
  (∀ (p : Packet) (r : RingHead) (y : Page) (size : Nat) (s : State), AdminNext p 0x85 r s → p.w10.toNat < 2 ^ 11 →
    p.w18.toNat < 2 ^ 56 → size = W64.bits p.w20 1 0 → exactPage s p.w10.toNat p.w18.toNat size = some y →
    OnlyBits 0x80F3 p.w20 → (p.w20.getLsbD 15 = false → p.w20.getLsbD 7 = true → y.pa < Config.reservedEnd) → ZeroFrom p 0x28 → s.tarn = [] →
    ∃ t, exec (.protect p) s = .next t ∧ t.tasks = s.tasks ∧ AdminEnds p r 0 0 nowhere s t ∧
      (p.w20.getLsbD 15 = true → y ∉ t.hub.pages) ∧
      (p.w20.getLsbD 15 = false → exactPage t p.w10.toNat p.w18.toNat size = some { y with
        r := p.w20.getLsbD 4, w := p.w20.getLsbD 5, x := p.w20.getLsbD 6, m := p.w20.getLsbD 7 }) ∧
      ∀ z ∈ s.hub.pages, ¬(z.asid = p.w10.toNat ∧ z.va = p.w18.toNat) → z ∈ t.hub.pages) ∧
  (∀ (p : Packet) (r : RingHead) (s : State), AdminNext p 0x86 r s → p.w10.toNat < 2 ^ 11 → ZeroFrom p 0x18 →
    ∃ t, exec (.asidTeardown p) s = .next t ∧ t.hub.adminWait = .teardown p.w10.toNat p.cw ∧
      p.w10.toNat ∈ t.hub.dying ∧ (∀ y ∈ t.hub.recWait ++ t.hub.ring ++ t.hub.taken ++ t.hub.anew ++ t.hub.replies, y.asid ≠ p.w10.toNat) ∧
      RootsEnd s t (fun x => x.asid = p.w10.toNat) 8) ∧
  (∀ (asid : Nat) (cw : W64) (s : State), s.hub.isDying asid = true → drained s asid = true →
    s.hub.adminWait = .teardown asid cw →
    ∃ t, exec (.asidRecycle asid) s = .next t ∧ t.tick = s.tick ∧ asid ∉ t.hub.dying ∧ t.hub.adminWait = .none ∧
      t.hub.adminHeld = [] ∧ (∀ y ∈ t.hub.pages, y.asid ≠ asid) ∧ (∀ y ∈ t.hub.ctxs, y.2.asid ≠ asid) ∧ (∀ y ∈ t.hub.queues, y.2.asid ≠ asid) ∧
      (∀ y ∈ t.tasks, y.2.asid ≠ asid) ∧ (∀ y ∈ s.hub.pages, y.asid ≠ asid → y ∈ t.hub.pages) ∧
      (∀ y ∈ s.hub.ctxs, y.2.asid ≠ asid → y ∈ t.hub.ctxs) ∧ ∀ y ∈ s.hub.queues, y.2.asid ≠ asid → y ∈ t.hub.queues)

/-- PREEMPT of a running task sets its pre-emption request and gives an image number. CORE.RESET takes the core out of
service with no group left, ends its resident tasks that do not restart with status LOST, their units those of the
last write-back, and waits. COUNTERS gives a loaded set the block's selections and edges and starts its runs anew, its
counts unchanged. With debug rights: stops are set and cleared by region and edge, a halt is asked of a group, a
halted group is read, edits wait for a commit that writes those of its group, all at once, and a group is released; an
edit writes the bytes its data gives of a scalar, a vector register, a predicate, a tile, an accumulator or a PC, no
other register, and nothing where its register is not there. ATTEST writes a report that holds the nonce into a buffer
of 1,536 bytes of host memory, or ends ABORTED in the zeroised state. ALARM.POLICY, POWER.LIMIT and HELAS.WINDOW set
what they name and nothing else. The digests and the signature of a report are free values (log entry 14). That
PREEMPT completes as soon as the request stands is read from R292 (log entry 31), and which edit changes nothing and
how DEBUG rejects from R315 and R316 (log entry 39); that the control block, the ring and the completion words of the
admin queue are physical is the model's choice (log entry 30). (R284, R292, R312, R315, R316, R321, R332, R334, R338,
R339, R340) -/
def Obligations.AdminCommands : Prop :=
  (∀ (p : Packet) (r : RingHead) (tid : Nat) (x : Task) (s : State), AdminNext p 0x87 r s → ZeroFrom p 0x18 →
    taskNamed s none p.w10 = some (tid, x) → Table.get? s.tasks tid = some x → x.state = .running → x.request = none →
    ∃ t y n, exec (.preempt p) s = .next t ∧ AdminEnds p r 0 n nowhere s t ∧ t.cores = s.cores ∧
      t.hub = s.hub.completed p ∧ Table.get? t.tasks tid = some y ∧ y = { x with request := y.request } ∧
      y.request.isSome = true ∧ ∀ k, k ≠ tid → Table.get? t.tasks k = Table.get? s.tasks k) ∧
  (∀ (p : Packet) (r : RingHead) (s : State), AdminNext p 0x88 r s → p.w10.toNat < 384 → ZeroFrom p 0x18 →
    (s.core p.w10.toNat).inReset = false →
    ∃ t, exec (.coreReset p) s = .next t ∧ t.tick = s.tick ∧ t.hub.adminWait = .reset p.w10.toNat p.cw ∧
      (t.core p.w10.toNat).inReset = true ∧ (t.core p.w10.toNat).groups = [] ∧ (t.core p.w10.toNat).stores = [] ∧
      (t.core p.w10.toNat).loads = [] ∧ (t.core p.w10.toNat).mats = [] ∧ (t.core p.w10.toNat).ilines = [] ∧
      ∀ tid ∈ resetTops s p.w10.toNat, ∀ x, Table.get? s.tasks tid = some x → x.restart = false →
        ∃ y, Table.get? t.tasks tid = some y ∧ y.state = .unwinding ∧ y.xstat = 5 ∧ y.alw = x.written) ∧
  (∀ (p : Packet) (r : RingHead) (c : Ctx) (z : CtrSet) (ctx : Nat) (f : Nat → Nat) (s : State), AdminNext p 0x89 r s →
    OnlyBits 0xFFFFF p.w10 → ctx = W64.bits p.w10 19 0 → Table.get? s.hub.ctxs ctx = some c → p.w18.toNat < 384 →
    p.w20.toNat < 2 ^ 56 → p.w20.toNat % 64 = 0 → ctxReach s ctx Need.load p.w20.toNat 512 = true → ZeroFrom p 0x28 →
    Table.get? (s.core p.w18.toNat).sets ctx = some z → Laid s p r ctx c.asid p.w20.toNat 512 Need.load f →
    ∃ t y, exec (.counters p) s = .next t ∧ t.tasks = s.tasks ∧ t.hub = s.hub.completed p ∧
      AdminEnds p r 0 0 nowhere s t ∧ Table.get? (t.core p.w18.toNat).sets ctx = some y ∧ y.counters = z.counters ∧
      y.preempt = z.preempt ∧ y.runs = List.replicate 16 0 ∧
      (∀ k, k < 16 → y.derived.getD k 0 = BitVec.ofNat 64 (leNat ((List.range 8).map (fun b =>
        Memory.get s.mem (f (0x100 + 8 * k + b)))))) ∧
      (∀ k, k < 16 → y.selects.getD k 0 = Memory.get s.mem (f (0x88 + k))) ∧ ∀ n, t.group? p.w18.toNat n = s.group? p.w18.toNat n) ∧
  (∀ (p : Packet) (r : RingHead) (c : Ctx) (s : State), DebugNext p 0 r c s → p.w18.toNat < 2 ^ 26 → ZeroFrom p 0x20 →
    ∃ t c' y, exec (.debugSetStop p) s = .next t ∧ SameDevice s t ∧ AdminEnds p r 0 0 nowhere s t ∧
      Table.get? t.hub.ctxs (debugCtx p) = some c' ∧ y ∈ c'.stops ∧ y.region.toNat = p.w18.toNat % 2 ^ 24 ∧
      (y.onEnter = true ↔ p.w18.getLsbD 24 = true ∨
        ∃ o, c.stops.find? (fun x => decide (x.region = y.region)) = some o ∧ o.onEnter = true) ∧
      (y.onLeave = true ↔ p.w18.getLsbD 25 = true ∨
        ∃ o, c.stops.find? (fun x => decide (x.region = y.region)) = some o ∧ o.onLeave = true) ∧
      ∀ o ∈ c.stops, o.region ≠ y.region → o ∈ c'.stops) ∧
  (∀ (p : Packet) (r : RingHead) (c : Ctx) (s : State), DebugNext p 1 r c s → p.w18.toNat < 2 ^ 26 → ZeroFrom p 0x20 →
    ∃ t c', exec (.debugClearStop p) s = .next t ∧ SameDevice s t ∧ AdminEnds p r 0 0 nowhere s t ∧
      Table.get? t.hub.ctxs (debugCtx p) = some c' ∧
      (∀ y ∈ c'.stops, y.region.toNat = p.w18.toNat % 2 ^ 24 →
        (p.w18.getLsbD 24 = true → y.onEnter = false) ∧ (p.w18.getLsbD 25 = true → y.onLeave = false)) ∧
      ∀ o ∈ c.stops, o.region.toNat ≠ p.w18.toNat % 2 ^ 24 → o.onEnter = true ∨ o.onLeave = true → o ∈ c'.stops) ∧
  (∀ (p : Packet) (r : RingHead) (c : Ctx) (k n : Nat) (g : Group) (s : State), DebugNext p 2 r c s →
    debugGroup s p = some (k, n, g) → s.group? k n = some g → p.w20.toNat < 16 → ZeroFrom p 0x28 →
    ∃ t, exec (.debugHaltCommand p) s = .next t ∧ t.tasks = s.tasks ∧ t.hub = s.hub.completed p ∧
      AdminEnds p r 0 0 nowhere s t ∧ t.group? k n = some { g with haltReq := true } ∧
      ∀ k' n', ¬(k' = k ∧ n' = n) → t.group? k' n' = s.group? k' n') ∧
  (∀ (p : Packet) (r : RingHead) (c : Ctx) (k n : Nat) (g : Group) (f : Nat → Nat) (s : State), DebugNext p 3 r c s →
    debugGroup s p = some (k, n, g) → g.halted = true → p.w20.toNat < 16 → p.w28.toNat < 2 ^ 56 →
    ctxReach s (debugCtx p) Need.store p.w28.toNat p.w30.toNat = true →
    bufferThere s p Need.store (debugBytes s p).length = true → (debugBytes s p).length ≤ p.w30.toNat →
    p.w30.toNat < 2 ^ 32 → ZeroFrom p 0x38 →
    Laid s p r (debugCtx p) c.asid p.w28.toNat (debugBytes s p).length Need.store f →
    (∀ i, i < (debugBytes s p).length → blockFixed s (f i) = false) →
    ∃ t, exec (.debugRead p) s = .next t ∧ t.cores = s.cores ∧ t.tasks = s.tasks ∧ t.hub = s.hub.completed p ∧
      AdminEnds p r 0 0 (fun a => ∃ i, i < (debugBytes s p).length ∧ a = f i) s t ∧
      ∀ i, i < (debugBytes s p).length → Memory.get t.mem (f i) = (debugBytes s p).getD i 0) ∧
  (∀ (p : Packet) (r : RingHead) (c : Ctx) (k n : Nat) (g : Group) (l : List Edit) (f : Nat → Nat) (s : State),
    DebugNext p 4 r c s → debugGroup s p = some (k, n, g) → p.w20.toNat < 16 → p.w28.toNat < 2 ^ 56 →
    bufferThere s p Need.load p.w30.toNat = true → stagedEdits s p = some l → p.w30.toNat < 2 ^ 32 → ZeroFrom p 0x38 →
    Laid s p r (debugCtx p) c.asid p.w28.toNat p.w30.toNat Need.load f →
    ∃ t c', exec (.debugStageEdit p) s = .next t ∧ SameDevice s t ∧ AdminEnds p r 0 0 nowhere s t ∧
      Table.get? t.hub.ctxs (debugCtx p) = some c' ∧ c'.edits = c.edits ++ l ∧ c'.stops = c.stops) ∧
  (∀ (p : Packet) (r : RingHead) (c : Ctx) (k n : Nat) (g : Group) (s : State), DebugNext p 5 r c s →
    debugGroup s p = some (k, n, g) → s.group? k n = some g → g.halted = true → p.w20.toNat < 16 → ZeroFrom p 0x28 →
    ∃ t c', exec (.debugCommit p) s = .next t ∧ t.tasks = s.tasks ∧ AdminEnds p r 0 0 nowhere s t ∧
      t.group? k n = some ((c.edits.filter (fun e => decide (e.task = g.task) && decide (e.gid = g.gid))).foldl
        Group.applyEdit g) ∧
      (∀ k' n', ¬(k' = k ∧ n' = n) → t.group? k' n' = s.group? k' n') ∧
      Table.get? t.hub.ctxs (debugCtx p) = some c' ∧ c'.stops = c.stops ∧
      ∀ e, e ∈ c'.edits ↔ e ∈ c.edits ∧ ¬(e.task = g.task ∧ e.gid = g.gid)) ∧
  (∀ (g g' : Group) (e : Edit) (fr : Nat), fr = e.frameOf g → g' = g.applyEdit e →
    (g.editReaches e = false → g' = g) ∧
    (e.cls = 0 → 0 < e.reg → e.reg < 64 → e.reg < 32 ∨ (frameList g)[e.frame]?.isSome = true →
      (∀ k, k < 8 → wordByte (g'.readS fr e.reg).val k = e.over 0 k (wordByte (g.readS fr e.reg).val k)) ∧
      (g'.readS fr e.reg).poison = ((g.readS fr e.reg).poison && decide (e.data.length < 8)) ∧
      OnlyRegister g g' fr (.s e.reg)) ∧
    (e.cls = 1 → (120 ≤ e.reg ∧ e.reg < 128) ∨ (∃ x, (frameList g)[e.frame]? = some x ∧ e.reg < 120 ∧
        e.reg < 8 * x.2.grans.length) → (g.lanes fr e.reg).length = 32 →
      (∀ k, k < 128 → wordByte (laneAt (g'.lanes fr e.reg) (k / 4)) (k % 4) =
        e.over (4 * e.unit) k (wordByte (laneAt (g.lanes fr e.reg) (k / 4)) (k % 4))) ∧
      (∀ l, l < 32 → (g'.readV fr e.reg).poison.getLsbD l = ((g.readV fr e.reg).poison.getLsbD l &&
        !(decide (e.unit ≤ l) && decide (4 * l + 4 ≤ 4 * e.unit + e.data.length)))) ∧
      OnlyRegister g g' fr (.v e.reg)) ∧
    (e.cls = 2 → e.reg < 16 →
      (∀ k, k < 4 → wordByte (g'.readP e.reg).val k = e.over 0 k (wordByte (g.readP e.reg).val k)) ∧
      (g'.readP e.reg).poison = ((g.readP e.reg).poison && decide (e.data.length < 4)) ∧
      OnlyRegister g g' fr (.p e.reg)) ∧
    (e.cls = 3 → (Table.get? g.tiles e.reg).isSome = true → (g.readT e.reg).bytes.length = 1536 →
      (∀ k, k < 1536 → (g'.readT e.reg).bytes.getD k 0 = e.over (64 * e.unit) k ((g.readT e.reg).bytes.getD k 0)) ∧
      (∀ u, u < 24 → (g'.readT e.reg).poison.getLsbD u = ((g.readT e.reg).poison.getLsbD u &&
        !(decide (e.unit ≤ u) && decide (64 * (u + 1) ≤ 64 * e.unit + e.data.length)))) ∧
      OnlyRegister g g' fr (.t e.reg)) ∧
    (e.cls = 4 → (Table.get? g.accs e.reg).isSome = true → (g.readA e.reg).vals.length = 256 →
      (∀ k, k < 1024 → wordByte ((g'.readA e.reg).vals.getD (k / 4) 0) (k % 4) =
        e.over (64 * e.unit) k (wordByte ((g.readA e.reg).vals.getD (k / 4) 0) (k % 4))) ∧
      (g'.readA e.reg).poison = (g.readA e.reg).poison ∧ ∀ fr' q, (∀ k, q ≠ .a e.reg k) → SameReg g g' fr' q) ∧
    (e.cls = 5 → ∀ sp, g.entries[e.reg]? = some sp → (∀ fr' q, SameReg g g' fr' q) ∧
      (∀ j, j ≠ e.reg → g'.entries[j]? = g.entries[j]?) ∧
      ∃ sp', g'.entries[e.reg]? = some sp' ∧ sp' = { sp with pc := sp'.pc } ∧
        (8 ≤ e.data.length → sp'.pc.toNat = leNat (e.data.take 8) % 2 ^ 56 / 4 * 4))) ∧
  (∀ (p : Packet) (r : RingHead) (c : Ctx) (k n : Nat) (g : Group) (s : State), DebugNext p 6 r c s →
    debugGroup s p = some (k, n, g) → s.group? k n = some g → p.w20.toNat < 16 → ZeroFrom p 0x28 →
    ∃ t, exec (.debugResume p) s = .next t ∧ t.tasks = s.tasks ∧ t.hub = s.hub.completed p ∧
      AdminEnds p r 0 0 nowhere s t ∧ t.group? k n = some { g with halted := false, haltReq := false }) ∧
  (∀ (p : Packet) (r : RingHead) (s : State), AdminNext p 0x8B r s → p.w30.toNat % 64 = 0 →
    Config.hostBase ≤ p.w30.toNat → p.w30.toNat + 1536 ≤ Config.mereBase → ZeroFrom p 0x38 →
    (s.hub.zeroised = true → ∃ t, exec (.attest p) s = .next t ∧ SameDevice s t ∧ AdminEnds p r 8 0 nowhere s t) ∧
    (s.hub.zeroised = false → Open s p.w30.toNat 1536 →
      (∀ a, Within a p.w30.toNat 1536 → Untouched p r a) →
      ∃ t, exec (.attest p) s = .next t ∧ t.cores = s.cores ∧ t.tasks = s.tasks ∧ t.hub = s.hub.completed p ∧
        AdminEnds p r 0 0 (fun a => Within a p.w30.toNat 1536) s t ∧ wordAt t.mem (p.w30.toNat + 128) 8 = p.w10.toNat ∧
        wordAt t.mem (p.w30.toNat + 136) 8 = p.w18.toNat ∧ wordAt t.mem (p.w30.toNat + 144) 8 = p.w20.toNat ∧
        wordAt t.mem (p.w30.toNat + 152) 8 = p.w28.toNat)) ∧
  (∀ (p : Packet) (r : RingHead) (s : State), AdminNext p 0x8C r s → p.w10.toNat ≤ 2 → ZeroFrom p 0x18 →
    ∃ t, exec (.alarmPolicy p) s = .next t ∧ SameDevice s t ∧ AdminEnds p r 0 0 nowhere s t ∧
      t.hub = ({ s.hub with policy := p.w10.toNat } : Hub).completed p) ∧
  (∀ (p : Packet) (r : RingHead) (block index : Nat) (s : State), AdminNext p 0x8D r s → OnlyBits 0x1FF03 p.w10 →
    block = p.w10.toNat % 4 → index = p.w10.toNat / 256 → blockIndexed block index = true →
    p.w18.toNat ≤ blockLimit block index → ZeroFrom p 0x20 →
    ∃ t, exec (.powerLimit p) s = .next t ∧ SameDevice s t ∧ AdminEnds p r 0 p.w18.toNat nowhere s t ∧
      t.hub = ({ s.hub with limits := Table.set s.hub.limits (block * 512 + index) p.w18.toNat } : Hub).completed p) ∧
  (∀ (p : Packet) (r : RingHead) (s : State), AdminNext p 0x8E r s → p.w10.toNat < 8 → p.w18.toNat < 2 ^ 41 →
    p.w18.toNat % 64 = 0 → p.w20.toNat ≤ 2 ^ 41 → p.w20.toNat % 64 = 0 → ZeroFrom p 0x28 →
    ∃ t x, exec (.helasWindow p) s = .next t ∧ SameDevice s t ∧ AdminEnds p r 0 0 nowhere s t ∧
      t.hub = ({ s.hub with ports := Table.set s.hub.ports p.w10.toNat x } : Hub).completed p ∧
      x = { s.hub.port p.w10.toNat with base := p.w18.toNat, len := p.w20.toNat })
end

