-- ==== Sys2Proof/Laws/Table.lean ====
section
/-! SUPPORT. Laws of tables and of rising lists of numbers: reading after writing, and what stays. -/

namespace Sys2Proof.Machine.Table

@[simp] theorem get?_nil {α : Type} (k : Nat) : get? ([] : Table α) k = none := rfl

/-- Reading after a replacement in a table that has the number. -/
theorem get?_replace {α : Type} (t : Table α) (k k' : Nat) (x : α) (h : (get? t k).isSome) :
    get? (replace t k x) k' = if k' = k then some x else get? t k' := by
  induction t with
  | nil => simp [get?] at h
  | cons e t ih =>
    obtain ⟨j, y⟩ := e
    by_cases hj : k = j
    · subst hj; by_cases hk : k' = k <;> simp [replace, get?, hk]
    · have h' : (get? t k).isSome := by simpa [get?, hj] using h
      by_cases hk : k' = j
      · subst hk; simp [replace, get?, hj, Ne.symm hj]
      · simp [replace, get?, hj, hk, ih h']

/-- Reading after an addition to a table that has not the number. -/
theorem get?_insert {α : Type} (t : Table α) (k k' : Nat) (x : α) (h : get? t k = none) :
    get? (insert t k x) k' = if k' = k then some x else get? t k' := by
  induction t with
  | nil => by_cases hk : k' = k <;> simp [insert, get?, hk]
  | cons e t ih =>
    obtain ⟨j, y⟩ := e
    by_cases hj : k = j
    · simp [get?, hj] at h
    · have h' : get? t k = none := by simpa [get?, hj] using h
      by_cases hlt : k < j
      · simp [insert, get?, hlt]
      · by_cases hk : k' = j
        · subst hk; simp [insert, get?, hlt, Ne.symm hj]
        · simp [insert, get?, hlt, hk, ih h']

/-- Reading after writing. -/
theorem get?_set {α : Type} (t : Table α) (k k' : Nat) (x : α) :
    get? (set t k x) k' = if k' = k then some x else get? t k' := by
  cases h : get? t k with
  | none => simpa [set, h] using get?_insert t k k' x h
  | some y => simpa [set, h] using get?_replace t k k' x (by simp [h])

/-- Reading the number just written. -/
@[simp] theorem get?_set_self {α : Type} (t : Table α) (k : Nat) (x : α) : get? (set t k x) k = some x := by
  simp [get?_set]

/-- Reading another number. -/
theorem get?_set_ne {α : Type} (t : Table α) {k k' : Nat} (x : α) (hk : k' ≠ k) : get? (set t k x) k' = get? t k' := by
  simp [get?_set, hk]

/-- What a replacement leaves of a table as seen through a function that the new value does not change: the table keeps
its order, so that a count or a search over it stays as it was. -/
theorem map_set {α β : Type} (t : Table α) (k : Nat) (x y : α) (f : Nat × α → β) (h : get? t k = some y)
    (hf : f (k, x) = f (k, y)) : (set t k x).map f = t.map f := by
  simp only [set, h, Option.isSome_some, if_true]
  induction t with
  | nil => simp [get?] at h
  | cons e t ih =>
    obtain ⟨j, z⟩ := e
    by_cases hj : k = j
    · subst hj; simp only [get?, if_true, Option.some.injEq] at h; subst h; simp [replace, hf]
    · have h' : get? t k = some y := by simpa [get?, hj] using h
      simp [replace, hj, ih h']

/-- Reading with a default after writing. -/
theorem getD_set {α : Type} (t : Table α) (k k' : Nat) (x d : α) :
    getD (set t k x) k' d = if k' = k then x else getD t k' d := by
  by_cases h : k' = k <;> simp [getD, get?_set, h]

/-- Reading a number that was removed. -/
@[simp] theorem get?_erase_self {α : Type} (t : Table α) (k : Nat) : get? (erase t k) k = none := by
  induction t with
  | nil => simp [erase]
  | cons e t ih =>
    obtain ⟨j, y⟩ := e
    by_cases h : j = k
    · simpa [erase, h] using ih
    · have hk : ¬(k = j) := fun hh => h hh.symm
      simpa [erase, get?, h, hk] using ih

/-- Reading another number than the one removed. -/
theorem get?_erase_ne {α : Type} (t : Table α) {k k' : Nat} (hk : k' ≠ k) : get? (erase t k) k' = get? t k' := by
  induction t with
  | nil => simp [erase, get?]
  | cons e t ih =>
    obtain ⟨j, y⟩ := e
    by_cases h : j = k
    · simpa [erase, h, get?, hk] using ih
    · by_cases hj : k' = j
      · simp [erase, get?, h, hj]
      · simpa [erase, get?, h, hj] using ih

/-- Reading after a change of one value. -/
theorem get?_modify {α : Type} (t : Table α) (k k' : Nat) (f : α → α) :
    get? (modify t k f) k' = if k' = k then (get? t k).map f else get? t k' := by
  unfold modify
  cases h : get? t k with
  | none => by_cases hk : k' = k <;> simp [hk, h]
  | some x => by_cases hk : k' = k <;> simp [get?_set, hk]

/-- Reading after every value has changed. -/
theorem get?_mapVals {α : Type} (t : Table α) (f : α → α) (k : Nat) : get? (mapVals t f) k = (get? t k).map f := by
  induction t with
  | nil => rfl
  | cons e t ih =>
    obtain ⟨j, y⟩ := e
    by_cases h : k = j
    · simp [mapVals, get?, h]
    · simpa [mapVals, get?, h] using ih

/-- A number is in a rising list after it has been added, and the others stay. -/
theorem mem_insertNat (l : List Nat) (k j : Nat) : j ∈ insertNat l k ↔ j = k ∨ j ∈ l := by
  induction l with
  | nil => simp [insertNat]
  | cons a t ih =>
    by_cases h : k = a
    · subst h; simp [insertNat]
    · by_cases h' : k < a
      · simp [insertNat, h, h']
      · simp [insertNat, h, h', ih]; tauto

/-- A number is gone from a list after it has been removed, and the others stay. -/
theorem mem_removeNat (l : List Nat) (k j : Nat) : j ∈ removeNat l k ↔ j ∈ l ∧ j ≠ k := by simp [removeNat]

end Sys2Proof.Machine.Table

namespace Sys2Proof.Machine

/-- Changing an element keeps the length. -/
@[simp] theorem length_changeAt {α : Type} (l : List α) (i : Nat) (f : α → α) : (changeAt l i f).length = l.length := by
  induction l generalizing i with
  | nil => rfl
  | cons x xs ih => cases i <;> simp [changeAt, ih]

/-- The element changed. -/
theorem getElem?_changeAt {α : Type} (l : List α) (i j : Nat) (f : α → α) :
    (changeAt l i f)[j]? = if j = i then l[j]?.map f else l[j]? := by
  induction l generalizing i j with
  | nil => simp [changeAt]
  | cons x xs ih =>
    cases i with
    | zero => cases j <;> simp [changeAt]
    | succ i => cases j <;> simp [changeAt, ih]

/-- Two changes of one element are one. -/
@[simp] theorem changeAt_changeAt {α : Type} (l : List α) (i : Nat) (f g : α → α) :
    changeAt (changeAt l i f) i g = changeAt l i (fun x => g (f x)) := by
  induction l generalizing i with
  | nil => rfl
  | cons x xs ih => cases i <;> simp [changeAt, ih]

end Sys2Proof.Machine
end

