-- ==== Sys2Proof/Laws/State.lean ====
section
/-! SUPPORT. What each update of the state leaves: one lemma for each field, and reading cores, groups and tasks after
writing them. -/

namespace Sys2Proof.Machine

variable (s : State)

@[simp] theorem State.putCore_tick (c : Nat) (k : Core) : (s.putCore c k).tick = s.tick := rfl
@[simp] theorem State.putCore_fresh (c : Nat) (k : Core) : (s.putCore c k).fresh = s.fresh := rfl
@[simp] theorem State.putCore_cur (c : Nat) (k : Core) : (s.putCore c k).cur = s.cur := rfl
@[simp] theorem State.putCore_together (c : Nat) (k : Core) : (s.putCore c k).together = s.together := rfl
@[simp] theorem State.putCore_hold (c : Nat) (k : Core) : (s.putCore c k).hold = s.hold := rfl
@[simp] theorem State.putCore_ahead (c : Nat) (k : Core) : (s.putCore c k).ahead = s.ahead := rfl
@[simp] theorem State.putCore_tileWrites (c : Nat) (k : Core) : (s.putCore c k).tileWrites = s.tileWrites := rfl
@[simp] theorem State.putCore_inbox (c : Nat) (k : Core) : (s.putCore c k).inbox = s.inbox := rfl
@[simp] theorem State.putCore_tasks (c : Nat) (k : Core) : (s.putCore c k).tasks = s.tasks := rfl
@[simp] theorem State.putCore_incs (c : Nat) (k : Core) : (s.putCore c k).incs = s.incs := rfl
@[simp] theorem State.putCore_msgs (c : Nat) (k : Core) : (s.putCore c k).msgs = s.msgs := rfl
@[simp] theorem State.putCore_mem (c : Nat) (k : Core) : (s.putCore c k).mem = s.mem := rfl
@[simp] theorem State.putCore_poison (c : Nat) (k : Core) : (s.putCore c k).poison = s.poison := rfl
@[simp] theorem State.putCore_full (c : Nat) (k : Core) : (s.putCore c k).full = s.full := rfl
@[simp] theorem State.putCore_tarn (c : Nat) (k : Core) : (s.putCore c k).tarn = s.tarn := rfl
@[simp] theorem State.putCore_hub (c : Nat) (k : Core) : (s.putCore c k).hub = s.hub := rfl

@[simp] theorem State.modCore_tick (c : Nat) (f : Core → Core) : (s.modCore c f).tick = s.tick := rfl
@[simp] theorem State.modCore_fresh (c : Nat) (f : Core → Core) : (s.modCore c f).fresh = s.fresh := rfl
@[simp] theorem State.modCore_cur (c : Nat) (f : Core → Core) : (s.modCore c f).cur = s.cur := rfl
@[simp] theorem State.modCore_together (c : Nat) (f : Core → Core) : (s.modCore c f).together = s.together := rfl
@[simp] theorem State.modCore_hold (c : Nat) (f : Core → Core) : (s.modCore c f).hold = s.hold := rfl
@[simp] theorem State.modCore_ahead (c : Nat) (f : Core → Core) : (s.modCore c f).ahead = s.ahead := rfl
@[simp] theorem State.modCore_tileWrites (c : Nat) (f : Core → Core) : (s.modCore c f).tileWrites = s.tileWrites := rfl
@[simp] theorem State.modCore_inbox (c : Nat) (f : Core → Core) : (s.modCore c f).inbox = s.inbox := rfl
@[simp] theorem State.modCore_tasks (c : Nat) (f : Core → Core) : (s.modCore c f).tasks = s.tasks := rfl
@[simp] theorem State.modCore_incs (c : Nat) (f : Core → Core) : (s.modCore c f).incs = s.incs := rfl
@[simp] theorem State.modCore_msgs (c : Nat) (f : Core → Core) : (s.modCore c f).msgs = s.msgs := rfl
@[simp] theorem State.modCore_mem (c : Nat) (f : Core → Core) : (s.modCore c f).mem = s.mem := rfl
@[simp] theorem State.modCore_poison (c : Nat) (f : Core → Core) : (s.modCore c f).poison = s.poison := rfl
@[simp] theorem State.modCore_full (c : Nat) (f : Core → Core) : (s.modCore c f).full = s.full := rfl
@[simp] theorem State.modCore_tarn (c : Nat) (f : Core → Core) : (s.modCore c f).tarn = s.tarn := rfl
@[simp] theorem State.modCore_hub (c : Nat) (f : Core → Core) : (s.modCore c f).hub = s.hub := rfl

@[simp] theorem State.putGroup_tick (c g : Nat) (x : Group) : (s.putGroup c g x).tick = s.tick := rfl
@[simp] theorem State.putGroup_fresh (c g : Nat) (x : Group) : (s.putGroup c g x).fresh = s.fresh := rfl
@[simp] theorem State.putGroup_cur (c g : Nat) (x : Group) : (s.putGroup c g x).cur = s.cur := rfl
@[simp] theorem State.putGroup_together (c g : Nat) (x : Group) : (s.putGroup c g x).together = s.together := rfl
@[simp] theorem State.putGroup_hold (c g : Nat) (x : Group) : (s.putGroup c g x).hold = s.hold := rfl
@[simp] theorem State.putGroup_ahead (c g : Nat) (x : Group) : (s.putGroup c g x).ahead = s.ahead := rfl
@[simp] theorem State.putGroup_tileWrites (c g : Nat) (x : Group) : (s.putGroup c g x).tileWrites = s.tileWrites := rfl
@[simp] theorem State.putGroup_inbox (c g : Nat) (x : Group) : (s.putGroup c g x).inbox = s.inbox := rfl
@[simp] theorem State.putGroup_tasks (c g : Nat) (x : Group) : (s.putGroup c g x).tasks = s.tasks := rfl
@[simp] theorem State.putGroup_incs (c g : Nat) (x : Group) : (s.putGroup c g x).incs = s.incs := rfl
@[simp] theorem State.putGroup_msgs (c g : Nat) (x : Group) : (s.putGroup c g x).msgs = s.msgs := rfl
@[simp] theorem State.putGroup_mem (c g : Nat) (x : Group) : (s.putGroup c g x).mem = s.mem := rfl
@[simp] theorem State.putGroup_poison (c g : Nat) (x : Group) : (s.putGroup c g x).poison = s.poison := rfl
@[simp] theorem State.putGroup_full (c g : Nat) (x : Group) : (s.putGroup c g x).full = s.full := rfl
@[simp] theorem State.putGroup_tarn (c g : Nat) (x : Group) : (s.putGroup c g x).tarn = s.tarn := rfl
@[simp] theorem State.putGroup_hub (c g : Nat) (x : Group) : (s.putGroup c g x).hub = s.hub := rfl

@[simp] theorem State.modTask_tick (t : Nat) (f : Task → Task) : (s.modTask t f).tick = s.tick := rfl
@[simp] theorem State.modTask_fresh (t : Nat) (f : Task → Task) : (s.modTask t f).fresh = s.fresh := rfl
@[simp] theorem State.modTask_cur (t : Nat) (f : Task → Task) : (s.modTask t f).cur = s.cur := rfl
@[simp] theorem State.modTask_together (t : Nat) (f : Task → Task) : (s.modTask t f).together = s.together := rfl
@[simp] theorem State.modTask_hold (t : Nat) (f : Task → Task) : (s.modTask t f).hold = s.hold := rfl
@[simp] theorem State.modTask_ahead (t : Nat) (f : Task → Task) : (s.modTask t f).ahead = s.ahead := rfl
@[simp] theorem State.modTask_tileWrites (t : Nat) (f : Task → Task) : (s.modTask t f).tileWrites = s.tileWrites := rfl
@[simp] theorem State.modTask_inbox (t : Nat) (f : Task → Task) : (s.modTask t f).inbox = s.inbox := rfl
@[simp] theorem State.modTask_cores (t : Nat) (f : Task → Task) : (s.modTask t f).cores = s.cores := rfl
@[simp] theorem State.modTask_incs (t : Nat) (f : Task → Task) : (s.modTask t f).incs = s.incs := rfl
@[simp] theorem State.modTask_msgs (t : Nat) (f : Task → Task) : (s.modTask t f).msgs = s.msgs := rfl
@[simp] theorem State.modTask_mem (t : Nat) (f : Task → Task) : (s.modTask t f).mem = s.mem := rfl
@[simp] theorem State.modTask_poison (t : Nat) (f : Task → Task) : (s.modTask t f).poison = s.poison := rfl
@[simp] theorem State.modTask_full (t : Nat) (f : Task → Task) : (s.modTask t f).full = s.full := rfl
@[simp] theorem State.modTask_tarn (t : Nat) (f : Task → Task) : (s.modTask t f).tarn = s.tarn := rfl
@[simp] theorem State.modTask_hub (t : Nat) (f : Task → Task) : (s.modTask t f).hub = s.hub := rfl

@[simp] theorem State.modHub_tick (f : Hub → Hub) : (s.modHub f).tick = s.tick := rfl
@[simp] theorem State.modHub_fresh (f : Hub → Hub) : (s.modHub f).fresh = s.fresh := rfl
@[simp] theorem State.modHub_cur (f : Hub → Hub) : (s.modHub f).cur = s.cur := rfl
@[simp] theorem State.modHub_together (f : Hub → Hub) : (s.modHub f).together = s.together := rfl
@[simp] theorem State.modHub_hold (f : Hub → Hub) : (s.modHub f).hold = s.hold := rfl
@[simp] theorem State.modHub_ahead (f : Hub → Hub) : (s.modHub f).ahead = s.ahead := rfl
@[simp] theorem State.modHub_tileWrites (f : Hub → Hub) : (s.modHub f).tileWrites = s.tileWrites := rfl
@[simp] theorem State.modHub_inbox (f : Hub → Hub) : (s.modHub f).inbox = s.inbox := rfl
@[simp] theorem State.modHub_cores (f : Hub → Hub) : (s.modHub f).cores = s.cores := rfl
@[simp] theorem State.modHub_tasks (f : Hub → Hub) : (s.modHub f).tasks = s.tasks := rfl
@[simp] theorem State.modHub_incs (f : Hub → Hub) : (s.modHub f).incs = s.incs := rfl
@[simp] theorem State.modHub_msgs (f : Hub → Hub) : (s.modHub f).msgs = s.msgs := rfl
@[simp] theorem State.modHub_mem (f : Hub → Hub) : (s.modHub f).mem = s.mem := rfl
@[simp] theorem State.modHub_poison (f : Hub → Hub) : (s.modHub f).poison = s.poison := rfl
@[simp] theorem State.modHub_full (f : Hub → Hub) : (s.modHub f).full = s.full := rfl
@[simp] theorem State.modHub_tarn (f : Hub → Hub) : (s.modHub f).tarn = s.tarn := rfl

@[simp] theorem State.modGroup_tick (c g : Nat) (f : Group → Group) : (s.modGroup c g f).tick = s.tick := by
  unfold State.modGroup; cases s.group? c g <;> rfl
@[simp] theorem State.modGroup_fresh (c g : Nat) (f : Group → Group) : (s.modGroup c g f).fresh = s.fresh := by
  unfold State.modGroup; cases s.group? c g <;> rfl
@[simp] theorem State.modGroup_cur (c g : Nat) (f : Group → Group) : (s.modGroup c g f).cur = s.cur := by
  unfold State.modGroup; cases s.group? c g <;> rfl
@[simp] theorem State.modGroup_together (c g : Nat) (f : Group → Group) : (s.modGroup c g f).together = s.together := by
  unfold State.modGroup; cases s.group? c g <;> rfl
@[simp] theorem State.modGroup_hold (c g : Nat) (f : Group → Group) : (s.modGroup c g f).hold = s.hold := by
  unfold State.modGroup; cases s.group? c g <;> rfl
@[simp] theorem State.modGroup_ahead (c g : Nat) (f : Group → Group) : (s.modGroup c g f).ahead = s.ahead := by
  unfold State.modGroup; cases s.group? c g <;> rfl
@[simp] theorem State.modGroup_tileWrites (c g : Nat) (f : Group → Group) : (s.modGroup c g f).tileWrites = s.tileWrites := by
  unfold State.modGroup; cases s.group? c g <;> rfl
@[simp] theorem State.modGroup_inbox (c g : Nat) (f : Group → Group) : (s.modGroup c g f).inbox = s.inbox := by
  unfold State.modGroup; cases s.group? c g <;> rfl
@[simp] theorem State.modGroup_tasks (c g : Nat) (f : Group → Group) : (s.modGroup c g f).tasks = s.tasks := by
  unfold State.modGroup; cases s.group? c g <;> rfl
@[simp] theorem State.modGroup_incs (c g : Nat) (f : Group → Group) : (s.modGroup c g f).incs = s.incs := by
  unfold State.modGroup; cases s.group? c g <;> rfl
@[simp] theorem State.modGroup_msgs (c g : Nat) (f : Group → Group) : (s.modGroup c g f).msgs = s.msgs := by
  unfold State.modGroup; cases s.group? c g <;> rfl
@[simp] theorem State.modGroup_mem (c g : Nat) (f : Group → Group) : (s.modGroup c g f).mem = s.mem := by
  unfold State.modGroup; cases s.group? c g <;> rfl
@[simp] theorem State.modGroup_poison (c g : Nat) (f : Group → Group) : (s.modGroup c g f).poison = s.poison := by
  unfold State.modGroup; cases s.group? c g <;> rfl
@[simp] theorem State.modGroup_full (c g : Nat) (f : Group → Group) : (s.modGroup c g f).full = s.full := by
  unfold State.modGroup; cases s.group? c g <;> rfl
@[simp] theorem State.modGroup_tarn (c g : Nat) (f : Group → Group) : (s.modGroup c g f).tarn = s.tarn := by
  unfold State.modGroup; cases s.group? c g <;> rfl
@[simp] theorem State.modGroup_hub (c g : Nat) (f : Group → Group) : (s.modGroup c g f).hub = s.hub := by
  unfold State.modGroup; cases s.group? c g <;> rfl

@[simp] theorem State.onGroup_tick (sel : Sel) (f : Group → Group) : (s.onGroup sel f).tick = s.tick := by simp [State.onGroup]
@[simp] theorem State.onGroup_fresh (sel : Sel) (f : Group → Group) : (s.onGroup sel f).fresh = s.fresh := by simp [State.onGroup]
@[simp] theorem State.onGroup_cur (sel : Sel) (f : Group → Group) : (s.onGroup sel f).cur = s.cur := by simp [State.onGroup]
@[simp] theorem State.onGroup_together (sel : Sel) (f : Group → Group) : (s.onGroup sel f).together = s.together := by simp [State.onGroup]
@[simp] theorem State.onGroup_hold (sel : Sel) (f : Group → Group) : (s.onGroup sel f).hold = s.hold := by simp [State.onGroup]
@[simp] theorem State.onGroup_ahead (sel : Sel) (f : Group → Group) : (s.onGroup sel f).ahead = s.ahead := by simp [State.onGroup]
@[simp] theorem State.onGroup_tileWrites (sel : Sel) (f : Group → Group) : (s.onGroup sel f).tileWrites = s.tileWrites := by simp [State.onGroup]
@[simp] theorem State.onGroup_inbox (sel : Sel) (f : Group → Group) : (s.onGroup sel f).inbox = s.inbox := by simp [State.onGroup]
@[simp] theorem State.onGroup_tasks (sel : Sel) (f : Group → Group) : (s.onGroup sel f).tasks = s.tasks := by simp [State.onGroup]
@[simp] theorem State.onGroup_incs (sel : Sel) (f : Group → Group) : (s.onGroup sel f).incs = s.incs := by simp [State.onGroup]
@[simp] theorem State.onGroup_msgs (sel : Sel) (f : Group → Group) : (s.onGroup sel f).msgs = s.msgs := by simp [State.onGroup]
@[simp] theorem State.onGroup_mem (sel : Sel) (f : Group → Group) : (s.onGroup sel f).mem = s.mem := by simp [State.onGroup]
@[simp] theorem State.onGroup_poison (sel : Sel) (f : Group → Group) : (s.onGroup sel f).poison = s.poison := by simp [State.onGroup]
@[simp] theorem State.onGroup_full (sel : Sel) (f : Group → Group) : (s.onGroup sel f).full = s.full := by simp [State.onGroup]
@[simp] theorem State.onGroup_tarn (sel : Sel) (f : Group → Group) : (s.onGroup sel f).tarn = s.tarn := by simp [State.onGroup]
@[simp] theorem State.onGroup_hub (sel : Sel) (f : Group → Group) : (s.onGroup sel f).hub = s.hub := by simp [State.onGroup]
@[simp] theorem State.onSplit_tick (sel : Sel) (f : Split → Split) : (s.onSplit sel f).tick = s.tick := by simp [State.onSplit]
@[simp] theorem State.onSplit_fresh (sel : Sel) (f : Split → Split) : (s.onSplit sel f).fresh = s.fresh := by simp [State.onSplit]
@[simp] theorem State.onSplit_cur (sel : Sel) (f : Split → Split) : (s.onSplit sel f).cur = s.cur := by simp [State.onSplit]
@[simp] theorem State.onSplit_together (sel : Sel) (f : Split → Split) : (s.onSplit sel f).together = s.together := by simp [State.onSplit]
@[simp] theorem State.onSplit_hold (sel : Sel) (f : Split → Split) : (s.onSplit sel f).hold = s.hold := by simp [State.onSplit]
@[simp] theorem State.onSplit_ahead (sel : Sel) (f : Split → Split) : (s.onSplit sel f).ahead = s.ahead := by simp [State.onSplit]
@[simp] theorem State.onSplit_tileWrites (sel : Sel) (f : Split → Split) : (s.onSplit sel f).tileWrites = s.tileWrites := by simp [State.onSplit]
@[simp] theorem State.onSplit_inbox (sel : Sel) (f : Split → Split) : (s.onSplit sel f).inbox = s.inbox := by simp [State.onSplit]
@[simp] theorem State.onSplit_tasks (sel : Sel) (f : Split → Split) : (s.onSplit sel f).tasks = s.tasks := by simp [State.onSplit]
@[simp] theorem State.onSplit_incs (sel : Sel) (f : Split → Split) : (s.onSplit sel f).incs = s.incs := by simp [State.onSplit]
@[simp] theorem State.onSplit_msgs (sel : Sel) (f : Split → Split) : (s.onSplit sel f).msgs = s.msgs := by simp [State.onSplit]
@[simp] theorem State.onSplit_mem (sel : Sel) (f : Split → Split) : (s.onSplit sel f).mem = s.mem := by simp [State.onSplit]
@[simp] theorem State.onSplit_poison (sel : Sel) (f : Split → Split) : (s.onSplit sel f).poison = s.poison := by simp [State.onSplit]
@[simp] theorem State.onSplit_full (sel : Sel) (f : Split → Split) : (s.onSplit sel f).full = s.full := by simp [State.onSplit]
@[simp] theorem State.onSplit_tarn (sel : Sel) (f : Split → Split) : (s.onSplit sel f).tarn = s.tarn := by simp [State.onSplit]
@[simp] theorem State.onSplit_hub (sel : Sel) (f : Split → Split) : (s.onSplit sel f).hub = s.hub := by simp [State.onSplit]
@[simp] theorem State.raise_tick (c ctx : Nat) (bits : BitVec 64) : (s.raise c ctx bits).tick = s.tick := rfl
@[simp] theorem State.raise_fresh (c ctx : Nat) (bits : BitVec 64) : (s.raise c ctx bits).fresh = s.fresh := rfl
@[simp] theorem State.raise_cur (c ctx : Nat) (bits : BitVec 64) : (s.raise c ctx bits).cur = s.cur := rfl
@[simp] theorem State.raise_together (c ctx : Nat) (bits : BitVec 64) : (s.raise c ctx bits).together = s.together := rfl
@[simp] theorem State.raise_hold (c ctx : Nat) (bits : BitVec 64) : (s.raise c ctx bits).hold = s.hold := rfl
@[simp] theorem State.raise_ahead (c ctx : Nat) (bits : BitVec 64) : (s.raise c ctx bits).ahead = s.ahead := rfl
@[simp] theorem State.raise_tileWrites (c ctx : Nat) (bits : BitVec 64) : (s.raise c ctx bits).tileWrites = s.tileWrites := rfl
@[simp] theorem State.raise_inbox (c ctx : Nat) (bits : BitVec 64) : (s.raise c ctx bits).inbox = s.inbox := rfl
@[simp] theorem State.raise_tasks (c ctx : Nat) (bits : BitVec 64) : (s.raise c ctx bits).tasks = s.tasks := rfl
@[simp] theorem State.raise_incs (c ctx : Nat) (bits : BitVec 64) : (s.raise c ctx bits).incs = s.incs := rfl
@[simp] theorem State.raise_msgs (c ctx : Nat) (bits : BitVec 64) : (s.raise c ctx bits).msgs = s.msgs := rfl
@[simp] theorem State.raise_mem (c ctx : Nat) (bits : BitVec 64) : (s.raise c ctx bits).mem = s.mem := rfl
@[simp] theorem State.raise_poison (c ctx : Nat) (bits : BitVec 64) : (s.raise c ctx bits).poison = s.poison := rfl
@[simp] theorem State.raise_full (c ctx : Nat) (bits : BitVec 64) : (s.raise c ctx bits).full = s.full := rfl
@[simp] theorem State.raise_tarn (c ctx : Nat) (bits : BitVec 64) : (s.raise c ctx bits).tarn = s.tarn := rfl
@[simp] theorem State.raise_hub (c ctx : Nat) (bits : BitVec 64) : (s.raise c ctx bits).hub = s.hub := rfl
@[simp] theorem State.signal_tick (c ctx n : Nat) : (s.signal c ctx n).tick = s.tick := rfl
@[simp] theorem State.signal_fresh (c ctx n : Nat) : (s.signal c ctx n).fresh = s.fresh := rfl
@[simp] theorem State.signal_cur (c ctx n : Nat) : (s.signal c ctx n).cur = s.cur := rfl
@[simp] theorem State.signal_together (c ctx n : Nat) : (s.signal c ctx n).together = s.together := rfl
@[simp] theorem State.signal_hold (c ctx n : Nat) : (s.signal c ctx n).hold = s.hold := rfl
@[simp] theorem State.signal_ahead (c ctx n : Nat) : (s.signal c ctx n).ahead = s.ahead := rfl
@[simp] theorem State.signal_tileWrites (c ctx n : Nat) : (s.signal c ctx n).tileWrites = s.tileWrites := rfl
@[simp] theorem State.signal_inbox (c ctx n : Nat) : (s.signal c ctx n).inbox = s.inbox := rfl
@[simp] theorem State.signal_tasks (c ctx n : Nat) : (s.signal c ctx n).tasks = s.tasks := rfl
@[simp] theorem State.signal_incs (c ctx n : Nat) : (s.signal c ctx n).incs = s.incs := rfl
@[simp] theorem State.signal_msgs (c ctx n : Nat) : (s.signal c ctx n).msgs = s.msgs := rfl
@[simp] theorem State.signal_mem (c ctx n : Nat) : (s.signal c ctx n).mem = s.mem := rfl
@[simp] theorem State.signal_poison (c ctx n : Nat) : (s.signal c ctx n).poison = s.poison := rfl
@[simp] theorem State.signal_full (c ctx n : Nat) : (s.signal c ctx n).full = s.full := rfl
@[simp] theorem State.signal_tarn (c ctx n : Nat) : (s.signal c ctx n).tarn = s.tarn := rfl
@[simp] theorem State.signal_hub (c ctx n : Nat) : (s.signal c ctx n).hub = s.hub := rfl
@[simp] theorem State.advance_fresh : s.advance.fresh = s.fresh := rfl
@[simp] theorem State.advance_cur : s.advance.cur = s.cur := rfl
@[simp] theorem State.advance_together : s.advance.together = s.together := rfl
@[simp] theorem State.advance_hold : s.advance.hold = s.hold := rfl
@[simp] theorem State.advance_ahead : s.advance.ahead = s.ahead := rfl
@[simp] theorem State.advance_tileWrites : s.advance.tileWrites = s.tileWrites := rfl
@[simp] theorem State.advance_inbox : s.advance.inbox = s.inbox := rfl
@[simp] theorem State.advance_tasks : s.advance.tasks = s.tasks := rfl
@[simp] theorem State.advance_incs : s.advance.incs = s.incs := rfl
@[simp] theorem State.advance_msgs : s.advance.msgs = s.msgs := rfl
@[simp] theorem State.advance_mem : s.advance.mem = s.mem := rfl
@[simp] theorem State.advance_poison : s.advance.poison = s.poison := rfl
@[simp] theorem State.advance_full : s.advance.full = s.full := rfl
@[simp] theorem State.advance_tarn : s.advance.tarn = s.tarn := rfl
@[simp] theorem State.advance_hub : s.advance.hub = s.hub := rfl
@[simp] theorem State.advance_tick : s.advance.tick = s.tick + 1 := rfl
@[simp] theorem State.modHub_hub (f : Hub → Hub) : (s.modHub f).hub = f s.hub := rfl

/-! Cores. -/

/-- A core after one has been replaced. -/
theorem State.core_putCore (c c' : Nat) (k : Core) : (s.putCore c k).core c' = if c' = c then k else s.core c' := by
  simp [State.core, State.putCore, Table.getD_set]

/-- A core after one has been changed. -/
theorem State.core_modCore (c c' : Nat) (f : Core → Core) :
    (s.modCore c f).core c' = if c' = c then f (s.core c) else s.core c' := s.core_putCore c c' _

@[simp] theorem State.core_modTask (t : Nat) (f : Task → Task) (c : Nat) : (s.modTask t f).core c = s.core c := rfl
@[simp] theorem State.core_modHub (f : Hub → Hub) (c : Nat) : (s.modHub f).core c = s.core c := rfl

/-! Groups. -/

/-- A group after one has been put. -/
theorem State.group?_putGroup (c g c' g' : Nat) (x : Group) :
    (s.putGroup c g x).group? c' g' = if c' = c ∧ g' = g then some x else s.group? c' g' := by
  unfold State.group? State.putGroup
  rw [State.core_modCore]
  by_cases hc : c' = c
  · subst hc; simp [Table.get?_set]
  · simp [hc]

/-- A group after one has been changed. -/
theorem State.group?_modGroup (c g c' g' : Nat) (f : Group → Group) :
    (s.modGroup c g f).group? c' g' = if c' = c ∧ g' = g then (s.group? c g).map f else s.group? c' g' := by
  unfold State.modGroup
  cases h : s.group? c g with
  | none => by_cases hc : c' = c ∧ g' = g
            · obtain ⟨rfl, rfl⟩ := hc; simp [h]
            · simp [hc]
  | some x => simp [State.group?_putGroup]

@[simp] theorem State.group?_modTask (t : Nat) (f : Task → Task) (c g : Nat) : (s.modTask t f).group? c g = s.group? c g := rfl
@[simp] theorem State.group?_modHub (f : Hub → Hub) (c g : Nat) : (s.modHub f).group? c g = s.group? c g := rfl

/-- A change of a core that leaves its groups leaves every group. -/
theorem State.group?_modCore (c : Nat) (f : Core → Core) (hf : (f (s.core c)).groups = (s.core c).groups) (c' g' : Nat) :
    (s.modCore c f).group? c' g' = s.group? c' g' := by
  unfold State.group?
  rw [State.core_modCore]
  by_cases hc : c' = c
  · subst hc; simp [hf]
  · simp [hc]

@[simp] theorem State.group?_raise (c ctx : Nat) (bits : BitVec 64) (c' g' : Nat) :
    (s.raise c ctx bits).group? c' g' = s.group? c' g' := s.group?_modCore c _ rfl c' g'
@[simp] theorem State.group?_signal (c ctx n c' g' : Nat) : (s.signal c ctx n).group? c' g' = s.group? c' g' :=
  s.group?_modCore c _ rfl c' g'

/-- What a cycle's end does to a core: its counters and its record of elements held alone (R311, R201). -/
theorem State.core_advance (c : Nat) : ∃ sets units held loose, s.advance.core c =
    { s.core c with signals := [], sets := sets, unitsDue := units, held := held, loose := loose } := by
  unfold State.core Table.getD State.advance
  simp only
  generalize hs : s.cores = l
  clear hs
  induction l with
  | nil => exact ⟨[], [], [], [], rfl⟩
  | cons e t ih =>
    obtain ⟨j, y⟩ := e
    by_cases h : c = j
    · subst h
      simp only [List.map_cons, Table.get?, if_true, Option.getD_some]
      exact ⟨_, _, _, _, rfl⟩
    · simpa only [List.map_cons, Table.get?, h, if_false] using ih

/-- A cycle's end leaves every group. -/
@[simp] theorem State.group?_advance (c g : Nat) : s.advance.group? c g = s.group? c g := by
  obtain ⟨sets, units, held, loose, h⟩ := s.core_advance c
  unfold State.group?
  rw [h]

/-- The end of an issue, its cycle being shared with no other side. -/
theorem State.endCycle_alone (h : s.hold = false) : s.endCycle = s.advance := by simp [State.endCycle, h]

/-! Tasks. -/

/-- A task after one has been changed. -/
theorem State.task_modTask (t t' : Nat) (f : Task → Task) :
    Table.get? (s.modTask t f).tasks t' = if t' = t then (Table.get? s.tasks t).map f else Table.get? s.tasks t' := by
  simp [State.modTask, Table.get?_modify]

end Sys2Proof.Machine
end

