-- ==== Sys2Proof/Laws/Issue.lean ====
section
/-! SUPPORT. What the issue of an instruction does: the debit and bookkeeping, the PC, and all that stays as it is. -/

namespace Sys2Proof.Machine

/-! The selected split. -/

/-- What it means that a split is selected and live. -/
theorem State.view?_some {s : State} {v : View} (hs : Selected v s) :
    s.cur = some v.sel ∧ s.group? v.sel.core v.sel.slot = some v.group ∧ v.group.splits[v.sel.idx]? = some v.split ∧
    Table.get? s.tasks v.tid = some v.task ∧ v.core = s.core v.sel.core ∧ v.live = true ∧ s.hub.halted = false := by
  obtain ⟨hn, _, h⟩ := hs
  unfold State.view? at h
  rw [hn] at h
  cases hc : s.cur with
  | none => simp [hc] at h
  | some sel =>
    simp only [hc] at h
    cases hv : s.viewAt sel with
    | none => simp [hv] at h
    | some w =>
      simp only [hv] at h
      split at h
      · rename_i hl
        cases h
        simp only [Bool.and_eq_true, Bool.not_eq_true'] at hl
        unfold State.viewAt at hv
        cases hg : s.group? sel.core sel.slot with
        | none => simp [hg] at hv
        | some g =>
          simp only [hg] at hv
          split at hv
          · rename_i sp t hsp ht
            cases hv
            exact ⟨rfl, hg, hsp, ht, rfl, hl.1, hl.2⟩
          · simp at hv
      · simp at h

/-- A split selected and live is the one at its place. -/
theorem State.viewAt_of_view? {s : State} {v : View} (h : Selected v s) : s.viewAt v.sel = some v := by
  obtain ⟨_, hg, hsp, ht, hc, _, _⟩ := State.view?_some h
  unfold State.viewAt
  simp only [hg, hsp]
  unfold View.tid at ht
  rw [ht]
  simp [hc.symm]

/-! The bookkeeping of an issue. -/

section
variable (v : View) (cost : Nat) (s : State)

@[simp] theorem chargeIssue_tick : (chargeIssue v cost s).tick = s.tick := by unfold chargeIssue; split <;> simp
@[simp] theorem chargeIssue_fresh : (chargeIssue v cost s).fresh = s.fresh := by unfold chargeIssue; split <;> simp
@[simp] theorem chargeIssue_cur : (chargeIssue v cost s).cur = s.cur := by unfold chargeIssue; split <;> simp
@[simp] theorem chargeIssue_together : (chargeIssue v cost s).together = s.together := by unfold chargeIssue; split <;> simp
@[simp] theorem chargeIssue_hold : (chargeIssue v cost s).hold = s.hold := by unfold chargeIssue; split <;> simp
@[simp] theorem chargeIssue_ahead : (chargeIssue v cost s).ahead = s.ahead := by unfold chargeIssue; split <;> simp
@[simp] theorem chargeIssue_tileWrites : (chargeIssue v cost s).tileWrites = s.tileWrites := by unfold chargeIssue; split <;> simp
@[simp] theorem chargeIssue_inbox : (chargeIssue v cost s).inbox = s.inbox := by unfold chargeIssue; split <;> simp
@[simp] theorem chargeIssue_incs : (chargeIssue v cost s).incs = s.incs := by unfold chargeIssue; split <;> simp
@[simp] theorem chargeIssue_msgs : (chargeIssue v cost s).msgs = s.msgs := by unfold chargeIssue; split <;> simp
@[simp] theorem chargeIssue_mem : (chargeIssue v cost s).mem = s.mem := by unfold chargeIssue; split <;> simp
@[simp] theorem chargeIssue_poison : (chargeIssue v cost s).poison = s.poison := by unfold chargeIssue; split <;> simp
@[simp] theorem chargeIssue_full : (chargeIssue v cost s).full = s.full := by unfold chargeIssue; split <;> simp
@[simp] theorem chargeIssue_tarn : (chargeIssue v cost s).tarn = s.tarn := by unfold chargeIssue; split <;> simp
@[simp] theorem chargeIssue_hub : (chargeIssue v cost s).hub = s.hub := by unfold chargeIssue; split <;> simp

/-- The debit of an issue. -/
theorem chargeIssue_tasks : (chargeIssue v cost s).tasks =
    if v.split.paid.isSome then s.tasks else Table.modify s.tasks v.tid (fun x => x.charge cost) := by
  unfold chargeIssue; split <;> simp [State.modTask, *]

/-- The groups after the bookkeeping of an issue. -/
theorem group?_chargeIssue (c n : Nat) : (chargeIssue v cost s).group? c n =
    if c = v.sel.core ∧ n = v.sel.slot then (s.group? v.sel.core v.sel.slot).map (v.book s) else s.group? c n := by
  unfold chargeIssue
  split <;> simp only [State.group?_raise, State.onGroup, State.group?_modGroup, State.group?_modTask]

end

/-! A core but for its groups and counters. -/

/-- A change of a core shows beside its groups and counters as it changes those. -/
theorem State.quiet_modCore (s : State) (c c' : Nat) (f : Core → Core) :
    ((s.modCore c f).core c').quiet = if c' = c then (f (s.core c)).quiet else (s.core c').quiet := by
  rw [State.core_modCore]; split <;> rfl

@[simp] theorem State.quiet_modGroup (s : State) (c g c' : Nat) (f : Group → Group) :
    ((s.modGroup c g f).core c').quiet = (s.core c').quiet := by
  unfold State.modGroup
  cases s.group? c g with
  | none => rfl
  | some x =>
    unfold State.putGroup
    rw [State.quiet_modCore]
    split
    · rename_i h; subst h; rfl
    · rfl

@[simp] theorem State.quiet_raise (s : State) (c ctx : Nat) (bits : BitVec 64) (c' : Nat) :
    ((s.raise c ctx bits).core c').quiet = (s.core c').quiet := by
  unfold State.raise
  rw [State.quiet_modCore]
  split
  · rename_i h; subst h; rfl
  · rfl

@[simp] theorem State.quiet_signal (s : State) (c ctx n c' : Nat) :
    ((s.signal c ctx n).core c').quiet = (s.core c').quiet := State.quiet_raise ..

@[simp] theorem State.quiet_advance (s : State) (c : Nat) : (s.advance.core c).quiet = (s.core c).quiet := by
  obtain ⟨sets, units, held, loose, h⟩ := s.core_advance c
  rw [h]; rfl

@[simp] theorem State.quiet_onGroup (s : State) (sel : Sel) (f : Group → Group) (c' : Nat) :
    ((s.onGroup sel f).core c').quiet = (s.core c').quiet := State.quiet_modGroup ..

@[simp] theorem State.quiet_onSplit (s : State) (sel : Sel) (f : Split → Split) (c' : Nat) :
    ((s.onSplit sel f).core c').quiet = (s.core c').quiet := State.quiet_modGroup ..

@[simp] theorem quiet_chargeIssue (v : View) (cost : Nat) (s : State) (c : Nat) :
    ((chargeIssue v cost s).core c).quiet = (s.core c).quiet := by
  unfold chargeIssue; split <;> simp

/-! The issue of an instruction with nothing in its way. -/

/-- An instruction that nothing stands in the way of makes its debit and has its effect. -/
theorem issueFrom_ready {i : Instr} {v : View} {s : State} (h : Ready i v s) (body : View → State → Act) :
    issueFrom i body v s = (match body v (chargeIssue v (costOf v i) s) with
      | .next s2 => setPc v.sel (v.split.pc + 4) s2
      | .goto pc s2 => setPc v.sel pc s2
      | .placed s2 => s2
      | .trap cause tval => takeTrap v.sel cause tval s
      | .trapAfter cause tval => trapEntry v.sel cause (v.split.pc + 4) tval (chargeIssue v (costOf v i) s)) := by
  obtain ⟨_, _, _, _, _, hf, hp⟩ := h
  unfold issueFrom
  have hn : (v.split.paid.isNone && v.task.short (costOf v i)) = false := by
    rcases hf with h | h
    · simp [← Option.not_isSome, h]
    · simp [h]
  simp only [hn, Bool.false_eq_true, if_false, hp]
  try rfl

/-- An instruction that waits for nothing but the scoreboard has its effect when nothing stands in its way. -/
theorem issueWith_ready {i : Instr} {v : View} {s : State} (h : Ready i v s) (go : View → State → State) :
    issueWith i go s = .next (go v s).endCycle := by
  obtain ⟨⟨hn, hh, hv⟩, h1, h2, h3, h4, _, _⟩ := h
  simp only [issueWith, State.endIssue, hn, hv, issueAt, h1, h2, h3, h4, Bool.false_eq_true, if_false]
  try simp [hh]

/-- The same where what it does leaves the mark of a shared cycle alone: one cycle passes. -/
theorem issueWith_ready_advance {i : Instr} {v : View} {s : State} (h : Ready i v s) (go : View → State → State)
    (hk : (go v s).hold = s.hold) : issueWith i go s = .next (go v s).advance := by
  rw [issueWith_ready h, State.endCycle_alone _ (hk.trans h.1.2.1)]

/-- An instruction whose one effect, after its debit, is a change of the group that leaves splits and bookkeeping alone:
it retires with that change. -/
theorem retires_onGroup {i : Instr} {v : View} {s : State} (hv : Selected v s) (pc : W64) (f : Group → Group)
    (hf : ∀ (g : Group) (l : List Split),
      f { g with splits := l } = { f g with splits := l })
    (hs : (f v.group).splits = v.group.splits) :
    Retires i v s (setPc v.sel pc ((chargeIssue v (costOf v i) s).onGroup v.sel f)).advance pc (f v.group) id := by
  obtain ⟨_, hg, _, _, _, _, _⟩ := State.view?_some hv
  refine ⟨by simp [setPc], ⟨by simp [setPc], by simp [setPc], by simp [setPc], by simp [setPc], by simp [setPc], by simp [setPc],
    by simp [setPc]⟩, ⟨by simp [setPc], by simp [setPc], by simp [setPc]⟩, by simp [setPc], by simp [setPc], by simp [setPc],
    fun _ => by simp [setPc], ?_, ?_, ?_, ?_⟩
  · intro c n hn
    simp only [State.group?_advance, setPc, State.onSplit, State.onGroup, State.group?_modGroup, group?_chargeIssue, hn,
      if_false]
  · simp only [State.group?_advance, setPc, State.onSplit, State.onGroup, State.group?_modGroup, group?_chargeIssue,
      and_self, if_true, hg, Option.map_some]
    congr 1
    unfold View.book View.booked
    rw [hf v.group]
    simp only [changeAt_changeAt, hs]
  · intro c; simp [setPc]
  · unfold Debited; simp only [State.advance_tasks, setPc, State.onSplit_tasks, State.onGroup_tasks, chargeIssue_tasks]

end Sys2Proof.Machine
end

