-- ==== Sys2Proof/Laws/Memory.lean ====
section
/-! SUPPORT. Laws of memory: a read after a write (R8), what a write leaves, and the canonical form, which every operation
on memory keeps. -/

namespace Sys2Proof.Machine

/-! Reading after writing. -/

theorem Memory.get_insert (m : List Host.Cell) (a b : Nat) (v : Byte) :
    Memory.get (Memory.insert m a v) b = if b = a then v else Memory.get m b := by
  induction m with
  | nil => by_cases h : b = a <;> simp [Memory.insert, Memory.get, h]
  | cons c t ih =>
    obtain ⟨j, w⟩ := c
    by_cases h1 : a = j
    · subst h1
      by_cases h : b = a <;> simp [Memory.insert, Memory.get, h]
    · by_cases h2 : a < j
      · by_cases h : b = a <;> simp [Memory.insert, Memory.get, h1, h2, h]
      · by_cases h : b = j
        · have hne : ¬(b = a) := fun hh => h1 (hh.symm.trans h)
          simp [Memory.insert, Memory.get, h1, h2, h, Ne.symm h1]
        · simp [Memory.insert, Memory.get, h1, h2, h, ih]

theorem Memory.get_filter (m : List Host.Cell) (a b : Nat) :
    Memory.get (m.filter (fun c => decide (c.1 ≠ a))) b = if b = a then 0 else Memory.get m b := by
  induction m with
  | nil => simp [Memory.get]
  | cons c t ih =>
    obtain ⟨j, w⟩ := c
    by_cases h1 : j = a
    · subst h1
      by_cases h : b = j <;> simp_all [Memory.get]
    · by_cases h : b = j
      · subst h; simp [Memory.get, h1]
      · simp_all [Memory.get]

/-- A byte read after one byte has been written. -/
theorem Memory.get_put (m : List Host.Cell) (a b : Nat) (v : Byte) :
    Memory.get (Memory.put m a v) b = if b = a then v else Memory.get m b := by
  unfold Memory.put
  by_cases hv : v = 0
  · rw [if_pos hv, Memory.get_filter, hv]
  · rw [if_neg hv, Memory.get_insert]

/-- A byte that a list of writes does not name reads as before. -/
theorem Memory.get_putAll_of_notMem (cells : List (Nat × Byte)) (m : List Host.Cell) (a : Nat)
    (h : ∀ c ∈ cells, c.1 ≠ a) : Memory.get (Memory.putAll m cells) a = Memory.get m a := by
  induction cells generalizing m with
  | nil => rfl
  | cons c t ih =>
    have hc : a ≠ c.1 := fun hh => h c (by simp) hh.symm
    simp only [Memory.putAll, List.foldl_cons] at *
    rw [ih _ (fun d hd => h d (by simp [hd])), Memory.get_put, if_neg hc]

/-- Writes of distinct bytes: each reads as written. -/
theorem Memory.get_putAll_of_mem (cells : List (Nat × Byte)) (m : List Host.Cell) (hd : (cells.map Prod.fst).Nodup)
    {c : Nat × Byte} (h : c ∈ cells) : Memory.get (Memory.putAll m cells) c.1 = c.2 := by
  induction cells generalizing m with
  | nil => simp at h
  | cons e t ih =>
    simp only [List.map_cons, List.nodup_cons] at hd
    rcases List.mem_cons.1 h with rfl | h
    · have hn : ∀ d ∈ t, d.1 ≠ c.1 := fun d hdt hh => hd.1 (by rw [← hh]; exact List.mem_map_of_mem hdt)
      have := Memory.get_putAll_of_notMem t (Memory.put m c.1 c.2) c.1 hn
      simpa [Memory.putAll, Memory.get_put] using this
    · exact ih (Memory.put m e.1 e.2) hd.2 h

/-! The canonical form. -/

theorem Memory.wfFrom_mono {lo lo' : Nat} {m : List Host.Cell} (hl : lo' ≤ lo) (h : Memory.wfFrom lo m = true) :
    Memory.wfFrom lo' m = true := by
  cases m with
  | nil => rfl
  | cons c t =>
    obtain ⟨j, b⟩ := c
    simp only [Memory.wfFrom, Bool.and_eq_true, decide_eq_true_eq] at *
    exact ⟨⟨hl.trans h.1.1, h.1.2⟩, h.2⟩

theorem Memory.wfFrom_cons (lo j : Nat) (b : Byte) (m : List Host.Cell) :
    Memory.wfFrom lo ((j, b) :: m) = true ↔ lo ≤ j ∧ b ≠ 0 ∧ Memory.wfFrom (j + 1) m = true := by
  simp only [Memory.wfFrom, Bool.and_eq_true, decide_eq_true_eq, and_assoc]

theorem Memory.wfFrom_insert {lo a : Nat} {m : List Host.Cell} {v : Byte} (ha : lo ≤ a) (hv : v ≠ 0)
    (h : Memory.wfFrom lo m = true) : Memory.wfFrom lo (Memory.insert m a v) = true := by
  induction m generalizing lo with
  | nil => exact (Memory.wfFrom_cons lo a v []).2 ⟨ha, hv, rfl⟩
  | cons c t ih =>
    obtain ⟨j, b⟩ := c
    obtain ⟨h1, h2, h3⟩ := (Memory.wfFrom_cons lo j b t).1 h
    unfold Memory.insert
    split
    · subst_vars; exact (Memory.wfFrom_cons _ _ _ _).2 ⟨ha, hv, h3⟩
    · split
      · exact (Memory.wfFrom_cons _ _ _ _).2 ⟨ha, hv, (Memory.wfFrom_cons _ _ _ _).2 ⟨by omega, h2, h3⟩⟩
      · exact (Memory.wfFrom_cons _ _ _ _).2 ⟨h1, h2, ih (by omega) h3⟩

theorem Memory.wfFrom_filter {lo : Nat} {m : List Host.Cell} (p : Host.Cell → Bool) (h : Memory.wfFrom lo m = true) :
    Memory.wfFrom lo (m.filter p) = true := by
  induction m generalizing lo with
  | nil => rfl
  | cons c t ih =>
    obtain ⟨j, b⟩ := c
    obtain ⟨h1, h2, h3⟩ := (Memory.wfFrom_cons lo j b t).1 h
    rw [List.filter_cons]
    split
    · exact (Memory.wfFrom_cons _ _ _ _).2 ⟨h1, h2, ih h3⟩
    · exact Memory.wfFrom_mono (by omega) (ih h3)

/-- Removing cells keeps the canonical form. -/
theorem Memory.wf_filter {m : List Host.Cell} (p : Host.Cell → Bool) (h : Memory.wf m = true) :
    Memory.wf (m.filter p) = true := Memory.wfFrom_filter p h

/-- A byte written keeps the canonical form. -/
theorem Memory.wf_put {m : List Host.Cell} (a : Nat) (v : Byte) (h : Memory.wf m = true) :
    Memory.wf (Memory.put m a v) = true := by
  unfold Memory.put
  split
  · exact Memory.wf_filter _ h
  · exact Memory.wfFrom_insert (Nat.zero_le a) ‹_› h

/-- Bytes written keep the canonical form. -/
theorem Memory.wf_putAll {m : List Host.Cell} (cells : List (Nat × Byte)) (h : Memory.wf m = true) :
    Memory.wf (Memory.putAll m cells) = true := by
  induction cells generalizing m with
  | nil => exact h
  | cons c t ih => exact ih (Memory.wf_put c.1 c.2 h)

/-! States: which operations write memory, and that each keeps the form. -/

/-- The memory of a state is in canonical form. -/
def State.canonical (s : State) : Prop := Memory.wf s.mem = true

/-- A fold of steps that keep the form keeps it. -/
theorem State.canonical_foldl {α : Type} (f : State → α → State) (hf : ∀ s x, s.canonical → (f s x).canonical)
    (l : List α) (s : State) (h : s.canonical) : (l.foldl f s).canonical := by
  induction l generalizing s with
  | nil => exact h
  | cons x xs ih => exact ih _ (hf s x h)

@[simp] theorem State.bumpStale_mem (s : State) (c g : Nat) : (s.bumpStale c g).mem = s.mem := by
  show (s.modGroup c g _).mem = s.mem
  simp

@[simp] theorem State.countStale_mem (s : State) (c tid gid : Nat) : (s.countStale c tid gid).mem = s.mem := by
  unfold State.countStale
  split
  · simp
  · rfl

/-- What dropped bytes count leaves memory. -/
@[simp] theorem mereDrop_mem (s : State) (pas : List Nat) : (mereDrop s pas).mem = s.mem := by
  unfold mereDrop
  generalize (pas.filterMap (dropOwner s)).foldl addOnce [] = l
  induction l generalizing s with
  | nil => rfl
  | cons x xs ih => rw [List.foldl_cons, ih, State.countStale_mem]

/-- A byte written at a place of the Mere map changes memory in the scratchpad alone. -/
theorem mereStore_mem (s : State) (c : Nat) (m : MereAt) (pa : Nat) (b : Byte) (clears sets : Bool) :
    (mereStore s c m pa b clears sets).mem = s.mem ∨
      (mereStore s c m pa b clears sets).mem = Memory.put s.mem pa b := by
  unfold mereStore
  split
  · exact .inl rfl
  · split
    · exact .inr rfl
    · split
      · exact .inl (State.modGroup_mem _ _ _ _)
      · split
        · exact .inl rfl
        · split
          · exact .inl rfl
          · exact .inl rfl

/-- A byte written to the Mere map changes memory in the scratchpad alone. -/
theorem mereWrite_mem (s : State) (pa : Nat) (b : Byte) (clears sets : Bool) :
    (mereWrite s pa b clears sets).mem = s.mem ∨ (mereWrite s pa b clears sets).mem = Memory.put s.mem pa b := by
  unfold mereWrite; exact mereStore_mem ..

/-- A byte written to the Mere map keeps the form. -/
theorem mereWrite_canonical (s : State) (pa : Nat) (b : Byte) (clears sets : Bool) (h : s.canonical) :
    (mereWrite s pa b clears sets).canonical := by
  unfold State.canonical
  rcases mereWrite_mem s pa b clears sets with e | e <;> rw [e]
  · exact h
  · exact Memory.wf_put _ _ h

/-- A write of firmware's keeps the form (R279, R280). -/
theorem writeRaw_canonical (s : State) (cells : List (Nat × Byte)) (h : s.canonical) : (writeRaw s cells).canonical := by
  unfold writeRaw
  apply State.canonical_foldl _ (fun st c hs => mereWrite_canonical st _ _ _ _ hs)
  unfold State.canonical
  rw [mereDrop_mem]
  exact Memory.wf_putAll _ h

/-- A write keeps the form (R279, R280). -/
theorem writeCells_canonical (s : State) (cells : List (Nat × Byte)) (h : s.canonical) : (writeCells s cells).canonical :=
  writeRaw_canonical _ _ h

/-- A write of bytes outside the Mere map, none of them closed to stores, writes those it names (R11). -/
theorem writeCells_mem (s : State) (cells : List (Nat × Byte)) (hm : ∀ c ∈ cells, isMere c.1 = false)
    (ho : ∀ c ∈ cells, blockFixed s c.1 = false) : (writeCells s cells).mem = Memory.putAll s.mem cells := by
  have h0 : openCells s cells = cells := by
    unfold openCells; rw [List.filter_eq_self]; intro c hc; simp [ho c hc]
  have h1 : cells.filter (fun c => isMere c.1) = [] := by
    rw [List.filter_eq_nil_iff]; intro c hc; simp [hm c hc]
  have h2 : cells.filter (fun c => !isMere c.1) = cells := by
    rw [List.filter_eq_self]; intro c hc; simp [hm c hc]
  simp [writeCells, writeRaw, h0, h1, h2]

/-- Bytes that the device stores keep the form. -/
theorem putBytes_canonical (s : State) (pa : Nat) (bs : List Byte) (h : s.canonical) : (s.putBytes pa bs).canonical :=
  Memory.wf_putAll _ h

/-- A mailbox word written keeps the form (R225). -/
theorem writeWord_canonical (s : State) (pa : Nat) (x : W64) (h : s.canonical) : (writeWord s pa x).canonical :=
  writeCells_canonical s _ h

@[simp] theorem setFull_mem (s : State) (pa : Nat) (b : Bool) : (setFull s pa b).mem = s.mem := rfl

/-- A task's TCB written keeps the form (R165). -/
theorem storeTask_canonical (s : State) (tid : Nat) (t : Task) (h : s.canonical) : (s.storeTask tid t).canonical := by
  unfold State.storeTask
  simp only []
  generalize tcbPhys _ _ = o
  cases o with
  | none => exact h
  | some pa => exact putBytes_canonical { s with tasks := _ } pa _ h

/-- An operation of a Wellspring keeps the form (R172). -/
theorem taskOp_canonical (s : State) (tid : Nat) (f : Task → Task) (h : s.canonical) : (s.taskOp tid f).canonical := by
  unfold State.taskOp
  split
  · exact storeTask_canonical _ _ _ h
  · exact h

/-- The stores of a core performed keep the form (R229, R242). -/
theorem drainStores_canonical (s : State) (c : Nat) (h : s.canonical) : (s.drainStores c).canonical := by
  unfold State.drainStores
  simp only []
  split
  · exact h
  · have := State.canonical_foldl (fun st (o : StoreOp) => writeCells st o.cells) (fun st o hs => writeCells_canonical st _ hs)
      (s.core c).stores s h
    unfold State.canonical at *
    rw [State.modCore_mem]; exact this

end Sys2Proof.Machine
end

