-- ==== Sys2Proof/Laws/Registers.lean ====
section
/-! SUPPORT. Registers after a write: what the destination reads, and that all else is kept (R21, R113, R141, R353). -/

namespace Sys2Proof.Machine

variable (g : Group) (fr : Nat)

/-! Frames. -/

theorem Group.frame_putFrame (fr' : Nat) (f : Frame) : (g.putFrame fr f).frame fr' = if fr' = fr then f else g.frame fr' := by
  simp [Group.frame, Group.putFrame, Table.getD_set]

theorem Group.readV_putFrame (fr' n : Nat) (f : Frame) : (g.putFrame fr f).readV fr' n =
    if n < 120 ∧ fr' = fr then Table.getD f.v n VReg.zero else g.readV fr' n := by
  by_cases h : n < 120
  · by_cases e : fr' = fr <;> simp [Group.readV, h, Group.frame_putFrame, e]
  · simp [Group.readV, h, Group.putFrame]

theorem Group.readS_putFrame (fr' n : Nat) (f : Frame) : (g.putFrame fr f).readS fr' n =
    if 32 ≤ n ∧ fr' = fr then Table.getD f.s n SReg.zero else g.readS fr' n := by
  by_cases h : n = 0
  · simp [Group.readS, h]
  · by_cases h2 : n < 32
    · have : ¬(32 ≤ n) := by omega
      simp [Group.readS, h, h2, this, Group.putFrame]
    · have : 32 ≤ n := by omega
      by_cases e : fr' = fr <;> simp [Group.readS, h, h2, this, Group.frame_putFrame, e]

/-! Lanes. -/

@[simp] theorem laneAt_ofLanes (f : Nat → W32) (k : Nat) (h : k < 32) : laneAt (ofLanes f) k = f k := by
  simp [laneAt, ofLanes, upto, h]

/-- Lane k after a write under a mask (R113). -/
theorem laneAt_mergeLanes (m : W32) (f : Nat → W32) (old : Lanes) (k : Nat) (h : k < 32) :
    laneAt (mergeLanes m f old) k = if m.getLsbD k then f k else laneAt old k := by
  simp [mergeLanes, maskHas, h]

/-! Scalars. -/

/-- A scalar after one has been put. -/
theorem Group.readS_putS (n fr' n' : Nat) (r : SReg) : (g.putS fr n r).readS fr' n' =
    if n' = 0 then SReg.zero else if n' = n ∧ (n < 32 ∨ fr' = fr) then r else g.readS fr' n' := by
  unfold Group.putS
  by_cases h0 : n = 0
  · subst h0
    by_cases h : n' = 0
    · simp [Group.readS, h]
    · simp [h]
  · rw [if_neg h0]
    by_cases h : n' = 0
    · simp [Group.readS, h]
    · rw [if_neg h]
      by_cases h32 : n < 32
      · rw [if_pos h32]
        by_cases e : n' = n
        · subst e; simp [Group.readS, h, h32, Table.getD_set]
        · simp only [Group.readS, h, if_false, e, false_and]
          split
          · simp [Table.getD_set, e]
          · rfl
      · rw [if_neg h32]
        by_cases e : n' = n
        · subst e
          simp only [Group.readS, h, h32, if_false, Group.frame_putFrame, false_or, true_and]
          split
          · simp [Table.getD_set]
          · rfl
        · simp only [Group.readS, h, if_false, e, false_and]
          split
          · rfl
          · rw [Group.frame_putFrame]
            split
            · rename_i hh; subst hh; simp [Table.getD_set, e]
            · rfl

@[simp] theorem Group.readV_putS (n fr' n' : Nat) (r : SReg) : (g.putS fr n r).readV fr' n' = g.readV fr' n' := by
  unfold Group.putS
  split
  · rfl
  · split
    · rfl
    · rw [Group.readV_putFrame]
      split
      · rename_i h; simp [Group.readV, h.1, h.2]
      · rfl

@[simp] theorem Group.p_putS (n : Nat) (r : SReg) : (g.putS fr n r).p = g.p := by
  unfold Group.putS; split <;> [rfl; split <;> rfl]
@[simp] theorem Group.tiles_putS (n : Nat) (r : SReg) : (g.putS fr n r).tiles = g.tiles := by
  unfold Group.putS; split <;> [rfl; split <;> rfl]
@[simp] theorem Group.accs_putS (n : Nat) (r : SReg) : (g.putS fr n r).accs = g.accs := by
  unfold Group.putS; split <;> [rfl; split <;> rfl]
@[simp] theorem Group.sat_putS (n : Nat) (r : SReg) : (g.putS fr n r).sat = g.sat := by
  unfold Group.putS; split <;> [rfl; split <;> rfl]
@[simp] theorem Group.splits_putS (n : Nat) (r : SReg) : (g.putS fr n r).splits = g.splits := by
  unfold Group.putS; split <;> [rfl; split <;> rfl]
@[simp] theorem Group.bare_putS (n : Nat) (r : SReg) : (g.putS fr n r).bare = g.bare := by
  unfold Group.putS; split <;> [rfl; split <;> rfl]
theorem Group.frame_bare_putS (n fr' : Nat) (r : SReg) : ((g.putS fr n r).frame fr').bare = (g.frame fr').bare := by
  unfold Group.putS
  split
  · rfl
  · split
    · rfl
    · rw [Group.frame_putFrame]; split
      · rename_i h; subst h; rfl
      · rfl

/-- A write of a scalar keeps all else. -/
theorem Group.kept_writeS (d : Nat) (x : W64) : Kept g (g.writeS fr d x) fr [.s d] := by
  refine ⟨?_, by simp [Group.writeS], fun fr' => Group.frame_bare_putS ..⟩
  intro fr' r hr
  cases r with
  | s n =>
    simp only [SameReg, Group.writeS, Group.readS_putS]
    by_cases h0 : n = 0
    · simp [h0, Group.readS]
    · rw [if_neg h0, if_neg]
      rintro ⟨rfl, h⟩
      apply hr
      refine ⟨by simp, fun hf => ?_⟩
      rcases h with h | h
      · simp [RegRef.frameLocal] at hf; omega
      · exact h
  | v n => simp [SameReg, Group.writeS]
  | p n => simp [SameReg, Group.writeS, Group.readP]
  | t n => simp [SameReg, Group.writeS, Group.readT]
  | a n q => simp [SameReg, Group.writeS, Group.readA]

/-- What a scalar reads after its write (R21, R353). -/
theorem Group.readS_writeS (d : Nat) (x : W64) : (g.writeS fr d x).readS fr d = if d = 0 then SReg.zero else ⟨x, false⟩ := by
  simp [Group.writeS, Group.readS_putS]

/-! Vector registers. -/

/-- A vector register after one has been put. -/
theorem Group.readV_putV (n fr' n' : Nat) (r : VReg) : (g.putV fr n r).readV fr' n' =
    if n' = n ∧ (120 ≤ n ∨ fr' = fr) then r else g.readV fr' n' := by
  unfold Group.putV
  by_cases h : n < 120
  · rw [if_pos h]
    by_cases e : n' = n
    · subst e
      have h2 : ¬(120 ≤ n') := by omega
      simp only [Group.readV, h, if_true, Group.frame_putFrame, h2, false_or, true_and]
      split
      · simp [Table.getD_set]
      · rfl
    · simp only [Group.readV, e, false_and, if_false]
      split
      · rw [Group.frame_putFrame]
        split
        · rename_i hh; subst hh; simp [Table.getD_set, e]
        · rfl
      · rfl
  · rw [if_neg h]
    by_cases e : n' = n
    · subst e
      have h2 : 120 ≤ n' := by omega
      simp [Group.readV, h, h2, Table.getD_set]
    · simp only [Group.readV, e, false_and, if_false]
      split
      · rfl
      · simp [Table.getD_set, e]

@[simp] theorem Group.readS_putV (n fr' n' : Nat) (r : VReg) : (g.putV fr n r).readS fr' n' = g.readS fr' n' := by
  unfold Group.putV
  split
  · rw [Group.readS_putFrame]
    split
    · rename_i h
      have h1 : ¬(n' = 0) := by omega
      have h2 : ¬(n' < 32) := by omega
      simp [Group.readS, h1, h2, h.2]
    · rfl
  · rfl

@[simp] theorem Group.p_putV (n : Nat) (r : VReg) : (g.putV fr n r).p = g.p := by unfold Group.putV; split <;> rfl
@[simp] theorem Group.tiles_putV (n : Nat) (r : VReg) : (g.putV fr n r).tiles = g.tiles := by unfold Group.putV; split <;> rfl
@[simp] theorem Group.accs_putV (n : Nat) (r : VReg) : (g.putV fr n r).accs = g.accs := by unfold Group.putV; split <;> rfl
@[simp] theorem Group.sat_putV (n : Nat) (r : VReg) : (g.putV fr n r).sat = g.sat := by unfold Group.putV; split <;> rfl
@[simp] theorem Group.splits_putV (n : Nat) (r : VReg) : (g.putV fr n r).splits = g.splits := by unfold Group.putV; split <;> rfl
@[simp] theorem Group.bare_putV (n : Nat) (r : VReg) : (g.putV fr n r).bare = g.bare := by unfold Group.putV; split <;> rfl
theorem Group.frame_bare_putV (n fr' : Nat) (r : VReg) : ((g.putV fr n r).frame fr').bare = (g.frame fr').bare := by
  unfold Group.putV
  split
  · rw [Group.frame_putFrame]; split
    · rename_i h; subst h; rfl
    · rfl
  · rfl

/-- A put of a vector register keeps all else. -/
theorem Group.kept_putV (d : Nat) (r : VReg) : Kept g (g.putV fr d r) fr [.v d] := by
  refine ⟨?_, by simp, fun fr' => Group.frame_bare_putV ..⟩
  intro fr' r hr
  cases r with
  | v n =>
    simp only [SameReg, Group.readV_putV]
    rw [if_neg]
    rintro ⟨rfl, h⟩
    apply hr
    refine ⟨by simp, fun hf => ?_⟩
    rcases h with h | h
    · simp [RegRef.frameLocal] at hf; omega
    · exact h
  | s n => simp [SameReg]
  | p n => simp [SameReg, Group.readP]
  | t n => simp [SameReg, Group.readT]
  | a n q => simp [SameReg, Group.readA]

/-- A write of a vector register keeps all else. -/
theorem Group.kept_writeV (d : Nat) (m : W32) (f : Nat → W32) : Kept g (g.writeV fr d m f) fr [.v d] := Group.kept_putV ..

/-- A vector register after its write under a mask (R113, R141, R353). -/
theorem Group.readV_writeV (d : Nat) (m : W32) (f : Nat → W32) : (g.writeV fr d m f).readV fr d =
    ⟨mergeLanes m f (g.lanes fr d), (g.readV fr d).poison &&& ~~~m⟩ := by
  simp [Group.writeV, Group.readV_putV]

/-- Lane k of a vector register after its write under a mask (R113). -/
theorem Group.lane_writeV (d : Nat) (m : W32) (f : Nat → W32) (k : Nat) (h : k < 32) :
    laneAt ((g.writeV fr d m f).lanes fr d) k = if m.getLsbD k then f k else laneAt (g.lanes fr d) k := by
  rw [Group.lanes, Group.readV_writeV, laneAt_mergeLanes _ _ _ _ h]

/-! Predicates. -/

/-- A write of a predicate keeps all else. -/
theorem Group.kept_writeP (d : Nat) (m bits : W32) : Kept g (g.writeP d m bits) fr [.p d] := by
  refine ⟨?_, rfl, fun _ => rfl⟩
  intro fr' r hr
  cases r with
  | p n =>
    have : n ≠ d := by rintro rfl; exact hr ⟨by simp, by simp [RegRef.frameLocal]⟩
    simp [SameReg, Group.writeP, Group.readP, Group.putP, Table.getD_set, this]
  | s n => rfl
  | v n => rfl
  | t n => rfl
  | a n q => exact ⟨rfl, rfl, fun _ _ _ => rfl⟩

/-- A predicate after its write under a mask (R141). -/
theorem Group.pval_writeP (d : Nat) (m bits : W32) : (g.writeP d m bits).pval d = (g.pval d &&& ~~~m) ||| (bits &&& m) := by
  simp [Group.writeP, Group.pval, Group.readP, Group.putP, Table.getD_set]

end Sys2Proof.Machine
end

