-- ==== Sys2Proof/Tests/Slice0.lean ====
section
/-! SUPPORT. Tests: ill-formed terms are refused, words written out from the encodings decode to their instructions,
each statement's hypotheses are met by a concrete state, and single steps on small states give the values that the
spec's rules give by hand calculation. -/

open Sys2Proof Sys2Proof.Machine

namespace Sys2Proof.Tests

set_option Elab.async false

/-! Ill-formed terms, one for each check of WellFormed. -/

/-- Register numbers past the class (R47), blocks and pairs that cross or are odd (R48), number fields past their range
(R49), types an instruction does not accept (R51), and step operands past the part's numbers (R5, R109). -/
theorem test_ill_formed : [
    Instr.add 64 1 2, .sub 1 64 2, .mul 1 2 64, .clz 64 1, .cmp .eq 64 1 2, .sel 1 2 3 16, .addi 64 1 0, .shli 1 2 64,
    .li 64 0, .bz 16 0, .call 121 0, .callr 0 64, .jr 64, .fgrow 0, .fgrow 16, .fshrink 0, .ld .byte 64 1,
    .lds .dword 1 2, .amo .add .byte .grp 1 2, .cas .word .grp 3 1, .cas .word .grp 0 1, .vamo .add .grp 3 1,
    .fld .grp 64 1, .vadd .i32 128 1 2, .vfma .i32 1 2 3, .vabs .u32 1 2, .vand 1 128 2, .vcvt .i32 .i32 1 2, .vrcp 128 1,
    .vdiv 1 2 128, .vcmp .eq .i32 16 1 2, .vsel 1 2 3 16, .vmov 128 1, .vbcast 1 64, .vlane 1 2 32, .vslide true 0 1 2 3,
    .vslide true 8 1 2 3, .vshfl 1 2 128, .vred .add .f16 1 2, .vscan .add .bf16 1 2, .pand 16 1 2, .pnot 16 1, .pcnt 1 16,
    .vld .dword 1 2, .vldc .byte 3 1, .touch 64, .mfmt 128, .mm 8 0 0, .mm 0 109 0, .mmm 0 117 1, .tld 8 1, .aclr 8,
    .aget 113 0, .aput 0 125, .cpy 64 1 2, .cpy2 1 0, .cpy2 1 27, .take 64, .push 1 16, .pop 128 0, .spawn 1 2 64,
    .signal 64, .cancel 1 64, .mfs 1 18, .mts 18 1, .waitc 16 0 0 0, .rdctr 1 16, .meetBoundExpiry 384 0 0,
    .splitRefill 0 48, .frameGrant 384, .activeSetAdmit 0 2, .icacheLineFill 384 0, .securityAlarm 4,
    .bar0RegisterWrite 4 0, .bar0RegisterWrite 4096 0, .helasLinkChange 8 true, .helasInboundWrite 0 1 0 false,
    .cxlMemRead (2 ^ 41), .cxlMemWrite 32 0, .asidRecycle 2048, .uncorrectableError (.vlane 0 0 0 0 32),
    .uncorrectableError (.memory (2 ^ 52)), .uncorrectableError (.tileUnit 0 0 0 24), .uncorrectableError (.accQuarter 0 0 0 4),
    .uncorrectableError (.pred 0 0 16), .uncorrectableError (.icacheLine 0 2048 0), .uncorrectableError (.tlb 384)
  ].all (fun i => !i.wellFormed) = true := by decide

/-- The boundary values of the same fields are well formed. -/
theorem test_well_formed : [
    Instr.add 63 63 63, .sel 1 2 3 15, .shli 1 2 63, .call 120 0, .fgrow 15, .cas .dword .sys 62 1, .vamo .max .die 126 1,
    .vslide false 7 127 0 1, .mm 7 108 7, .mm 0 120 0, .aget 112 7, .aput 7 120, .cpy2 0 26, .cpy2 0 58, .mfs 63 17
  ].map (fun i => i.wellFormed) = [true, true, true, true, true, true, true, true, true, false, true, true, true, true, true] := by
  decide

/-! Words written out from the encodings of R43 to R50. -/

/-- The operand forms of R56, their fields as the spec gives them: ST.d s33,[s32]; CAS.d.dev s34,[s32]; VLDC.w v4,[s32];
SEL s33,s34,s35,s4; VSEL v6,v4,v5,p3; VCMP.lt.f32 p3,v4,v5; VCVT.f32.i32 v5,v4; VLANE s33,v4,17; VSLIDE.down v6,v4,v5,1;
VRED.max.f32 s33,v4. -/
theorem test_decode_operand_forms :
    decodeWord 0b0100000_0100001_0100000_000_11_00_0010 = some (.st .dword 33 32) ∧
    decodeWord 0b0100010_0100010_0100000_011_11_00_0000 = some (.cas .dword .dev 34 32) ∧
    decodeWord 0b1000110_0000100_0100000_000_10_00_0000 = some (.vldc .word 4 32) ∧
    decodeWord 0b0000110_0100001_0100010_0100011_0100 = some (.sel 33 34 35 4) ∧
    decodeWord 0b0111110_0000110_0000100_0000101_0011 = some (.vsel 6 4 5 3) ∧
    decodeWord 0b0111101_0100011_0000100_0000101_0010 = some (.vcmp .lt .f32 3 4 5) ∧
    decodeWord 0b0111010_0000101_0000100_0000000_0010 = some (.vcvt .f32 .i32 5 4) ∧
    decodeWord 0b0111111_0100001_0000100_0010001_0010 = some (.vlane 33 4 17) ∧
    decodeWord 0b1000000_0000110_0000100_0000101_1001 = some (.vslide true 1 6 4 5) ∧
    decodeWord 0b1000010_0100001_0000100_0000000_1010 = some (.vred .max .f32 33 4) := by decide

/-- CALL 24; CALLR 24, s33; FGROW 2 and FSHRINK 2 (imm 0x002 and 0x012); MM a0, v12, t1; PUSH v7, 2; POP v8, 2;
RDCTR s33, 5; WAITC 0, 15, 15, 15; FENCE.rel.die (ws 0b010_01_00); BRV p3; JMP. -/
theorem test_decode_operand_forms' :
    decodeWord 0b0011001_0011000_000000000000000001 = some (.call 24 1) ∧
    decodeWord 0b0011010_0011000_0100001_0000000_0000 = some (.callr 24 33) ∧
    decodeWord (0b0011100 * 2 ^ 25 + 0x002) = some (.fgrow 2) ∧ decodeWord (0b0011100 * 2 ^ 25 + 0x012) = some (.fshrink 2) ∧
    decodeWord 0b1010001_0000000_0001100_0000001_0000 = some (.mm 0 12 1) ∧
    decodeWord 0b1100011_0000000_0000111_0000000_0010 = some (.push 7 2) ∧
    decodeWord 0b1100100_0001000_0000000_0000000_0010 = some (.pop 8 2) ∧
    decodeWord 0b1111011_0100001_0000000_0000000_0101 = some (.rdctr 33 5) ∧
    decodeWord 0b0100101_0000000_0000000_010_01_00_0000 = some (.fence .rel .die) ∧
    decodeWord 0b0011000_0011_10_0000000000000000001 = some (.brv 3 1) ∧
    decodeWord 0b0011000_0000_11_1111111111111111111 = some (.jmp (-1)) := by decide

/-- The words of SampleWords. -/
theorem test_decode_sample_words : Obligations.SampleWords := by unfold Obligations.SampleWords; decide

/-- Reserved functions, nonzero Z fields and reserved subfields decode to nothing (R44, R47, R49, R51). -/
theorem test_decode_reserved : [0b0000001_0000001_0000010_0000011_1001, 0b0000100_0000001_0000010_0000001_0000,
    0b0011000_0001_11_0000000000000000000, 0b0011101_0000000000000000000000001, 0b0100000_0000001_0000010_001_11_00_0000,
    0b0100000_0000001_0000010_000_11_01_0000, 0b0100001_0000001_0000010_000_01_00_0000, 0b0110011_0000001_0000010_0000011_0000,
    0b0110110_0000001_0000010_0000000_0001, 0b1000000_0000001_0000010_0000011_1000, 0b0010100_0000001_0000010_00011_000000,
    0].all (fun w => decide (decodeWord w = none)) = true := by decide

/-! A small device: one crew of one group alone on core 0 (the placed program), pages of every kind, values in its
registers, a handler. -/

/-- A split that stands for none. -/
def noSplit : Split := ⟨0, 0, 0, 0, .ready, 0, 0, 0, 0, 0, none, .none, false, none, .no, false⟩

/-- The selected split of a state. -/
def view (s : State) : View := (s.view?).getD ⟨⟨0, 0, 0⟩, Core.reset, placedGroup, noSplit, placedRoot⟩

/-- Read-write, mailbox, absent, read-only and host-memory pages beside those of the program. -/
def pages : List Page := placedPages ++ [
  ⟨0, 0x30000, 0, true, true, false, false, true, 0x30000, none, 0⟩, ⟨0, 0x40000, 0, true, true, false, true, true, 0x40000, none, 0⟩,
  ⟨0, 0x50000, 0, true, true, false, false, false, 0, none, 0⟩, ⟨0, 0x60000, 0, true, false, false, false, true, 0x60000, none, 0⟩,
  ⟨0, 0x70000, 0, true, true, false, false, true, Config.hostBase, none, 0⟩]

/-- The values of s1 to s12: a data address, a mailbox, an absent page, a misaligned address, a read-only page, 7, 0, −3,
2^63, the host page, a small length, a code address. -/
def values : List (Nat × Nat) := [(1, 0x30000), (2, 0x40000), (3, 0x50000), (4, 0x30001), (5, 0x60000), (6, 7), (7, 0),
  (8, 2 ^ 64 - 3), (9, 2 ^ 63), (10, 0x70000), (11, 64), (12, 0x10040)]

/-- A group with its scalars set. -/
def withScalars (l : List (Nat × Nat)) (g : Group) : Group := l.foldl (fun g e => g.putS 0 e.1 ⟨BitVec.ofNat 64 e.2, false⟩) g

/-- A vector register whose lane k holds `f k`. -/
def lanes (f : Nat → Nat) : VReg := ⟨(List.range 32).map (fun k => BitVec.ofNat 32 (f k)), 0⟩

/-- The state with its one group changed. -/
def onG (f : Group → Group) (s : State) : State := s.modGroup 0 0 f
/-- The state with its first resident split changed. -/
def onS (f : Split → Split) (s : State) : State := onG (fun g => { g with splits := changeAt g.splits 0 f }) s
/-- The state with its running task changed. -/
def onT (f : Task → Task) (s : State) : State := s.modTask placedTask f
/-- The state with core 0 changed. -/
def onC (f : Core → Core) (s : State) : State := s.modCore 0 f
/-- The state with the hub changed. -/
def onH (f : Hub → Hub) (s : State) : State := s.modHub f

/-- The device: split 0 of the group selected, its handler at 0x10000. -/
def rig : State := onH (fun h => { h with pages := pages }) (onG (fun g => { withScalars values g with
    tvb := 0x10000
    v := [(120, lanes (fun k => k)), (121, lanes (fun k => 3 * k + 1)), (122, lanes (fun k => 0x3F800000 + k * 2 ^ 23)),
      (123, lanes (fun k => 4 * k))]
    p := [(15, ⟨0xFFFFFFFF, false⟩), (1, ⟨0x0000FFFF, false⟩), (2, ⟨0xFFFFFFFF, false⟩)] })
  { State.reset.withFetchWord 32 0 with cur := some ⟨0, 0, 0⟩ })

/-- The scalars and vector registers of the device once more, for what a step leaves. -/
def after (r : Host.Outcome State Fault Refusal) (f : Group → Bool) : Bool :=
  match r with
  | .next t => match t.group? 0 0 with
    | some g => f g
    | none => false
  | .fault _ => false
  | .refused _ => false

/-- A step answers a state that satisfies a test. -/
def gives (r : Host.Outcome State Fault Refusal) (f : State → Bool) : Bool :=
  match r with
  | .next t => f t
  | .fault _ => false
  | .refused _ => false

/-! The hypotheses of the statements are met. -/

theorem test_witness_DecodeOfEncode : Instr.isEncoded (.vscan .max .f32 119 0) = true ∧ WellFormed (.vscan .max .f32 119 0) := by
  decide

theorem test_witness_EncodeOfDecode : decodeWord 0x02041820 = some (.add 1 3 2) := by decide

theorem test_witness_IllegalWords : ((0x7F * 2 ^ 25 + 5) / 2 ^ 25 ∈ reservedOpcodes) ∧ rig.view? = some (view rig) ∧
    decodeWord (0xFE000005 : W32).toNat = none ∧ HasHandler (view rig) ∧
    (onG (fun g => { g with tvb := 0 }) rig).view? = some (view (onG (fun g => { g with tvb := 0 }) rig)) ∧
    (view (onG (fun g => { g with tvb := 0 }) rig)).group.tvb = 0 := by decide +kernel

theorem test_witness_ScalarResults : ∃ d rule, scalarRule (view rig) (.mulh 40 8 9) = some (d, rule) ∧
    WellFormed (.mulh 40 8 9) ∧ Ready (.mulh 40 8 9) (view rig) rig :=
  ⟨_, _, rfl, by decide, by decide +kernel⟩

/-- A divisor of 0 is s7, one of 7 is s6; v121 holds no zero lane, v120 holds one. -/
theorem test_witness_DivideResults :
    (divideRule (view rig) (.rem 40 8 6)).isSome = true ∧ Ready (.rem 40 8 6) (view rig) rig ∧ (view rig).rs 6 ≠ 0 ∧
    (laneDivideRule (view rig) (.vdiv 0 120 121)).isSome = true ∧ Ready (.vdiv 0 120 121) (view rig) rig ∧
    (∀ k, k < 32 → (view rig).m.getLsbD k = true → (view rig).lane 121 k ≠ 0) ∧
    Ready (.divu 0 8 7) (view rig) rig ∧ HasHandler (view rig) ∧ (view rig).rs 7 = 0 ∧
    Ready (.vremu 127 121 120) (view rig) rig ∧ (view rig).m.getLsbD 0 = true ∧ (view rig).lane 120 0 = 0 := by
  decide +kernel

theorem test_witness_VectorIntegers : ∃ d rule, laneRule (view rig) (.vslide true 7 0 120 121) = some (d, rule) ∧
    WellFormed (.vslide true 7 0 120 121) ∧ Ready (.vslide true 7 0 120 121) (view rig) rig :=
  ⟨_, _, rfl, by decide, by decide +kernel⟩

theorem test_witness_VectorFloats : ∃ d f, floatRule (view rig) (.vfma .bf16 119 122 122) = some (d, f) ∧
    Ready (.vfma .bf16 119 122 122) (view rig) rig := ⟨_, _, rfl, by decide +kernel⟩

theorem test_witness_FloatSpecials : fDecode fp32 0x7FC00000 = .nan ∧ fDecode fp16 0x7E00 = .nan ∧ fDecode bf16 0x7FC0 = .nan := by
  decide +kernel

/-- Finite patterns of each format at the ends of their ranges; two that cancel, alone and in a product-sum; each case of a
conversion. -/
theorem test_witness_FloatSpecials_finite :
    (IsFinite fp32 (fMax fp32 true) ∧ IsFinite fp16 (fMax fp16 false) ∧ IsFinite bf16 1 ∧ IsFinite fp16 0x8001) ∧
    (fScaled fp16 0x3C00 ≠ 0 ∧ fScaled fp16 0x3C00 + fScaled fp16 0xBC00 = 0 ∧
      fScaled fp16 0x3C00 * fScaled fp16 0x3C00 + fScaled fp16 0xBC00 * 2 ^ 149 = 0) ∧
    (VType.f16.isFloat = true ∧ VType.i32.isFloat = false ∧ IsFinite (fmtOf .f32) (typeBits .f32 0x40490FDB) ∧
      typeBits .bf16 0xFFFF8000 = fZero (fmtOf .bf16) true ∧ typeBits .f16 0x7C00 = fInf (fmtOf .f16) false ∧
      fDecode (fmtOf .f32) (typeBits .f32 0xFFFFFFFF) = .nan) := by
  unfold IsFinite
  decide +kernel

/-- 1 + 2^−24 is a tie and stays 1, upward it is the next value; 65,520 is beyond binary16; −0.5 is 0 in .u32 and does not
clip, 2^32 does (R98, R99). -/
theorem test_rounding : fAdd fp32 .nearest 0x3F800000 0x33800000 = 0x3F800000 ∧ fAdd fp32 .up 0x3F800000 0x33800000 = 0x3F800001 ∧
    convert .nearest .f16 .i32 65520 = (0x7C00, false) ∧ convert .zero .f16 .i32 65520 = (0x7BFF, false) ∧
    convert .nearest .u32 .f32 0xBF000000 = (0, false) ∧ convert .nearest .u32 .f32 0x4F800000 = (0xFFFFFFFF, true) ∧
    convert .nearest .i32 .f32 0x40200000 = (2, false) ∧ convert .nearest .i32 .u32 0x80000000 = (0x7FFFFFFF, true) := by decide +kernel

theorem test_witness_VectorClips : (∃ d f, clipRule (view rig) (.vdot2I16 0 120 121) = some (d, f)) ∧
    WellFormed (.vdot2I16 0 120 121) ∧ Ready (.vdot2I16 0 120 121) (view rig) rig ∧
    (∃ d f, clipRule (view rig) (.vcvt .i32 .f32 0 122) = some (d, f)) ∧ Ready (.vcvt .i32 .f32 0 122) (view rig) rig :=
  ⟨⟨_, _, rfl⟩, by decide, by decide +kernel, ⟨_, _, rfl⟩, by decide +kernel⟩

theorem test_witness_PredicateResults : (∃ p f, predicateRule (view rig) (.vcmp .lt .i32 15 120 121) = some (p, f)) ∧
    Ready (.vcmp .lt .i32 15 120 121) (view rig) rig := ⟨⟨_, _, rfl⟩, by decide +kernel⟩

theorem test_witness_Reductions : (gatherRule (view rig) (.vred .min .u32 63 121)).isSome = true ∧
    Ready (.vred .min .u32 63 121) (view rig) rig ∧ Ready (.vscan .add .i32 0 120) (view rig) rig := by decide +kernel

theorem test_witness_Branches : (branchRule (view rig) (.bz 7 (-1))).isSome = true ∧ Ready (.bz 7 (-1)) (view rig) rig ∧
    (branchRule (view rig) (.jr 12)).isSome = true ∧ Ready (.jr 12) (view rig) rig ∧
    Ready (.jr 4) (view rig) rig ∧ HasHandler (view rig) ∧ (view rig).ui 4 % 4 ≠ 0 ∧
    Ready (.jr 9) (view rig) rig ∧ (view rig).ui 9 % 4 = 0 ∧ 2 ^ 56 ≤ (view rig).ui 9 := by decide +kernel

/-- p2 holds every lane, p0 none, p1 half of them. -/
theorem test_witness_Votes : Ready (.brv 2 1) (view rig) rig ∧ (view rig).m &&& (view rig).group.pval 2 = (view rig).m ∧
    Ready (.brv 0 1) (view rig) rig ∧ (view rig).m ≠ 0 ∧ (view rig).m &&& (view rig).group.pval 0 = 0 ∧
    Ready (.brv 1 1) (view rig) rig ∧ (view rig).m &&& (view rig).group.pval 1 ≠ (view rig).m ∧
    (view rig).m &&& (view rig).group.pval 1 ≠ 0 ∧ (view rig).group.splits.length < 8 ∧
    (∀ e ∈ (view rig).group.origins, 2 ≤ (view rig).group.members e.1) ∧
    lowestFree (0 :: Table.keys (view rig).group.origins) 1 31 = some 1 := by decide +kernel

/-- The device with eight resident entries of four lanes each, those of the selected one on both sides of p1. -/
def eightSplits : State := onG (fun g => { g with splits := g.splits.flatMap (fun sp => (List.range 8).map (fun k =>
  { sp with mask := BitVec.ofNat 32 (0x00030003 * 4 ^ k), pc := BitVec.ofNat 64 (0x10000 + 64 * k) })) }) rig
/-- The page of the group's split spill area is not resident. -/
def areaGone : State := onH (fun h => { h with areas := [(splitAreaOf 0 0, .absent)] }) eightSplits

theorem test_witness_Votes_full : Ready (.brv 1 1) (view eightSplits) eightSplits ∧
    (view eightSplits).m &&& (view eightSplits).group.pval 1 ≠ (view eightSplits).m ∧
    (view eightSplits).m &&& (view eightSplits).group.pval 1 ≠ 0 ∧ (view eightSplits).group.splits.length = 8 ∧
    eightSplits.areaState (splitAreaOf 0 0) = none ∧
    Ready (.brv 1 1) (view areaGone) areaGone ∧ (view areaGone).group.splits.length = 8 ∧
    (view areaGone).m &&& (view areaGone).group.pval 1 ≠ (view areaGone).m ∧
    (view areaGone).m &&& (view areaGone).group.pval 1 ≠ 0 ∧ areaGone.areaState (splitAreaOf 0 0) = some .absent := by
  decide +kernel

/-- The device with its split cut in two: lanes 0 to 15 where they were, lanes 16 to 31 as `f` makes them. -/
def twoSplits (f : Split → Split) : State := onG (fun g => { g with
  splits := g.splits.flatMap (fun sp => [{ sp with mask := 0xFFFF }, f { sp with mask := 0xFFFF0000 }]) }) rig

/-- The younger split is elsewhere; it waits at the same MEET. -/
def apart : State := twoSplits (fun sp => { sp with pc := 0x10020 })
def waiting : State := twoSplits (fun sp => { sp with state := .meet, meet := 0x10000, mrem := 256 })

theorem test_witness_Meets : Ready .meet (view apart) apart ∧ (view apart).group.mb ≠ 0 ∧
    Ready .meet (view rig) rig ∧ (view rig).group.splits = [(view rig).split] ∧ (view rig).group.spilled = [] ∧
    Ready .meet (view waiting) waiting ∧ (view waiting).sel.idx = 0 ∧ (view waiting).group.spilled = [] ∧
    (∃ w, (view waiting).group.splits = [(view waiting).split, w] ∧ w.state = .meet ∧ w.meet = (view waiting).split.pc ∧
      w.frame = (view waiting).fr ∧ w.inHandler = (view waiting).split.inHandler ∧ w.origin = (view waiting).split.origin) := by
  refine ⟨by decide +kernel, by decide +kernel, by decide +kernel, by decide +kernel, by decide +kernel, by decide +kernel,
    by decide +kernel, by decide +kernel, ((view waiting).group.splits.getD 1 noSplit), ?_⟩
  decide +kernel

/-- The two splits stand apart, with mb 256 and with mb 0: no merge stands. -/
theorem test_witness_Meets_apart : ((view apart).atMeet apart).NoMeeting ∧
    ((view (onG (fun g => { g with mb := 0 }) apart)).atMeet (onG (fun g => { g with mb := 0 }) apart)).NoMeeting ∧
    Ready .meet (view (onG (fun g => { g with mb := 0 }) apart)) (onG (fun g => { g with mb := 0 }) apart) := by
  unfold Group.NoMeeting; decide +kernel

/-- MEET with its sibling elsewhere waits with the count 256; alone it goes on; with its sibling at the MEET the two are
one entry with every lane, at PC + 4 (R118, R119). -/
theorem test_meet : gives (exec .meet apart) (fun t => after (.next t) (fun g =>
      g.splits.map Split.state = [.meet, .ready] && g.splits.map Split.mrem = [256, 0] && g.splits.map Split.pc = [0x10000, 0x10020])) ∧
    after (exec .meet rig) (fun g => g.splits.map Split.pc = [0x10004]) ∧
    after (exec .meet waiting) (fun g => g.splits.map (fun sp => (sp.pc, sp.mask, sp.state)) = [(0x10004, 0xFFFFFFFF, .ready)]) := by
  decide +kernel

/-- The device at depth 255, and with its frame one that a call made. -/
def atDepth (d : Nat) : State := onG (fun g => { g with frames := Table.modify g.frames 0 (fun f => { f with depth := d }) }) rig
/-- A second frame, 3, called from the first, in which the split stands: two granules, marker 1 + 256 × 9. -/
def inCall : State := onS (fun sp => { sp with frame := 3 }) (onG (fun g => { g with
  frames := Table.set g.frames 3 ⟨[15, 16], 0x10008, some 0, 1, 9, [(0, lanes (fun k => k))], [(63, ⟨0x901, false⟩)]⟩ }) rig)
/-- A third frame below it, with its caller's marker in s20. -/
def inCall2 : State := onS (fun sp => { sp with frame := 4 }) (onG (fun g => { g.putS 0 20 ⟨0x901, false⟩ with
  frames := Table.set g.frames 4 ⟨[17], 0x1000C, some 3, 2, 1, [], []⟩ }) inCall)

theorem test_witness_Calls : callRule (view rig) (.call 120 4) = some (120, 0x10010) ∧ Ready (.call 120 4) (view rig) rig ∧
    (view rig).core.requests = [] ∧ (view rig).frame.depth ≠ 255 ∧ takeScalar rig (view rig).sel.core = some 1 ∧
    (takeGrans rig (view rig).sel.core (ceil8 120)).isSome = true ∧
    callRule (view (atDepth 255)) (.callr 0 12) = some (0, 0x10040) ∧ Ready (.callr 0 12) (view (atDepth 255)) (atDepth 255) ∧
    HasHandler (view (atDepth 255)) ∧ (view (atDepth 255)).frame.depth = 255 ∧
    Ready (.callr 8 4) (view rig) rig ∧ HasHandler (view rig) ∧ (view rig).ui 4 % 4 ≠ 0 ∧
    Ready (.callr 8 9) (view rig) rig ∧ 2 ^ 56 ≤ (view rig).ui 9 := by decide +kernel

/-- CALL 120 to PC + 16: frame 1, fifteen granules, return PC, depth 1, marker 1 in s63, and its debit (R28, R78 to R80). -/
theorem test_call : after (exec (.call 120 4) rig) (fun g => g.splits.map (fun sp => (sp.pc, sp.frame)) = [(0x10010, 1)] &&
    (g.frame 1).grans.length = 15 && (g.frame 1).retPc = 0x10004 && (g.frame 1).link = some 0 && (g.frame 1).depth = 1 &&
    (g.readS 1 63).val = 1) ∧ costOf (view rig) (.call 120 4) = 19 := by decide +kernel

/-- A request of another group stands first at the core. -/
def queuedUp : State := onC (fun k => { k with requests := [⟨5, 0, .call 8 0, 1, true, 0⟩] }) rig
/-- The split itself waits for a grant. -/
def waitsForFrame : State := onC (fun k => { k with requests := [⟨0, 0, .call 8 4, 1, true, 0⟩] })
  (onS (fun sp => { sp with state := .frame, wait := .frame }) rig)
/-- The state in which a granted CALL runs. -/
def granted : State := State.onSplit (waitsForFrame.modCore 0 (fun k => { k with requests := [], lastGrant := waitsForFrame.cyc 0 }))
  ⟨0, 0, 0⟩ (fun sp => { sp with state := .ready, wait := .none })
/-- The view in which it runs. -/
def grantedView : View := (granted.viewAt ⟨0, 0, 0⟩).getD (view rig)

theorem test_witness_FrameRequests : Ready (.call 120 4) (view queuedUp) queuedUp ∧
    frameDemand (view queuedUp) (.call 120 4) = some (15, true) ∧ (view queuedUp).core.requests ≠ [] ∧
    (waitsForFrame.core 0).requests = [⟨0, 0, .call 8 4, 1, true, 0⟩] ∧
    ((waitsForFrame.group? 0 0).bind (fun g => g.byLane 0)) = some 0 ∧
    refillBlocks waitsForFrame 0 0 = false ∧ demandFits waitsForFrame 0 1 true = true ∧ granted.viewAt ⟨0, 0, 0⟩ = some grantedView ∧
    grantedView.live = true ∧ waitsForFrame.hub.halted = false ∧ grantedView.task.short (costOf grantedView (.call 8 4)) = false ∧
    grantedView.frame.depth ≠ 255 ∧ takeScalar waitsForFrame 0 = some 1 ∧ (takeGrans waitsForFrame 0 (ceil8 8)).isSome = true := by
  decide +kernel

theorem test_witness_FrameRequests_later : Ready (.call 120 4) (view { queuedUp with tick := 9 }) { queuedUp with tick := 9 } ∧
    (∀ x ∈ (view { queuedUp with tick := 9 }).core.requests, x.arrived < ({ queuedUp with tick := 9 } : State).cyc 0) := by decide +kernel

/-- A request of slot 0 goes before one of slot 5 of its own cycle, and behind one of an earlier cycle (R81). -/
theorem test_frame_request_order : gives (exec (.call 120 4) queuedUp) (fun t => (t.core 0).requests.map FrameReq.slot = [0, 5]) ∧
    gives (exec (.call 120 4) { queuedUp with tick := 9 }) (fun t => (t.core 0).requests.map FrameReq.slot = [5, 0]) := by decide +kernel

/-- The requests of a CALL and of an FGROW at the head of the queue can be granted. -/
def grantReq (i : Instr) (scalar : Bool) : FrameReq := ⟨0, 0, i, 1, scalar, 0⟩
def waitsFor (i : Instr) (scalar : Bool) : State := onC (fun k => { k with requests := [grantReq i scalar] })
  (onS (fun sp => { sp with state := .frame, wait := .frame, frame := 3 }) inCall)
def grantView (i : Instr) (scalar : Bool) : View :=
  ((State.onSplit ((waitsFor i scalar).modCore 0 (fun k => { k with requests := [], lastGrant := (waitsFor i scalar).cyc 0 }))
    ⟨0, 0, 0⟩ (fun sp => { sp with state := .ready, wait := .none })).viewAt ⟨0, 0, 0⟩).getD (view rig)

theorem test_witness_FrameRequests_grants :
    (∃ g, GrantNext (waitsFor (.call 8 4) true) 0 (grantReq (.call 8 4) true) [] 0 g (grantView (.call 8 4) true)) ∧
    callRule (grantView (.call 8 4) true) (.call 8 4) = some (8, 0x10010) ∧
    (takeScalar (waitsFor (.call 8 4) true) 0).isSome = true ∧ (takeGrans (waitsFor (.call 8 4) true) 0 1).isSome = true ∧
    (∃ g, GrantNext (waitsFor (.fgrow 1) false) 0 (grantReq (.fgrow 1) false) [] 0 g (grantView (.fgrow 1) false)) ∧
    (grantView (.fgrow 1) false).frame.grans.length + 1 ≤ 15 ∧ (takeGrans (waitsFor (.fgrow 1) false) 0 1).isSome = true := by
  refine ⟨⟨_, ⟨?_, rfl, ?_, ?_, ?_, ?_, ?_, ?_⟩, ?_, ?_⟩, ?_, ?_, ?_, ⟨_, ⟨?_, rfl, ?_, ?_, ?_, ?_, ?_, ?_⟩, ?_, ?_⟩, ?_, ?_⟩ <;>
    decide +kernel

/-- The same request of a task whose allowance is short. -/
def shortFor (park : Bool) : State := onT (fun t => { t with alw := 2, park := park }) (waitsFor (.call 8 4) true)
def shortView (park : Bool) : View :=
  ((State.onSplit ((shortFor park).modCore 0 (fun k => { k with requests := [], lastGrant := (shortFor park).cyc 0 }))
    ⟨0, 0, 0⟩ (fun sp => { sp with state := .ready, wait := .none })).viewAt ⟨0, 0, 0⟩).getD (view rig)

theorem test_witness_FrameRequests_short :
    (∃ g, GrantTurn (shortFor true) 0 (grantReq (.call 8 4) true) [] 0 g (shortView true)) ∧
    (frameDemand (shortView true) (.call 8 4)).isSome = true ∧ (shortView true).split.paid = none ∧
    (shortView true).task.short (costOf (shortView true) (.call 8 4)) = true ∧ (shortView true).task.park = true ∧
    (∃ g, GrantTurn (shortFor false) 0 (grantReq (.call 8 4) true) [] 0 g (shortView false)) ∧
    (frameDemand (shortView false) (.call 8 4)).isSome = true ∧ (shortView false).split.paid = none ∧
    (shortView false).task.short (costOf (shortView false) (.call 8 4)) = true ∧ (shortView false).task.park = false := by
  refine ⟨⟨_, ⟨?_, rfl, ?_, ?_, ?_, ?_, ?_, ?_⟩⟩, ?_, ?_, ?_, ?_, ⟨_, ⟨?_, rfl, ?_, ?_, ?_, ?_, ?_, ?_⟩⟩, ?_, ?_, ?_, ?_⟩ <;>
    decide +kernel

/-- The allowance fails at the grant: STARVED with the cost in xval, or ended with EXHAUSTED (R81, R191). -/
theorem test_grant_short : gives (exec (.frameGrant 0) (shortFor true)) (fun t => (Table.get? t.tasks placedTask).map (fun x =>
      (x.state, x.xcause, x.xval, x.alw)) = some (.starved, 1, 5, 2) && (t.core 0).requests.isEmpty) ∧
    gives (exec (.frameGrant 0) (shortFor false)) (fun t => (Table.get? t.tasks placedTask).map (fun x => (x.state, x.xstat)) =
      some (.unwinding, 4)) := by decide +kernel

/-- A granted CALL runs: the queue is empty and the split stands at its target in frame 1 (R81). -/
theorem test_frame_grant : gives (exec (.frameGrant 0) waitsForFrame) (fun t => (t.core 0).requests.isEmpty &&
    after (.next t) (fun g => g.splits.map (fun sp => (sp.pc, sp.frame, sp.state)) = [(0x10010, 1, .ready)])) = true := by
  decide +kernel

theorem test_witness_Returns :
    (Ready .ret (view inCall) inCall ∧ (view inCall).frame.link = some 0 ∧ 0 ≠ (view inCall).fr ∧
      ((view inCall).inFrame 0).claims (view inCall).fr = 0) ∧
    (Ready .ret (view rig) rig ∧ HasHandler (view rig) ∧ (view rig).frame.link = none) ∧
    (Ready (.unwind 63) (view inCall) inCall ∧ (view inCall).ui 63 < 2 ^ 16 ∧
      (view inCall).ui 63 % 256 = (view inCall).frame.depth ∧ (view inCall).frame.markGen.toNat = (view inCall).ui 63 / 256) ∧
    (Ready (.unwind 20) (view inCall2) inCall2 ∧ (view inCall2).ui 20 < 2 ^ 16 ∧
      (view inCall2).ui 20 % 256 < (view inCall2).frame.depth ∧ (view inCall2).group.atDepth 1 257 (view inCall2).fr = some 3 ∧
      (view inCall2).group.atDepth 2 257 (view inCall2).fr = some 4 ∧
      ((view inCall2).group.frame 3).markGen.toNat = (view inCall2).ui 20 / 256) ∧
    (Ready (.unwind 1) (view rig) rig ∧ 2 ^ 16 ≤ (view rig).ui 1) ∧
    (Ready (.unwind 6) (view rig) rig ∧ (view rig).frame.depth < (view rig).ui 6 % 256) := by
  refine ⟨?_, ?_, ?_, ?_, ?_, ?_⟩ <;> decide +kernel

/-- Another split still uses the frame: the caller may not free it. -/
def shared : State := onG (fun g => { g with splits := g.splits.flatMap (fun sp =>
  [{ sp with mask := 0xFFFF }, { sp with mask := 0xFFFF0000 }]) }) inCall

theorem test_witness_Returns_frames : (Ready .ret (view shared) shared ∧ (view shared).frame.link = some 0 ∧
      ((view shared).inFrame 0).claims (view shared).fr ≠ 0) ∧
    (Ready (.fgrow 13) (view inCall) inCall ∧ (view inCall).core.requests = [] ∧ (view inCall).frame.grans.length + 13 ≤ 15 ∧
      (takeGrans inCall (view inCall).sel.core 13).isSome = true) ∧
    (Ready (.fshrink 2) (view inCall) inCall ∧ 2 ≤ (view inCall).frame.grans.length) ∧
    (Ready (.fgrow 14) (view inCall) inCall ∧ HasHandler (view inCall) ∧ 15 < (view inCall).frame.grans.length + 14) ∧
    (Ready (.fshrink 3) (view inCall) inCall ∧ (view inCall).frame.grans.length < 3) := by
  refine ⟨?_, ?_, ?_, ?_, ?_⟩ <;> decide +kernel

/-- RET from frame 3 goes to its return PC in frame 0, frees the frame and advances its generation; from a shared frame
it frees nothing. UNWIND to the marker of frame 3 from frame 4 goes to the return PC of frame 4 in frame 3 (R82, R84). -/
theorem test_ret_unwind : gives (exec .ret inCall) (fun t => (t.core 0).sgenOf 3 = 1 && after (.next t) (fun g =>
      g.splits.map (fun sp => (sp.pc, sp.frame)) = [(0x10008, 0)] && (Table.get? g.frames 3).isNone)) ∧
    gives (exec .ret shared) (fun t => (t.core 0).sgenOf 3 = 0 && after (.next t) (fun g => (Table.get? g.frames 3).isSome)) ∧
    after (exec (.unwind 20) inCall2) (fun g => g.splits.map (fun sp => (sp.pc, sp.frame)) = [(0x1000C, 3)] &&
      (Table.get? g.frames 4).isNone && (Table.get? g.frames 3).isSome) := by decide +kernel

/-- FGROW 13 makes fifteen granules, FSHRINK 2 none and a new mark generation; in the base frame RET traps (R127, R83). -/
theorem test_frame_sizes : after (exec (.fgrow 13) inCall) (fun g => (g.frame 3).grans.length = 15) ∧
    gives (exec (.fshrink 2) inCall) (fun t => (t.core 0).sgenOf 3 = 1 && after (.next t) (fun g => (g.frame 3).grans.length = 0)) ∧
    after (exec .ret rig) (fun g => g.tca = 13 && g.tpc = 0x10000 && g.tval = 0x36000001 && g.handler &&
      g.splits.map Split.pc = [0x100D0]) := by decide +kernel

/-! Memory. -/

/-- What `Granted` says, as a test. -/
def grantedB (v : View) (s : State) (i : Instr) : Bool := (requestsOf v i).all (fun r =>
  decide (r.va.toNat % accessBytes i = 0) && (match translate s v.task.ctx v.task.asid (accessNeed i) r.va.toNat with
    | .bad => false
    | .absent _ => !(accessWrites i && tcbForbidsAt s v.task.asid v.tid r.va.toNat)
    | .phys pa => !(accessWrites i && tcbForbids s v.tid pa)))

theorem granted_of (v : View) (s : State) (i : Instr) (h : grantedB v s i = true) : Granted v s i := by
  intro r hr
  have h1 := List.all_eq_true.mp h r hr
  simp only [Bool.and_eq_true, decide_eq_true_eq] at h1
  cases hq : translate s v.task.ctx v.task.asid (accessNeed i) r.va.toNat <;> cases hw : accessWrites i <;> simp_all [ClosedTo, placeOf]

/-- What `Open` says, as a test. -/
def openB (s : State) (pa n : Nat) : Bool := (List.range n).all (fun k => !blockFixed s (pa + k))

theorem open_of (s : State) (pa n : Nat) (h : openB s pa n = true) : Open s pa n := fun k hk => by
  simpa using List.all_eq_true.mp h k (List.mem_range.mpr hk)

/-- What `OneWord` says, as a test. -/
theorem oneWord_of (v : View) (s : State) (i : Instr) (r : LaneReq) (pa : Nat) (h : requestsOf v i = [r] ∧ grantedB v s i = true ∧
    placeOf v s i r = some pa ∧ pa + accessBytes i ≤ Config.mereBase ∧ openB s pa (accessBytes i) = true) : OneWord v s i r pa :=
  ⟨h.1, granted_of v s i h.2.1, h.2.2.1, h.2.2.2.1, fun _ => open_of _ _ _ h.2.2.2.2⟩

/-- The device with a dword in its data page and a full one in its mailbox page. -/
def stocked : State := { rig with
  mem := Memory.putAll rig.mem (cellsOf 0x30000 8 0x8877665544332211 ++ cellsOf 0x40000 8 0x1234)
  full := [0x40000 / 8] }
/-- A store of the group's own to the data is outstanding. -/
def storing : State := onC (fun k => { k with stores := [⟨(view rig).who, [(0x30001, 0xAA)], 0, 0⟩] }) stocked

theorem test_witness_Loads_pending : ∀ e ∈ (view storing).core.pendingCells, e.1 < Config.mereBase ∧ blockFixed storing e.1 = false := by
  decide +kernel

theorem test_witness_Loads :
    (isLoad (.lds .byte 40 1) = true ∧ loadDest (.lds .byte 40 1) = some (.s 40) ∧
      Ready (.lds .byte 40 1) (view stocked) stocked ∧ Granted (view stocked) stocked (.lds .byte 40 1) ∧
      meetsOwnStore (view stocked).core (view stocked).who
        ((requestsOf (view stocked) (.lds .byte 40 1)).filterMap (placeOf (view stocked) stocked (.lds .byte 40 1))) 1 = false) ∧
    (isLoad (.ld .dword 40 3) = true ∧ Ready (.ld .dword 40 3) (view stocked) stocked ∧
      Granted (view stocked) stocked (.ld .dword 40 3)) ∧
    (Ready (.ld .dword 40 1) (view storing) storing ∧ Granted (view storing) storing (.ld .dword 40 1) ∧
      meetsOwnStore (view storing).core (view storing).who
        ((requestsOf (view storing) (.ld .dword 40 1)).filterMap (placeOf (view storing) storing (.ld .dword 40 1))) 8 = true) := by
  refine ⟨⟨rfl, rfl, ?_, granted_of _ _ _ ?_, ?_⟩, ⟨rfl, ?_, granted_of _ _ _ ?_⟩, ?_, granted_of _ _ _ ?_, ?_⟩ <;> decide +kernel

/-- The outstanding load of a state's core 0 that stands at a place. -/
def loadAt (t : State) (n : Nat) : Option (List (Nat × W64) × W32 × W32) :=
  ((t.core 0).loads[n]?).map (fun o => (o.lanes, o.set, o.clear))

/-- A signed byte load, a dword load that meets the group's own store, a load from an absent page, a vector byte load (R70,
R71, R74, R210, R215). -/
theorem test_loads : gives (exec (.lds .byte 40 1) (stocked)) (fun t => loadAt t 0 = some ([(0, 0x11)], 0xFFFFFFFF, 0)) ∧
    gives (exec (.ld .dword 40 1) storing) (fun t => loadAt t 0 = some ([(0, 0x887766554433AA11)], 0xFFFFFFFF, 0)) ∧
    gives (exec (.ld .word 40 3) stocked) (fun t => loadAt t 0 = some ([(0, 0)], 0, 0xFFFFFFFF)) ∧
    gives (exec (.vldc .byte 120 1) (onS (fun sp => { sp with mask := 5 }) (onG (fun g => { g with
        v := [(121, lanes (fun k => k + 2))] }) stocked))) (fun t => loadAt t 0 = some ([(0, 0x33), (2, 0x55)], 5, 0)) := by
  decide +kernel

/-- A load that waits at the core, as `f` makes it. -/
def loading (f : LoadOp → LoadOp) : State :=
  onC (fun k => { k with loads := [f ⟨(view rig).who, some (.s 40), 0, 0, [(0, 0x11)], 0xFF, 0x100, none, false, none⟩] }) rig
/-- The load that waits there. -/
def loadOf (f : LoadOp → LoadOp) : LoadOp := f ⟨(view rig).who, some (.s 40), 0, 0, [(0, 0x11)], 0xFF, 0x100, none, false, none⟩
/-- A scalar load, a vector load, a load for a frame that has gone, one of a group that has gone, a poisoned one. -/
def asV (o : LoadOp) : LoadOp := { o with dst := some (.v 119), lanes := [(31, 7)] }
def asStale (o : LoadOp) : LoadOp := { o with gen := 1 }
def asOrphan (o : LoadOp) : LoadOp := { o with who := { o.who with ggen := 1 } }
def asPoisoned (o : LoadOp) : LoadOp := { o with poison := some 0x30000 }

/-- A load aimed at a register above the present size of its frame, and one poisoned besides. -/
def asCut (o : LoadOp) : LoadOp := { o with dst := some (.v 119), lanes := [(31, 7)] }
/-- The device whose frame holds eight granules, with that load. -/
def cutting (f : LoadOp → LoadOp) : State := onG (fun g => { g with frames := Table.modify g.frames 0 (fun x =>
  { x with grans := x.grans.take 8 }) }) (loading f)

/-- An FLD that holds its split, and a load of absent pages. -/
def asHolding (o : LoadOp) : LoadOp := { o with wake := some 0 }

theorem test_witness_LoadReturns :
    ((∃ g, Outstanding (loading id) 0 0 0 (loadOf id) g) ∧ (loadOf id).poison = none ∧ (loadOf id).dst = some (.s 40) ∧
      (loadOf id).lanes = [(0, 0x11)] ∧ ((loading id).core 0).sgenOf (loadOf id).frame = (loadOf id).gen) ∧
    ((∃ g, Outstanding (loading asV) 0 0 0 (loadOf asV) g ∧ 119 < 8 * (g.frame (loadOf asV).frame).grans.length) ∧
      (loadOf asV).poison = none ∧ (loadOf asV).dst = some (.v 119) ∧
      ((loading asV).core 0).sgenOf (loadOf asV).frame = (loadOf asV).gen) ∧
    ((∃ g, Outstanding (loading asStale) 0 0 0 (loadOf asStale) g ∧
        CutOff ((loading asStale).core 0) g (loadOf asStale).frame (loadOf asStale).gen (.s 40)) ∧
      (loadOf asStale).poison = none ∧ (loadOf asStale).dst = some (.s 40)) ∧
    ((∃ g, Outstanding (cutting asCut) 0 0 0 (loadOf asCut) g ∧
        CutOff ((cutting asCut).core 0) g (loadOf asCut).frame (loadOf asCut).gen (.v 119)) ∧
      (loadOf asCut).poison = none ∧ (loadOf asCut).dst = some (.v 119)) := by
  refine ⟨⟨⟨_, ?_, ?_, ?_, ?_, rfl⟩, ?_⟩, ⟨⟨_, ⟨?_, ?_, ?_, ?_, rfl⟩, ?_⟩, ?_⟩, ⟨⟨_, ⟨?_, ?_, ?_, ?_, rfl⟩, rfl, .inl ?_⟩, ?_⟩,
    ⟨_, ⟨?_, ?_, ?_, ?_, rfl⟩, rfl, .inr ⟨119, rfl, ?_⟩⟩, ?_⟩ <;> decide +kernel

theorem test_witness_LoadReturns_other :
    (((loading asOrphan).core 0).loads[0]? = some (loadOf asOrphan) ∧ (loadOf asOrphan).who.slot = 0 ∧
      (loadOf asOrphan).arrived = false ∧ ((loading asOrphan).core 0).owns (loadOf asOrphan).who = false) ∧
    ((∃ g, Outstanding (loading asPoisoned) 0 0 0 (loadOf asPoisoned) g ∧ (loadOf asPoisoned).poison = some 0x30000 ∧
      ∀ r, (loadOf asPoisoned).dst = some r →
        ¬CutOff ((loading asPoisoned).core 0) g (loadOf asPoisoned).frame (loadOf asPoisoned).gen r)) ∧
    (∃ g, Outstanding (cutting (asPoisoned ∘ asCut)) 0 0 0 (loadOf (asPoisoned ∘ asCut)) g ∧
      (loadOf (asPoisoned ∘ asCut)).poison = some 0x30000 ∧ (loadOf (asPoisoned ∘ asCut)).dst = some (.v 119) ∧
      CutOff ((cutting (asPoisoned ∘ asCut)).core 0) g (loadOf (asPoisoned ∘ asCut)).frame (loadOf (asPoisoned ∘ asCut)).gen
        (.v 119)) := by
  refine ⟨?_, ⟨_, ⟨?_, ?_, ?_, ?_, rfl⟩, ?_, ?_⟩, ⟨_, ⟨?_, ?_, ?_, ?_, rfl⟩, ?_, ?_, rfl, .inr ⟨119, rfl, ?_⟩⟩⟩
  case refine_7 =>
    intro r hr
    have : r = .s 40 := by
      have h : (loadOf asPoisoned).dst = some (.s 40) := rfl
      rw [h] at hr; exact (Option.some.inj hr).symm
    subst this
    rintro ⟨-, h | ⟨n, h, -⟩⟩
    · revert h; decide +kernel
    · cases h
  all_goals decide +kernel

/-- A return writes s40 and p15; one for a frame that has gone writes p15 alone and counts in stale; a poisoned one stays
(R21, R70, R75, R281). -/
theorem test_load_return :
    after (exec (.loadReturn 0 0 0) (loading id)) (fun g => g.sval 0 40 = 0x11 && g.pval 15 = 0xFFFFFEFF) ∧
    after (exec (.loadReturn 0 0 0) (loading asStale)) (fun g => g.sval 0 40 = 0 && g.pval 15 = 0xFFFFFEFF && g.stale = 1) ∧
    after (exec (.loadReturn 0 0 0) (loading asV)) (fun g => laneAt (g.lanes 0 119) 31 = 7 && laneAt (g.lanes 0 119) 30 = 0) ∧
    gives (exec (.loadReturn 0 0 0) (loading asPoisoned)) (fun t => (t.core 0).loads.map LoadOp.arrived = [true]) := by decide +kernel

theorem test_witness_Stores : isStore (.st .half 6 1) = true ∧ Ready (.st .half 6 1) (view rig) rig ∧
    Granted (view rig) rig (.st .half 6 1) ∧ (∀ r ∈ requestsOf (view rig) (.st .half 6 1), placed (view rig) rig (.st .half 6 1) r = true) := by
  refine ⟨rfl, ?_, granted_of _ _ _ ?_, ?_⟩ <;> decide +kernel

/-- Byte 1 of s40 of granule 0, generation 0, through the frame view of core 0 (R201). -/
def mereByte : Nat := Config.mereBase + 2 ^ 34 + 0x3C41
/-- The device with one store of given bytes outstanding, and given release markers. -/
def outward (cells : List (Nat × Byte)) (markers : List Marker) : State :=
  onC (fun k => { k with stores := [⟨(view rig).who, cells, 0, 0⟩], markers := markers }) rig
/-- A marker that counts no store that is outstanding. -/
def marker : Marker := ⟨(view rig).who, 0, []⟩

theorem test_witness_StoresPerformed :
    (((outward [(0x30000, 1)] []).core 0).stores[0]? = some ⟨(view rig).who, [(0x30000, 1)], 0, 0⟩ ∧
      mayPerform ((outward [(0x30000, 1)] []).core 0) 0 ⟨(view rig).who, [(0x30000, 1)], 0, 0⟩ = true ∧ 0x30000 < Config.mereBase) ∧
    (((outward [(0x30000, 1)] [marker]).core 0).markers = marker :: [] ∧
      ∀ o ∈ ((outward [(0x30000, 1)] [marker]).core 0).stores, marker.number ≤ o.epoch) := by
  refine ⟨?_, ?_⟩ <;> decide +kernel

/-- The device with one byte on its way to an offset of core 0's Mere map, and the store that carries it. -/
def mereAtRig (off : Nat) : State := outward [(Config.mereBase + off, 9)] []
def mereOp (off : Nat) : StoreOp := ⟨(view rig).who, [(Config.mereBase + off, 9)], 0, 0⟩

/-- What `MereByte` says, as a test. -/
theorem mereByte_of (off : Nat) (m : MereAt) (f : Group → Group) (h : ((onG f (mereAtRig off)).core 0).stores[0]? = some (mereOp off) ∧
    mayPerform ((onG f (mereAtRig off)).core 0) 0 (mereOp off) = true ∧ mereCore (Config.mereBase + off) = 0 ∧
    ((onG f (mereAtRig off)).core (mereCore (Config.mereBase + off))).inReset = false ∧
    mereAt (mereOffset (Config.mereBase + off)) = m) :
    MereByte (onG f (mereAtRig off)) 0 0 (mereOp off) (Config.mereBase + off) 9 m :=
  ⟨h.1, h.2.1, rfl, Nat.le_add_right _ _, by rw [h.2.2.1]; decide, h.2.2.2.1, h.2.2.2.2⟩

/-- A byte for s40 of frame 0, for v3 of frame 0, for v120 and s1 of slot 0, for frame 0 with another generation, for the
query page: the last places of each where that is near. -/
theorem test_witness_StoresPerformed_views :
    (MereByte (onG id (mereAtRig (2 ^ 34 + 0x3C41))) 0 0 (mereOp (2 ^ 34 + 0x3C41)) (Config.mereBase + (2 ^ 34 + 0x3C41)) 9 (.frameS 0 0 40 1) ∧
      ((onG id (mereAtRig (2 ^ 34 + 0x3C41))).core 0).viewOwner (.frameS 0 0 40 1) = some 0) ∧
    (MereByte (onG id (mereAtRig (2 ^ 34 + 0x185))) 0 0 (mereOp (2 ^ 34 + 0x185)) (Config.mereBase + (2 ^ 34 + 0x185)) 9 (.frameV 0 0 3 5) ∧
      ((onG id (mereAtRig (2 ^ 34 + 0x185))).core 0).viewOwner (.frameV 0 0 3 5) = some 0 ∧ ((view rig).group.lanes 0 3).length = 32) ∧
    (MereByte (onG id (mereAtRig (3 * 2 ^ 34 + 0x3FF))) 0 0 (mereOp (3 * 2 ^ 34 + 0x3FF)) (Config.mereBase + (3 * 2 ^ 34 + 0x3FF)) 9
        (.groupV 0 0 127 127) ∧
      ((onG id (mereAtRig (3 * 2 ^ 34 + 0x3FF))).core 0).viewOwner (.groupV 0 0 127 127) = some 0) ∧
    (MereByte (onG id (mereAtRig (3 * 2 ^ 34 + 0x400))) 0 0 (mereOp (3 * 2 ^ 34 + 0x400)) (Config.mereBase + (3 * 2 ^ 34 + 0x400)) 9
        (.groupS 0 0 1 0) ∧
      ((onG id (mereAtRig (3 * 2 ^ 34 + 0x400))).core 0).viewOwner (.groupS 0 0 1 0) = some 0) ∧
    (MereByte (onG id (mereAtRig (2 ^ 34 + 0x13C41))) 0 0 (mereOp (2 ^ 34 + 0x13C41)) (Config.mereBase + (2 ^ 34 + 0x13C41)) 9 (.frameS 0 1 40 1) ∧
      mereLands (Config.mereBase + (2 ^ 34 + 0x13C41)) = true ∧
      ((onG id (mereAtRig (2 ^ 34 + 0x13C41))).core 0).viewOwner (.frameS 0 1 40 1) = none ∧
      ((onG id (mereAtRig (2 ^ 34 + 0x13C41))).core 0).staleOwner (.frameS 0 1 40 1) = some (placedTask, 0) ∧
      ((onG id (mereAtRig (2 ^ 34 + 0x13C41))).group? 0 0).map (fun g => (g.task, g.gid)) = some (placedTask, 0) ∧
      (∀ e ∈ ((onG id (mereAtRig (2 ^ 34 + 0x13C41))).core 0).groups, e.2.task = placedTask → e.2.gid = 0 → e.1 = 0)) ∧
    MereByte (onG id (mereAtRig (2 ^ 35 + 255))) 0 0 (mereOp (2 ^ 35 + 255)) (Config.mereBase + (2 ^ 35 + 255)) 9 (.query 255) := by
  refine ⟨⟨mereByte_of _ _ _ ?_, ?_⟩, ⟨mereByte_of _ _ _ ?_, ?_⟩, ⟨mereByte_of _ _ _ ?_, ?_⟩, ⟨mereByte_of _ _ _ ?_, ?_⟩,
    ⟨mereByte_of _ _ _ ?_, ?_⟩, mereByte_of _ _ _ ?_⟩ <;> decide +kernel

/-- The group that held frame 0 has been saved, and the byte comes after that. -/
def savedAway : State := onT (fun t => { t with state := .preempted, saved := [⟨(view rig).group, 0, 0, 0, false, (0, 0, 0, 0), [], [], [], [], false⟩] })
  (onC (fun k => { k with groups := [] }) (mereAtRig (2 ^ 34 + 0x3C41)))

theorem test_witness_StoresPerformed_saved :
    MereByte savedAway 0 0 (mereOp (2 ^ 34 + 0x3C41)) (Config.mereBase + (2 ^ 34 + 0x3C41)) 9 (.frameS 0 0 40 1) ∧
    mereLands (Config.mereBase + (2 ^ 34 + 0x3C41)) = true ∧ blockFixed savedAway (Config.mereBase + (2 ^ 34 + 0x3C41)) = false ∧
    (savedAway.core 0).viewOwner (.frameS 0 0 40 1) = none ∧ (savedAway.core 0).staleOwner (.frameS 0 0 40 1) = some (placedTask, 0) ∧
    (∀ e ∈ (savedAway.core 0).groups, ¬(e.2.task = placedTask ∧ e.2.gid = 0)) := by
  refine ⟨⟨?_, ?_, rfl, Nat.le_add_right _ _, ?_, ?_, ?_⟩, ?_, ?_, ?_, ?_, ?_⟩ <;> decide +kernel

/-- It counts one in the saved group (R203, R298). -/
theorem test_stale_saved : gives (exec (.mereWriteLand 0 0) savedAway) (fun t => (Table.get? t.tasks placedTask).map (fun x =>
    x.saved.map (fun z => (z.group.stale, z.dirty))) = some [(1, true)]) = true := by decide +kernel

/-- The group whose tile, accumulator and granule are the elements that number 0 of the physical view names. -/
def mine (g : Group) : Group := { g with
  tiles := [(0, { Tile.blank with elem := modelElem 0 1 0 })], accs := [(0, { Acc.blank with elem := modelElem 0 2 0 })]
  frames := [(0, { Frame.blank with grans := [modelElem 0 0 0] })] }
/-- The group with none. -/
def bare (g : Group) : Group := { g with tiles := [], accs := [], frames := [(0, Frame.blank)] }

theorem test_witness_StoresPerformed_elements :
    (MereByte (onG mine (mereAtRig 0x10000005)) 0 0 (mereOp 0x10000005) (Config.mereBase + 0x10000005) 9 (.tile 0 5) ∧
      ((onG mine (mereAtRig 0x10000005)).core 0).tileOwner (modelElem 0 1 0) = some (0, 0)) ∧
    (MereByte (onG mine (mereAtRig 0x20000005)) 0 0 (mereOp 0x20000005) (Config.mereBase + 0x20000005) 9 (.acc 0 5) ∧
      ((onG mine (mereAtRig 0x20000005)).core 0).accOwner (modelElem 0 2 0) = some (0, 0)) ∧
    (MereByte (onG mine (mereAtRig 0x30000005)) 0 0 (mereOp 0x30000005) (Config.mereBase + 0x30000005) 9 (.granule 0 5) ∧
      ((onG mine (mereAtRig 0x30000005)).core 0).granOwner (modelElem 0 0 0) = some (0, 0, 0)) ∧
    (MereByte (onG bare (mereAtRig 0x30000005)) 0 0 (mereOp 0x30000005) (Config.mereBase + 0x30000005) 9 (.granule 0 5) ∧
      ((onG bare (mereAtRig 0x30000005)).core 0).granOwner (modelElem 0 0 0) = none ∧
      (onG bare (mereAtRig 0x30000005)).chanByte 0 (modelElem 0 0 0) 5 = none) := by
  have h : ∀ off, ((onG mine (mereAtRig off)).core 0).groups = [(0, mine (view rig).group)] := fun _ => by rfl
  refine ⟨⟨mereByte_of _ _ _ (by decide +kernel), ?_⟩, ⟨mereByte_of _ _ _ (by decide +kernel), ?_⟩,
    ⟨mereByte_of _ _ _ (by decide +kernel), ?_⟩, ⟨mereByte_of _ _ _ (by decide +kernel), by rfl, by rfl⟩⟩
  · simp [Core.tileOwner, h, mine]
  · simp [Core.accOwner, h, mine]
  · have ho : (view rig).group.out = false := by decide +kernel
    simp [Core.granOwner, h, mine, ho, findPos]

/-- The bytes of a store, least significant first; a higher lane's byte stands; a store through the frame view lands in
its register (R8, R70, R74, R201, R203). -/
theorem test_stores : gives (exec (.st .half 8 1) rig) (fun t =>
      (t.core 0).stores.map StoreOp.cells = [[(0x30000, 0xFD), (0x30001, 0xFF)]] && Memory.get t.mem 0x30000 = 0) ∧
    gives (exec (.storePerformed 0 0) (outward [(0x30000, 1), (0x30001, 2), (0x30000, 3)] [])) (fun t =>
      Memory.get t.mem 0x30000 = 3 && Memory.get t.mem 0x30001 = 2 && (t.core 0).stores.isEmpty) ∧
    after (exec (.mereWriteLand 0 0) (outward [(mereByte, 9)] [])) (fun g => g.sval 0 40 = 0x900) ∧
    gives (exec (.releaseMarkerComplete 0 0) (outward [(0x30000, 1)] [marker])) (fun t => (t.core 0).markers.isEmpty) := by
  decide +kernel

/-- What a VAMO statement asks of the places of its words, as a test. -/
def spotsB (v : View) (s : State) (i : Instr) : Bool := (requestsOf v i).all (fun r => match placeOf v s i r with
  | some pa => (decide (pa + 4 ≤ Config.mereBase) && (List.range 4).all (fun k => !s.poison.contains ((pa + k) / 64)) && openB s pa 4) &&
    (requestsOf v i).all (fun q => decide (r.lane = q.lane) || (match placeOf v s i q with
      | some pb => decide (pa + 4 ≤ pb ∨ pb + 4 ≤ pa)
      | none => true))
  | none => false)

theorem spots_of (v : View) (s : State) (i : Instr) (h : spotsB v s i = true) :
    (∀ r ∈ requestsOf v i, ∃ pa, placeOf v s i r = some pa ∧ pa + 4 ≤ Config.mereBase ∧ Clean s pa 4 ∧ Open s pa 4) ∧
    (∀ r ∈ requestsOf v i, ∀ q ∈ requestsOf v i, r.lane ≠ q.lane → ∀ pa pb, placeOf v s i r = some pa →
      placeOf v s i q = some pb → pa + 4 ≤ pb ∨ pb + 4 ≤ pa) := by
  have h1 := List.all_eq_true.mp h
  constructor
  · intro r hr
    have h2 := h1 r hr
    cases hq : placeOf v s i r with
    | none => simp [hq] at h2
    | some pa =>
      simp only [hq, Bool.and_eq_true, decide_eq_true_eq] at h2
      refine ⟨pa, rfl, h2.1.1.1, fun k hk => ?_, open_of _ _ _ h2.1.2⟩
      simpa using List.all_eq_true.mp h2.1.1.2 k (List.mem_range.mpr hk)
  · intro r hr q hq' hne pa pb ha hb
    have h2 := h1 r hr
    simp only [ha, Bool.and_eq_true] at h2
    have h3 := List.all_eq_true.mp h2.2 q hq'
    simpa [hb, hne] using h3

theorem test_witness_Atomics :
    (Ready (.amo .minu .word .die 8 1) (view stocked) stocked ∧ Settled (view stocked)) ∧
    OneWord (view stocked) stocked (.amo .minu .word .die 8 1) ⟨0, 0x30000, 2 ^ 64 - 3, 0⟩ 0x30000 ∧ Clean stocked 0x30000 4 ∧
    (Ready (.cas .dword .sys 6 1) (view stocked) stocked ∧
      OneWord (view stocked) stocked (.cas .dword .sys 6 1) ⟨0, 0x30000, 7, 0⟩ 0x30000) := by
  refine ⟨by decide +kernel, oneWord_of _ _ _ _ _ ?_, ?_, ?_, oneWord_of _ _ _ _ _ ?_⟩
  · decide +kernel
  · unfold Clean; decide +kernel
  · decide +kernel
  · decide +kernel

/-- Thirty-two words 4 bytes apart; and an atomic with a store outstanding. -/
theorem test_witness_Atomics_lanes : Ready (.vamo .max .die 122 1) (view stocked) stocked ∧ Settled (view stocked) ∧
    Granted (view stocked) stocked (.vamo .max .die 122 1) ∧ spotsB (view stocked) stocked (.vamo .max .die 122 1) = true ∧
    Ready (.amo .add .word .die 8 1) (view storing) storing ∧ Granted (view storing) storing (.amo .add .word .die 8 1) ∧
    (∀ r ∈ requestsOf (view storing) (.amo .add .word .die 8 1), placed (view storing) storing (.amo .add .word .die 8 1) r = true) := by
  refine ⟨?_, ?_, granted_of _ _ _ ?_, ?_, ?_, granted_of _ _ _ ?_, ?_⟩ <;> decide +kernel

/-- minu of FFFFFFFDh and 44332211h keeps the word; CAS that fails keeps it and one that matches swaps; VAMO.add adds each
lane to its own word (R221 to R223). -/
theorem test_atomics : gives (exec (.amo .minu .word .die 8 1) stocked) (fun t => wordAt t.mem 0x30000 4 = 0x44332211 &&
      loadAt t 0 = some ([(0, 0x44332211)], 0, 0)) ∧
    gives (exec (.amo .add .dword .sys 8 1) stocked) (fun t => wordAt t.mem 0x30000 8 = 0x887766554433220E) ∧
    gives (exec (.cas .dword .sys 6 1) stocked) (fun t => wordAt t.mem 0x30000 8 = 0x8877665544332211) ∧
    gives (exec (.cas .word .sys 6 1) (onG (fun g => (g.putS 0 6 ⟨0xF44332211, false⟩).putS 0 7 ⟨5, false⟩) stocked)) (fun t =>
      wordAt t.mem 0x30000 8 = 0x8877665500000005) ∧
    gives (exec (.vamo .add .die 122 1) stocked) (fun t => wordAt t.mem 0x30000 4 = 0x83B32211 && wordAt t.mem 0x3007C 4 = 0x4F000000) := by
  decide +kernel

/-! Full/empty words, fences, traps of accesses. -/

/-- The group of a state. -/
def group0 (s : State) : Group := (s.group? 0 0).getD placedGroup

/-- The Tarn of die 0 full of other words. -/
def tarnFull : State := { rig with tarn := List.replicate 16384 ⟨0x40008, .hub 0⟩ }
/-- An access that puts 7 into the mailbox word, as issued. -/
def putting : Access := accessOf (view rig) (.fput .die 6 2)
/-- Its split waits to be presented again. -/
def busyPut : State := onS (fun sp => { sp with state := .parked, wait := .busy putting 0 }) rig

theorem test_witness_FullEmptyWords :
    (Ready (.ftake .die 40 2) (view stocked) stocked ∧ Settled (view stocked) ∧ isFull stocked 0x40000 = true ∧
      OneWord (view stocked) stocked (.ftake .die 40 2) ⟨0, 0x40000, 0, 0⟩ 0x40000 ∧ Clean stocked 0x40000 8 ∧
      ∀ e ∈ stocked.tarn, e.pa ≠ 0x40000) ∧
    (Ready (.fput .die 6 2) (view rig) rig ∧ Settled (view rig) ∧ isFull rig 0x40000 = false ∧
      OneWord (view rig) rig (.fput .die 6 2) ⟨0, 0x40000, 7, 0⟩ 0x40000 ∧ ∀ e ∈ rig.tarn, e.pa ≠ 0x40000) ∧
    (Ready (.ffill .die 6 2) (view stocked) stocked ∧
      OneWord (view stocked) stocked (.ffill .die 6 2) ⟨0, 0x40000, 7, 0⟩ 0x40000) ∧
    (Ready (.fld .die 40 2) (view rig) rig ∧ OneWord (view rig) rig (.fld .die 40 2) ⟨0, 0x40000, 0, 0⟩ 0x40000 ∧
      tarnRoom rig 0x40000 = true) ∧
    (Ready (.fput .die 6 2) (view stocked) stocked ∧
      OneWord (view stocked) stocked (.fput .die 6 2) ⟨0, 0x40000, 7, 0⟩ 0x40000) ∧
    (Ready (.fld .die 40 2) (view tarnFull) tarnFull ∧ Settled (view tarnFull) ∧ isFull tarnFull 0x40000 = false ∧
      OneWord (view tarnFull) tarnFull (.fld .die 40 2) ⟨0, 0x40000, 0, 0⟩ 0x40000 ∧ tarnRoom tarnFull 0x40000 = false) := by
  refine ⟨⟨?_, ?_, ?_, oneWord_of _ _ _ _ _ ?_, ?_, ?_⟩, ⟨?_, ?_, ?_, oneWord_of _ _ _ _ _ ?_, ?_⟩, ⟨?_, oneWord_of _ _ _ _ _ ?_⟩,
    ⟨?_, oneWord_of _ _ _ _ _ ?_, ?_⟩, ⟨?_, oneWord_of _ _ _ _ _ ?_⟩, ?_, ?_, ?_, oneWord_of _ _ _ _ _ ?_, ?_⟩ <;>
    (try unfold Clean) <;> decide +kernel

theorem test_witness_FullEmptyWords_again : (busyPut.group? 0 0).isSome = true ∧
    (busyPut.group? 0 0).map (fun g => g.entries.map Split.wait) = some [.busy putting 0] ∧ 0 ≤ busyPut.cyc 0 ∧
    whoOfLane busyPut 0 0 0 = some (view rig).who ∧ putting.instr = .fput .die 6 2 ∧ putting.reqs = [⟨0, 0x40000, 7, 0⟩] ∧
    accessTrap busyPut (view rig).who putting = none ∧
    reqPhys busyPut (view rig).who putting ⟨0, 0x40000, 7, 0⟩ = some 0x40000 ∧ isFull busyPut 0x40000 = false ∧
    (busyPut.core 0).stores = [] ∧ (busyPut.core 0).markers = [] ∧ openB busyPut 0x40000 8 = true ∧
    busyPut.savingAt 0 0 = false ∧ (busyPut.group? 0 0).map (fun g => (g.out, g.leaving)) = some (false, false) := by
  decide +kernel

/-- An access whose split waits to be presented again. -/
def busyWith (i : Instr) (s : State) : State := onS (fun sp => { sp with state := .parked, wait := .busy (accessOf (view rig) i) 0 }) s

theorem test_witness_FullEmptyWords_retries :
    (∀ i ∈ [Instr.fld .die 40 2, .ftake .die 40 2], (busyWith i stocked).group? 0 0 = some (group0 (busyWith i stocked)) ∧
      (group0 (busyWith i stocked)).entries.map Split.wait = [.busy (accessOf (view rig) i) 0] ∧
      whoOfLane (busyWith i stocked) 0 0 0 = some (view rig).who ∧ (accessOf (view rig) i).instr = i ∧
      (accessOf (view rig) i).reqs = [⟨0, 0x40000, 0, 0⟩] ∧ accessTrap (busyWith i stocked) (view rig).who (accessOf (view rig) i) = none ∧
      reqPhys (busyWith i stocked) (view rig).who (accessOf (view rig) i) ⟨0, 0x40000, 0, 0⟩ = some 0x40000 ∧
      isFull (busyWith i stocked) 0x40000 = true ∧ ((busyWith i stocked).core 0).outstanding < Config.requests ∧
      (busyWith i stocked).tarn = []) ∧
    (isFull (busyWith (.fld .die 40 2) rig) 0x40000 = false ∧ tarnRoom (busyWith (.fld .die 40 2) rig) 0x40000 = true ∧
      isFull (busyWith (.fld .die 40 2) tarnFull) 0x40000 = false ∧ tarnRoom (busyWith (.fld .die 40 2) tarnFull) 0x40000 = false ∧
      isFull (busyWith (.fput .die 6 2) stocked) 0x40000 = true ∧ tarnRoom (busyWith (.fput .die 6 2) stocked) 0x40000 = true) := by
  decide +kernel

/-- An access presented again gets its word, takes its place in the Tarn, or waits another 512 cycles (R227). -/
theorem test_full_empty_retries :
    gives (exec (.tarnRetry 0 0 0) (busyWith (.ftake .die 40 2) stocked)) (fun t => t.full.isEmpty && loadAt t 0 = some ([(0, 0x1234)], 0, 0)) ∧
    gives (exec (.tarnRetry 0 0 0) (busyWith (.fput .die 6 2) stocked)) (fun t => t.tarn = [⟨0x40000, .split 0 0 0⟩]) ∧
    gives (exec (.tarnRetry 0 0 0) (busyWith (.fld .die 40 2) tarnFull)) (fun t => t.tarn.length = 16384 && after (.next t) (fun g =>
      g.splits.map (fun sp => match sp.wait with | .busy _ n => n | _ => 0) = [rig.cyc 0 + 512])) := by decide +kernel

/-- FTAKE of a full word empties it and its data is on the way; FPUT fills an empty word; FLD of an empty word takes a
Tarn entry, or is BUSY for 512 cycles; a parked FPUT presented again goes on (R225, R226, R227). -/
theorem test_full_empty : gives (exec (.ftake .die 40 2) stocked) (fun t => t.full.isEmpty && loadAt t 0 = some ([(0, 0x1234)], 0, 0) &&
      after (.next t) (fun g => g.splits.map Split.wait = [.data])) ∧
    gives (exec (.fput .die 6 2) rig) (fun t => t.full = [0x8000] && wordAt t.mem 0x40000 8 = 7 &&
      after (.next t) (fun g => g.splits.map Split.pc = [0x10004])) ∧
    gives (exec (.fld .die 40 2) rig) (fun t => t.tarn = [⟨0x40000, .split 0 0 0⟩] && after (.next t) (fun g =>
      g.splits.map Split.state = [.parked] && g.splits.map Split.pc = [0x10000])) ∧
    gives (exec (.tarnRetry 0 0 0) busyPut) (fun t => t.full = [0x8000] && after (.next t) (fun g =>
      g.splits.map (fun sp => (sp.pc, sp.state, sp.wait)) = [(0x10004, .ready, .none)])) := by decide +kernel

theorem test_witness_TouchAndFence :
    (Ready (.touch 1) (view rig) rig ∧ Granted (view rig) rig (.touch 1) ∧
      ∀ r ∈ requestsOf (view rig) (.touch 1), placed (view rig) rig (.touch 1) r = true) ∧
    (Ready (.touch 3) (view rig) rig ∧
      translate rig (view rig).task.ctx (view rig).task.asid Need.touch ((view rig).ui 3) = .absent 0x50000 ∧
      rig.hub.recWait = [] ∧ rig.hub.ring.length < Config.faultRingPlaces + 1) ∧
    Ready (.fence .acq .sys) (view storing) storing ∧ Ready (.fence .ar .core) (view storing) storing ∧
    (Ready (.fence .rel .grp) (view rig) rig ∧ Settled (view rig)) ∧ Ready (.fence .rel .die) (view storing) storing := by
  refine ⟨⟨?_, granted_of _ _ _ ?_, ?_⟩, ⟨?_, ?_, ?_, Nat.succ_pos _⟩, ?_, ?_, ?_, ?_⟩ <;> decide +kernel

/-- A record waits for a place in the ring. -/
def ringFull : State := onH (fun h => { h with recWait := [⟨0x50000, 4, 0, 0, 0, 0, 0, 0, 1, [], 0, 0, 0, placedTask, 0, 0⟩] }) rig

theorem test_witness_TouchAndFence_full : Ready (.touch 3) (view ringFull) ringFull ∧
    translate ringFull (view ringFull).task.ctx (view ringFull).task.asid Need.touch ((view ringFull).ui 3) = .absent 0x50000 ∧
    ringFull.hub.recWait ≠ [] := by decide +kernel

/-- With no place in the ring the split parks at its TOUCH (R214). -/
theorem test_touch_full : gives (exec (.touch 3) ringFull) (fun t => t.hub.recWait.length = 2 && after (.next t) (fun g =>
    g.splits.map (fun sp => (sp.pc, sp.state, sp.wait)) = [(0x10000, .parked, .touch)])) = true := by decide +kernel

/-- TOUCH of an absent page goes on with one record; a narrow release performs the stores; a wide one sends a marker (R214,
R219, R229, R243). -/
theorem test_touch_fence : after (exec (.touch 1) rig) (fun g => g.splits.map Split.pc = [0x10004]) ∧
    gives (exec (.fence .rel .core) storing) (fun t => (t.core 0).stores.isEmpty && Memory.get t.mem 0x30001 = 0xAA) ∧
    gives (exec (.fence .ar .dev) storing) (fun t => (t.core 0).stores.length = 1 && (t.core 0).markers.map Marker.number = [1] &&
      (t.core 0).epoch = 1) := by decide +kernel

/-- What `Aligned` says, as a test. -/
theorem aligned_of (v : View) (i : Instr) (h : ∀ r ∈ requestsOf v i, r.va.toNat % accessBytes i = 0) : Aligned v i := h

theorem test_witness_AccessTraps :
    (isLoad (.ld .word 40 4) = true ∧ Ready (.ld .word 40 4) (view rig) rig ∧ HasHandler (view rig) ∧
      (requestsOf (view rig) (.ld .word 40 4)).find? (fun r => decide (r.va.toNat % accessBytes (.ld .word 40 4) ≠ 0)) =
        some ⟨0, 0x30001, 0, 0⟩) ∧
    (Ready (.st .word 6 5) (view rig) rig ∧ Aligned (view rig) (.st .word 6 5) ∧
      requestsOf (view rig) (.st .word 6 5) = [] ++ ⟨0, 0x60000, 7, 0⟩ :: [] ∧
      translate rig (view rig).task.ctx (view rig).task.asid (accessNeed (.st .word 6 5)) 0x60000 = .bad) ∧
    (isStore (.st .word 6 3) = true ∧ Ready (.st .word 6 3) (view rig) rig ∧ Granted (view rig) rig (.st .word 6 3) ∧
      ∃ r ∈ requestsOf (view rig) (.st .word 6 3), placed (view rig) rig (.st .word 6 3) r = false) := by
  refine ⟨⟨rfl, ?_, ?_, ?_⟩, ⟨?_, aligned_of _ _ ?_, ?_, ?_⟩, rfl, ?_, granted_of _ _ _ ?_, ?_⟩ <;> decide +kernel

/-- A store to the head of the task's own TCB, whose page allows it (R354). -/
theorem test_witness_AccessTraps_tcb : Ready (.st .word 6 13) (view (onG (withScalars [(13, 0x20000)]) rig)) (onG (withScalars [(13, 0x20000)]) rig) ∧
    placeOf (view (onG (withScalars [(13, 0x20000)]) rig)) (onG (withScalars [(13, 0x20000)]) rig) (.st .word 6 13) ⟨0, 0x20000, 7, 0⟩ = some 0x20000 ∧
    accessWrites (.st .word 6 13) = true ∧
    tcbForbids (onG (withScalars [(13, 0x20000)]) rig) (view (onG (withScalars [(13, 0x20000)]) rig)).tid 0x20000 = true := by
  decide +kernel

/-- The same with the page of the TCB not resident. -/
def tcbAway : State := onH (fun h => { h with pages := h.pages.map (fun q => if q.va = 0x20000 then { q with res := false } else q) })
  (onG (withScalars [(13, 0x20000)]) rig)

theorem test_witness_AccessTraps_away : Ready (.st .word 6 13) (view tcbAway) tcbAway ∧ HasHandler (view tcbAway) ∧
    requestsOf (view tcbAway) (.st .word 6 13) = [⟨0, 0x20000, 7, 0⟩] ∧
    placeOf (view tcbAway) tcbAway (.st .word 6 13) ⟨0, 0x20000, 7, 0⟩ = none ∧ accessWrites (.st .word 6 13) = true ∧
    tcbForbidsAt tcbAway (view tcbAway).task.asid (view tcbAway).tid 0x20000 = true ∧
    translate tcbAway (view tcbAway).task.ctx (view tcbAway).task.asid (accessNeed (.st .word 6 13)) 0x20000 ≠ .bad := by decide +kernel

/-- The check of R354 is made whether or not the page is resident (R207). -/
theorem test_access_traps_away : after (exec (.st .word 6 13) tcbAway) (fun g => g.tca = 6 && g.tval = 0x20000) = true := by decide +kernel

/-- Misalignment comes before protection, cause 7 before 6, with the address in tval; a store to an absent page parks (R35,
R71, R211). -/
theorem test_access_traps : after (exec (.ld .word 40 4) rig) (fun g => g.tca = 7 && g.tval = 0x30001 && g.tpc = 0x10000) ∧
    after (exec (.st .word 6 5) rig) (fun g => g.tca = 6 && g.tval = 0x60000 && g.splits.map Split.pc = [0x10060]) ∧
    after (exec (.st .word 6 13) (onG (withScalars [(13, 0x20000)]) rig)) (fun g => g.tca = 6 && g.tval = 0x20000) ∧
    after (exec (.st .word 6 3) rig) (fun g => g.splits.map (fun sp => (sp.pc, sp.state)) = [(0x10000, .parked)]) := by decide +kernel

/-! The matrix array. -/

/-- A crew whose format word is the FP32 one (kind 1) and whose v119 holds 1 in every lane. -/
def matrixRig : State := onG (fun g => (g.putV 0 119 (lanes (fun _ => 1))).putA 0 ⟨0, List.replicate 256 0x3F800000, 0⟩)
  (onG (fun g => { g with mfr := 1 }) rig)
/-- The same with no lane active. -/
def idleLanes : State := onS (fun sp => { sp with mask := 0 }) matrixRig
/-- The same with an invalid format word. -/
def badFormat : State := onG (fun g => { g with mfr := 0x13 }) matrixRig

/-- A matrix operation that waits at the core, its pass begun. -/
def matOf (kind : MatKind) (mfr : W16) (rows : List (List Byte)) (bytes : List Byte) : MatOp :=
  { who := (view rig).who, serial := 3, kind := kind, target := 0, quarters := 0b0101, frame := 0, gen := (view rig).core.sgenOf 0
    issued := 0, pass := 3, isClosed := false, started := true, shadow := none, vals := [], rows := rows, bytes := bytes
    tileNo := 0, bva := 0x30000, mfr := mfr, dual := false, pc := 0x10000, units := 0, absent := false, records := 0
    drained := false, tile := none, lost := 0 }
/-- The device with that operation. -/
def matState (o : MatOp) : State := onC (fun k => { k with mats := [o] }) matrixRig

/-- ACLR of two quarters, AGET to v112 of lanes 0 to 15, APUT of counted values. -/
def clearing : MatOp := matOf .aclr 1 [] []
def getting : MatOp := { matOf .aget 1 [] [] with
  target := 112, who := { (view rig).who with mask := 0xFFFF }, vals := (List.range 256).map (fun k => BitVec.ofNat 32 k) }
def loadingAcc : MatOp := { matOf .aput 1 [] [] with target := 7, vals := (List.range 256).map (fun k => BitVec.ofNat 32 k) }
/-- A frame of 14 granules, which has lost v112 since. -/
def cutShort (s : State) : State :=
  onG (fun g => { g with frames := [(0, { g.frame 0 with grans := (g.frame 0).grans.take 14 })] }) s

theorem test_witness_AccumulatorMoves :
    (Ready (.mfmt 119) (view matrixRig) matrixRig ∧ (view matrixRig).m ≠ 0 ∧
      ∀ k, k < 32 → (view matrixRig).m.getLsbD k = true → (view matrixRig).lane 119 k = 1) ∧
    (Ready (.mfmt 120) (view matrixRig) matrixRig ∧ HasHandler (view matrixRig) ∧
      (lanesOf (view matrixRig).m).find? (fun k => decide ((view matrixRig).lane 120 k ≠ (view matrixRig).lane 120 (lowLane (view matrixRig).m))) =
        some 1) ∧
    Ready (.aclr 7) (view matrixRig) matrixRig ∧ Ready (.aget 112 0) (view matrixRig) matrixRig ∧
    Ready (.aput 7 112) (view matrixRig) matrixRig := by decide +kernel

/-- An operation is in the array, as the statements ask. -/
theorem inArray_of {o : MatOp} {s : State} {g : Group}
    (h : (s.core 0).mats[0]? = some o ∧ o.who.slot = 0 ∧ o.drained = false ∧ o.absent = false ∧ (s.core 0).owns o.who = true ∧
      s.group? 0 0 = some g) : InArray s 0 0 0 o g := ⟨h.1, h.2.1, h.2.2.1, h.2.2.2.1, h.2.2.2.2.1, h.2.2.2.2.2⟩

theorem test_witness_AccumulatorMoves_drain :
    (InArray (matState clearing) 0 0 0 clearing (group0 (matState clearing)) ∧ clearing.kind = .aclr) ∧
    (InArray (matState getting) 0 0 0 getting (group0 (matState getting)) ∧ getting.kind = .aget ∧
      ∀ m, m < 8 → ¬CutOff ((matState getting).core 0) (group0 (matState getting)) 0 getting.gen (.v (112 + m))) ∧
    (InArray (cutShort (matState getting)) 0 0 0 getting (group0 (cutShort (matState getting))) ∧
      CutOff ((cutShort (matState getting)).core 0) (group0 (cutShort (matState getting))) 0 getting.gen (.v 112)) ∧
    (InArray (matState loadingAcc) 0 0 0 loadingAcc (group0 (matState loadingAcc)) ∧ loadingAcc.kind = .aput) := by
  refine ⟨⟨inArray_of ?_, rfl⟩, ⟨inArray_of ?_, rfl, fun m hm h => ?_⟩, ⟨inArray_of ?_, ?_⟩, inArray_of ?_, rfl⟩
  · decide +kernel
  · decide +kernel
  · obtain ⟨-, h | ⟨n, hn, h⟩⟩ := h
    · exact h (by decide +kernel)
    · have h1 : 8 * ((group0 (matState getting)).frame 0).grans.length = 120 := by decide +kernel
      injection hn with hn
      omega
  · decide +kernel
  · exact ⟨rfl, .inr ⟨112, rfl, by decide +kernel⟩⟩
  · decide +kernel

/-- MFMT of agreeing lanes sets mfr; lanes that differ take cause 5 with the first that differs (R259). -/
theorem test_mfmt : after (exec (.mfmt 119) badFormat) (fun g => g.mfr = 1) ∧
    after (exec (.mfmt 120) matrixRig) (fun g => g.tca = 5 && g.tval = 1) := by decide +kernel

/-- ACLR zeroes quarters 0 and 2 and no other; AGET copies lanes 0 to 15 of 256 values, element 32·m + k to lane k of
register m; APUT fills an accumulator; a register the frame has lost counts one in stale (R82, R251, R264). -/
theorem test_accumulator_moves :
    after (exec (.matrixDrain 0 0 0 0 0) (matState clearing)) (fun g =>
      (g.readA 0).vals.getD 0 9 = 0 && (g.readA 0).vals.getD 64 9 = 0x3F800000 && (g.readA 0).vals.getD 191 9 = 0) ∧
    after (exec (.matrixDrain 0 0 0 0 0) (matState getting)) (fun g => laneAt (g.lanes 0 119) 15 = 32 * 7 + 15 &&
      laneAt (g.lanes 0 113) 16 = 0 && laneAt (g.lanes 0 112) 1 = 1 && g.stale = 0) ∧
    after (exec (.matrixDrain 0 0 0 0 0) (matState loadingAcc)) (fun g => (g.readA 7).vals.getD 255 9 = 255) ∧
    after (exec (.matrixDrain 0 0 0 0 0) (cutShort (matState getting))) (fun g => g.stale = 1) := by decide +kernel

theorem test_witness_MatrixIssue :
    (Ready (.mm 0 108 7) (view idleLanes) idleLanes ∧ quartersOf (view idleLanes).m = 0) ∧
    (Ready (.mm 0 108 7) (view badFormat) badFormat ∧ HasHandler (view badFormat) ∧ quartersOf (view badFormat).m ≠ 0 ∧
      mfrValid (view badFormat).group.mfr = false) ∧
    (Ready (.mm 0 108 7) (view matrixRig) matrixRig ∧ quartersOf (view matrixRig).m ≠ 0 ∧ mfrValid (view matrixRig).group.mfr = true) ∧
    (Ready (.mmm 0 108 1) (view matrixRig) matrixRig ∧ Settled (view matrixRig) ∧ (view matrixRig).ui 1 % 64 = 0 ∧
      rangeBad matrixRig (view matrixRig).task.ctx (view matrixRig).task.asid (view matrixRig).tid Need.load ((view matrixRig).ui 1) 1536 = none ∧
      rangeAbsent matrixRig (view matrixRig).task.ctx (view matrixRig).task.asid Need.load 2 ((view matrixRig).ui 1)
        ((view matrixRig).ui 1 + 1536) = []) := by
  refine ⟨?_, ?_, ?_, ?_⟩ <;> decide +kernel

theorem test_witness_MatrixIssue_images :
    (Ready (.mmm 0 108 3) (view matrixRig) matrixRig ∧ Settled (view matrixRig) ∧ (view matrixRig).ui 3 % 64 = 0 ∧
      rangeBad matrixRig (view matrixRig).task.ctx (view matrixRig).task.asid (view matrixRig).tid Need.load ((view matrixRig).ui 3) 1536 = none ∧
      rangeTrouble matrixRig (view matrixRig).who Need.load ((view matrixRig).ui 3) 1536 ≠ [] ∧
      ∀ o ∈ (view matrixRig).core.mats, o.serial ≠ matrixRig.fresh) ∧
    (Ready (.tld 7 1) (view matrixRig) matrixRig ∧ Settled (view matrixRig) ∧ (view matrixRig).ui 1 % 64 = 0 ∧
      rangeBad matrixRig (view matrixRig).task.ctx (view matrixRig).task.asid (view matrixRig).tid Need.load ((view matrixRig).ui 1) 1536 = none ∧
      ∀ x ∈ (view matrixRig).task.tilerecs, x.closed = true) ∧
    (Ready (.tld 7 4) (view matrixRig) matrixRig ∧ HasHandler (view matrixRig) ∧ (view matrixRig).ui 4 % 64 ≠ 0) ∧
    (Ready (.mmm 0 108 4) (view matrixRig) matrixRig ∧ (view matrixRig).ui 4 % 64 ≠ 0) ∧
    (Ready (.tld 7 7) (view matrixRig) matrixRig ∧ (view matrixRig).ui 7 % 64 = 0 ∧ rangeBad matrixRig (view matrixRig).task.ctx
      (view matrixRig).task.asid (view matrixRig).tid Need.load ((view matrixRig).ui 7) 1536 ≠ none) ∧
    (Ready (.mmm 0 108 7) (view matrixRig) matrixRig ∧ (view matrixRig).ui 7 % 64 = 0) := by
  refine ⟨?_, ?_, ?_, ?_, ?_, ?_⟩ <;> decide +kernel

/-- An MM pass of one and of two operations, a block-float pass, a redundant one, a tile load, an MMM, one that waits. -/
def mmPass : MatOp := matOf .mm 1 (List.replicate 16 (List.replicate 96 0)) (List.replicate 1536 0)
def mmSecond : MatOp := { mmPass with serial := 4, quarters := 0b0010, started := true }
def blockPass : MatOp := { mmPass with mfr := 0x4442 }
def dualPass : MatOp := { mmPass with dual := true }
def tileLoad : MatOp := { matOf .tld 0 [] [] with started := false }
def mmmRuns : MatOp := matOf .mmm 1 (List.replicate 16 (List.replicate 96 0)) []
def mmmWaited : MatOp := { matOf .mmm 1 [] [] with absent := true, started := false }
/-- The two operations of one pass. -/
def pairPass : State := onC (fun k => { k with mats := [mmPass, mmSecond] }) matrixRig

/-- A pass has begun, as the statements ask. -/
theorem pass_of {o : MatOp} {s : State} {g : Group}
    (h : (s.core 0).mats[0]? = some o ∧ o.who.slot = 0 ∧ o.drained = false ∧ o.absent = false ∧ (s.core 0).owns o.who = true ∧
      s.group? 0 0 = some g) (h1 : o.started = true ∧ o.pass = o.serial)
    (h2 : ∀ m ∈ passOf (s.core 0) o.pass, m.kind = .mm ∧ m.target = o.target ∧ m.who.slot = 0 ∧ (s.core 0).owns m.who = true) :
    PassBegun s 0 0 0 o g := ⟨inArray_of h, h1.1, h1.2, h2⟩

theorem test_witness_MatrixEnds :
    (PassBegun pairPass 0 0 0 mmPass (group0 pairPass) ∧ (passOf (pairPass.core 0) mmPass.pass).length = 2) ∧
    (PassBegun (matState blockPass) 0 0 0 blockPass (group0 (matState blockPass)) ∧
      ∀ m ∈ passOf ((matState blockPass).core 0) blockPass.pass, mfrKind m.mfr = 2) ∧
    (PassBegun (matState dualPass) 0 0 0 dualPass (group0 (matState dualPass)) ∧ dualPass.dual = true) ∧
    (((matState mmmWaited).core 0).mats[0]? = some mmmWaited ∧ mmmWaited.who.slot = 0 ∧ mmmWaited.absent = true ∧ mmmWaited.records = 0) := by
  refine ⟨⟨pass_of ?_ ?_ ?_, ?_⟩, ⟨pass_of ?_ ?_ ?_, ?_⟩, ⟨pass_of ?_ ?_ ?_, ?_⟩, ?_⟩ <;> decide +kernel

/-- A pass of kinds 1 and 2 on quarters of their own, copies that differ in it too; a pass of one accumulator in which the
first operation of a cycle took half of a quarter. -/
def mixedPass : State := onC (fun k => { k with mats := [{ mmPass with dual := true }, { mmSecond with mfr := 0x4442, dual := true }] }) matrixRig

theorem test_witness_MatrixEnds_mixed : PassBegun mixedPass 0 0 0 { mmPass with dual := true } (group0 mixedPass) ∧
    PassApart (passOf (mixedPass.core 0) mmPass.pass) ∧ PassApart (passOf (pairPass.core 0) mmPass.pass) ∧
    (∃ m ∈ passOf (mixedPass.core 0) mmPass.pass, mfrKind m.mfr = 2) ∧
    quarterRule { mmPass with dual := true } 0b0010 0 1 = none ∧ quarterRule { mmSecond with mfr := 0x4442 } 0b0010 0 1 = some 3 ∧
    quarterRule { mmPass with dual := true } 0b0010 1 0 = some 4 := by
  have h : ∀ a b : MatOp, a.quarters &&& b.quarters = 0 → ∀ e, e < 256 → ¬(a.puts e = true ∧ b.puts e = true) := by
    intro a b hz e he ⟨h1, h2⟩
    simp only [MatOp.puts, Bool.and_eq_true] at h1 h2
    have h3 : (a.quarters &&& b.quarters).getLsbD (e / 64) = true := by simp [h1.1, h2.1]
    rw [hz] at h3
    simp at h3
  refine ⟨pass_of ?_ ?_ ?_, ?_, ?_, ?_, ?_⟩
  · decide +kernel
  · decide +kernel
  · decide +kernel
  · rw [show passOf (mixedPass.core 0) mmPass.pass = [{ mmPass with dual := true }, { mmSecond with mfr := 0x4442, dual := true }] by
      decide +kernel]
    exact List.Pairwise.cons (fun b hb => by obtain rfl := List.mem_singleton.mp hb; exact h _ _ (by decide +kernel)) (List.pairwise_singleton _ _)
  · rw [show passOf (pairPass.core 0) mmPass.pass = [mmPass, mmSecond] by decide +kernel]
    exact List.Pairwise.cons (fun b hb => by obtain rfl := List.mem_singleton.mp hb; exact h _ _ (by decide +kernel)) (List.pairwise_singleton _ _)
  · decide +kernel
  · decide +kernel

/-- The block-float quarter keeps its value, with one fault of cause 3; the others are written (R256, R258). -/
theorem test_matrix_mixed : after (exec (.matrixDrain 0 0 0 0b0010 0) mixedPass) (fun g =>
    g.mfaults.map (fun f => (f.quarter, f.cause)) = [(1, 3)] && (g.readA 0).vals.getD 64 0 = 0x3F800000) = true := by decide +kernel

/-- An MMM whose image has gone by its end, its quarters changed since it began; a load of a tile that lost it to a lower
lane. -/
def mmmGone : MatOp := { mmmRuns with bva := 0x50000, shadow := some (List.replicate 256 0x40000000) }
def lostLoad : MatOp := { tileLoad with lost := 1 }

theorem test_witness_MatrixEnds_gone :
    (InArray (matState mmmGone) 0 0 0 mmmGone (group0 (matState mmmGone)) ∧ mmmGone.kind = .mmm ∧ mmmGone.started = true ∧
      mmmGone.pass = mmmGone.serial ∧ rangeTrouble (matState mmmGone) mmmGone.who Need.load mmmGone.bva.toNat 1536 ≠ [] ∧
      mmmGone.shadow = some (List.replicate 256 0x40000000) ∧
      ∀ k x, ((matState mmmGone).core 0).mats[k]? = some x → x.serial = mmmGone.serial → k = 0) ∧
    (((matState lostLoad).core 0).mats[0]? = some lostLoad ∧ lostLoad.lost ≠ 0) := by
  refine ⟨⟨inArray_of ?_, rfl, rfl, rfl, ?_, rfl, fun k x hk _ => ?_⟩, ?_⟩
  · decide +kernel
  · decide +kernel
  · have h1 : ((matState mmmGone).core 0).mats.length = 1 := by decide +kernel
    obtain ⟨h2, -⟩ := List.getElem?_eq_some_iff.mp hk
    omega
  · decide +kernel

/-- Its quarters are as its shadow keeps them, and it waits with one record (R262). -/
theorem test_mmm_gone : gives (exec (.matrixDrain 0 0 0 0 0) (matState mmmGone)) (fun t => t.hub.ring.length + t.hub.recWait.length = 1 &&
    (t.core 0).mats.map (fun o => (o.absent, o.records)) = [(true, 1)] && after (.next t) (fun g =>
      (g.readA 0).vals.getD 0 0 = 0x40000000 && (g.readA 0).vals.getD 64 0 = 0x3F800000)) = true := by decide +kernel

theorem test_witness_MatrixEnds_image : InArray (matState mmmRuns) 0 0 0 mmmRuns (group0 (matState mmmRuns)) ∧
    mmmRuns.kind = .mmm ∧ mmmRuns.started = true ∧ passOf ((matState mmmRuns).core 0) mmmRuns.pass = [mmmRuns] ∧
    rangeTrouble (matState mmmRuns) mmmRuns.who Need.load mmmRuns.bva.toNat 1536 = [] ∧
    ∀ k, k < 1536 → physOf (matState mmmRuns) mmmRuns.who.ctx mmmRuns.who.asid (mmmRuns.bva.toNat + k) Need.load =
      some (0x30000 + k) ∧ 0x30000 + k < Config.reservedBase ∧
      (matState mmmRuns).poison.contains ((0x30000 + k) / 64) = false := by
  refine ⟨inArray_of ?_, rfl, rfl, ?_, ?_, fun k hk => ⟨?_, ?_, rfl⟩⟩
  · decide +kernel
  · decide +kernel
  · decide +kernel
  · exact (by decide +kernel : ∀ k, k < 1536 → physOf (matState mmmRuns) mmmRuns.who.ctx mmmRuns.who.asid
      (mmmRuns.bva.toNat + k) Need.load = some (0x30000 + k)) k hk
  · have h1 : Config.reservedBase = 0x01F000000000 := rfl
    omega

theorem test_witness_MatrixEnds_tile : ((matState tileLoad).core 0).mats[0]? = some tileLoad ∧ tileLoad.kind = .tld ∧
    ((matState tileLoad).core 0).owns tileLoad.who = true ∧
    (∀ k, k < 1536 → ∃ pa, physOf (matState tileLoad) tileLoad.who.ctx tileLoad.who.asid (tileLoad.bva.toNat + k) Need.load = some pa ∧
      pa < Config.reservedBase) := by
  refine ⟨by decide +kernel, rfl, by decide +kernel, fun k hk => ⟨0x30000 + k, ?_, ?_⟩⟩
  · exact (by decide +kernel : ∀ k, k < 1536 → physOf (matState tileLoad) tileLoad.who.ctx tileLoad.who.asid
      (tileLoad.bva.toNat + k) Need.load = some (0x30000 + k)) k hk
  · have h1 : Config.reservedBase = 0x01F000000000 := rfl
    omega

/-- A pass of zeros leaves 1.0 where it was; a residue that differs keeps the quarter and leaves a fault of cause 3; a tile
load writes its tile (R105, R106, R258, R263). -/
theorem test_matrix_ends : gives (exec (.matrixDrain 0 0 0 0 0) (matState mmPass)) (fun t => (t.core 0).mats.isEmpty &&
      after (.next t) (fun g => (g.readA 0).vals.getD 0 0 = 0x3F800000 && g.mfaults.isEmpty)) ∧
    after (exec (.matrixDrain 0 0 0 0b0001 0) (matState blockPass)) (fun g => g.mfaults.map (fun f => (f.quarter, f.cause)) = [(0, 3)]) ∧
    after (exec (.tldComplete 0 0 0) { matState tileLoad with mem := [(0x30000, 7), (0x305FF, 9)] }) (fun g =>
      (g.readT 0).bytes.getD 0 0 = 7 && (g.readT 0).bytes.getD 1535 0 = 9 && g.pval 15 = 0xFFFFFFFF) := by decide +kernel

/-- The upper lanes of the device, with an MM of quarters 0 and 1 outstanding. -/
def upperLanes : State := onS (fun sp => { sp with mask := 0xFFFF0000 })
  (onC (fun k => { k with mats := [{ mmPass with started := false, quarters := 0b0011 }] }) matrixRig)

/-- Two MMs on one accumulator and tile within three cycles are one pass; one on another tile is a pass of its own (R255). -/
theorem test_passes : gives (exec (.mm 0 108 0) upperLanes) (fun t => (t.core 0).mats.map MatOp.pass = [3, 3]) ∧
    gives (exec (.mm 0 108 1) upperLanes) (fun t => (t.core 0).mats.map MatOp.pass = [3, matrixRig.fresh]) := by decide +kernel

/-- The device with a copy of 64 bytes in s13, from the mailbox page to the data page. -/
def copyRig : State := onG (withScalars [(13, 64), (14, 2 ^ 36), (20, 0x30000), (21, 0x40000), (22, 8), (23, 2), (24, 64), (25, 16)]) stocked
/-- A copy as issued, and the device with it. -/
def copyOf (f : CopyOp → CopyOp) : CopyOp :=
  f ⟨(view rig).who, 0, 40, 0, 0, [⟨BitVec.ofNat 64 0x30000, BitVec.ofNat 64 0x40000, 64⟩], 64, 3, 0, false, false, none, false⟩
def copying (f : CopyOp → CopyOp) : State := onT (fun t => { t with rsv := 3 }) (onC (fun k => { k with copies := [copyOf f] }) stocked)
/-- A full engine. -/
def busyEngine : State := onC (fun k => { k with copies := List.replicate 64 (copyOf id) }) copyRig

theorem test_witness_Copies :
    (Ready (.cpy 13 1 2) (view copyRig) copyRig ∧ Settled (view copyRig) ∧ (view copyRig).core.copies.length < 64 ∧ (view copyRig).ui 13 < 2 ^ 36 ∧
      rowsBad copyRig (view copyRig).who [⟨(view copyRig).rs 1, (view copyRig).rs 2, (view copyRig).ui 13⟩] = none ∧
      ∀ x ∈ (view copyRig).task.tilerecs, x.closed = true) ∧
    (Ready (.cpy2 40 20) (view copyRig) copyRig ∧ (view copyRig).ui 22 ≤ 2 ^ 24 ∧ (view copyRig).ui 23 ≤ 2 ^ 24 ∧
      (view copyRig).ui 22 * (view copyRig).ui 23 < 2 ^ 36 ∧
      rowsBad copyRig (view copyRig).who ((List.range ((view copyRig).ui 23)).map (fun k => ⟨(view copyRig).rs 20 + BitVec.ofNat 64 k *
        (view copyRig).rs 24, (view copyRig).rs 21 + BitVec.ofNat 64 k * (view copyRig).rs 25, (view copyRig).ui 22⟩)) = none) ∧
    (Ready (.cpy 13 1 2) (view busyEngine) busyEngine ∧ 64 ≤ (view busyEngine).core.copies.length) ∧
    (Ready (.cpy 14 1 2) (view copyRig) copyRig ∧ HasHandler (view copyRig) ∧ 2 ^ 36 ≤ (view copyRig).ui 14) := by
  refine ⟨?_, ?_, ?_, ?_⟩ <;> decide +kernel

/-- CPY2 with too many bytes per row, too many rows, too long in all, and with a row it may not read. -/
def rowsOf (per rows dst : Nat) : State := onG (withScalars [(20, dst), (21, 0x40000), (22, per), (23, rows), (24, 64), (25, 16)]) stocked

theorem test_witness_Copies_rows :
    (∀ e ∈ [(2 ^ 24 + 1, 1), (1, 2 ^ 24 + 1), (2 ^ 18, 2 ^ 18), (8, 2)], Ready (.cpy2 40 20) (view (rowsOf e.1 e.2 0x60000)) (rowsOf e.1 e.2 0x60000) ∧
      HasHandler (view (rowsOf e.1 e.2 0x60000)) ∧ (view (rowsOf e.1 e.2 0x60000)).core.copies.length < 64 ∧
      (view (rowsOf e.1 e.2 0x60000)).ui 22 = e.1 ∧ (view (rowsOf e.1 e.2 0x60000)).ui 23 = e.2) ∧
    rowsBad (rowsOf 8 2 0x60000) (view (rowsOf 8 2 0x60000)).who ((List.range 2).map (fun k => ⟨0x60000 + BitVec.ofNat 64 k * 64,
      0x40000 + BitVec.ofNat 64 k * 16, 8⟩)) = some 0x60000 := by decide +kernel

/-- The value beyond its limit is in tval, or the lowest address that may not be reached (R266, R267). -/
theorem test_copies_rows : after (exec (.cpy2 40 20) (rowsOf (2 ^ 24 + 1) (2 ^ 24 + 2) 0x60000)) (fun g => g.tca = 6 && g.tval = 2 ^ 24 + 1) ∧
    after (exec (.cpy2 40 20) (rowsOf 1 (2 ^ 24 + 1) 0x60000)) (fun g => g.tca = 6 && g.tval = 2 ^ 24 + 1) ∧
    after (exec (.cpy2 40 20) (rowsOf (2 ^ 18) (2 ^ 18) 0x60000)) (fun g => g.tca = 6 && g.tval = 2 ^ 36) ∧
    after (exec (.cpy2 40 20) (rowsOf 8 2 0x60000)) (fun g => g.tca = 6 && g.tval = 0x60000) := by decide +kernel

/-- CPY of 64 bytes costs 3 and adds 3 to rsv; CPY2 makes two rows; 2^36 bytes are too many (R33, R266, R267). -/
theorem test_copies : gives (exec (.cpy 13 1 2) copyRig) (fun t => (t.core 0).copies.map (fun o => (o.token, o.len, o.cost)) = [(13, 64, 3)] &&
      (Table.get? t.tasks placedTask).map Task.rsv = some 3) ∧
    gives (exec (.cpy2 40 20) copyRig) (fun t => (t.core 0).copies.map CopyOp.rows = [[⟨0x30000, 0x40000, 8⟩, ⟨0x30040, 0x40010, 8⟩]]) ∧
    after (exec (.cpy 14 1 2) copyRig) (fun g => g.tca = 6 && g.tval = 2 ^ 36) := by decide +kernel

/-- The places of the copied bytes. -/
theorem test_witness_CopyEnds : ((copying id).core 0).copies[0]? = some (copyOf id) ∧ copyTrouble (copying id) (copyOf id).who (copyOf id).rows = [] ∧
    ((copying id).core 0).owns (copyOf id).who = true ∧ ((copying id).group? 0 0).isSome = true ∧
    ((copying id).core 0).sgenOf (copyOf id).frame = (copyOf id).gen ∧ (Table.get? (copying id).tasks (copyOf id).who.task).isSome = true ∧
    (∀ k, k < 64 → physOf (copying id) (copyOf id).who.ctx (copyOf id).who.asid (0x30000 + k) Need.store = some (0x30000 + k) ∧
      0x30000 + k < Config.mereBase ∧
      physOf (copying id) (copyOf id).who.ctx (copyOf id).who.asid (0x40000 + k) Need.load = some (0x40000 + k) ∧
      0x40000 + k < Config.reservedBase) ∧ 0x30000 + 64 ≤ 2 ^ 56 ∧ 0x40000 + 64 ≤ Config.mereAlias := by decide +kernel

/-- A cancelled copy of a task that another task's unwinding has stopped. -/
def cancelledCopy : State := { copying (fun o => { o with cancelled := true }) with
  tasks := [(placedTask, { placedRoot with rsv := 3, state := .unwinding, unwinder := some 5 }), (5, placedRoot)] }

theorem test_witness_CopyEnds_cancelled : (cancelledCopy.core 0).copies[0]? = some (copyOf (fun o => { o with cancelled := true })) ∧
    (Table.get? cancelledCopy.tasks placedTask).bind Task.unwinder = some 5 ∧ 5 ≠ placedTask ∧
    (Table.get? cancelledCopy.tasks 5).isSome = true := by decide +kernel

/-- The copy ends: the word moves, the token is 0, rsv falls by 3 (R266, R270). -/
theorem test_copy_ends : gives (exec (.copyComplete 0 0) (onG (withScalars [(40, 64)]) (copying id))) (fun t => wordAt t.mem 0x30000 8 = 0x1234 &&
    wordAt t.mem 0x40000 8 = 0x1234 && (Table.get? t.tasks placedTask).map Task.rsv = some 0 && after (.next t) (fun g => g.sval 0 40 = 0)) = true := by
  decide +kernel

/-- The crew with channel 2, two slots deep, from stage 0 to stage `c`. -/
def channel (c : Nat) (full : List VReg) (f : Split → Split) : State :=
  onS f (onT (fun t => { t with chans := [(2, ⟨2, 0, c, full, 0, 0, [], []⟩)] }) rig)

theorem test_witness_Channels :
    (Ready (.push 120 2) (view (channel 1 [] id)) (channel 1 [] id) ∧ (chanOf (view (channel 1 [] id)).task 2).depth ≠ 0 ∧
      (view (channel 1 [] id)).group.stg = (chanOf (view (channel 1 [] id)).task 2).prod ∧
      (chanOf (view (channel 1 [] id)).task 2).full.length < 2) ∧
    (Ready (.pop 119 2) (view (channel 0 [lanes id] id)) (channel 0 [lanes id] id) ∧
      (view (channel 0 [lanes id] id)).group.stg = (chanOf (view (channel 0 [lanes id] id)).task 2).cons ∧
      (chanOf (view (channel 0 [lanes id] id)).task 2).full = lanes id :: []) ∧
    (Ready (.push 120 2) (view (channel 1 [lanes id, lanes id] id)) (channel 1 [lanes id, lanes id] id) ∧
      2 ≤ (chanOf (view (channel 1 [lanes id, lanes id] id)).task 2).full.length) ∧
    (Ready (.pop 119 2) (view (channel 0 [] id)) (channel 0 [] id) ∧ (chanOf (view (channel 0 [] id)).task 2).full = []) ∧
    (Ready (.pop 119 2) (view (channel 1 [] id)) (channel 1 [] id) ∧ HasHandler (view (channel 1 [] id)) ∧
      (view (channel 1 [] id)).group.stg ≠ (chanOf (view (channel 1 [] id)).task 2).cons) ∧
    (Ready (.push 120 15) (view rig) rig ∧ (chanOf (view rig).task 15).depth = 0) := by
  refine ⟨?_, ?_, ?_, ?_, ?_, ?_⟩ <;> decide +kernel

/-- PUSH fills a slot; POP of it writes the active lanes alone; a full channel parks PUSH; another stage traps with cause 12
and the channel in tval (R138, R139, R272). -/
theorem test_channels : gives (exec (.push 120 2) (channel 1 [] id)) (fun t =>
      (Table.get? t.tasks placedTask).map (fun x => (chanOf x 2).full) = some [lanes id]) ∧
    after (exec (.pop 119 2) (channel 0 [lanes (fun k => k + 5)] (fun sp => { sp with mask := 2 }))) (fun g =>
      laneAt (g.lanes 0 119) 1 = 6 && laneAt (g.lanes 0 119) 0 = 0) ∧
    after (exec (.push 120 2) (channel 1 [lanes id, lanes id] id)) (fun g => g.splits.map Split.state = [.parked]) ∧
    after (exec (.pop 119 2) (channel 1 [] id)) (fun g => g.tca = 12 && g.tval = 2) := by decide +kernel

/-- A POP of the other split waits on the empty channel, to v119; a PUSH of it waits on the full one. -/
def popWaits : State := onT (fun t => { t with chans := [(2, ⟨2, 0, 1, [], 0, 0, [], [(0, 16)]⟩)] })
  (twoSplits (fun sp => { sp with pc := 0x10020, state := .parked, wait := .pop 2 119 }))
def pushWaits : State := onT (fun t => { t with chans := [(2, ⟨1, 0, 0, [lanes id], 0, 0, [(0, 16)], []⟩)] })
  (twoSplits (fun sp => { sp with pc := 0x10020, state := .parked, wait := .push 2 (lanes (fun k => k + 9)) }))

theorem test_witness_Channels_waits :
    (Ready (.push 120 2) (view popWaits) popWaits ∧ (view popWaits).group.stg = (chanOf (view popWaits).task 2).prod ∧
      (chanOf (view popWaits).task 2).full = [] ∧ (chanOf (view popWaits).task 2).pushers = [] ∧
      (chanOf (view popWaits).task 2).poppers = (0, 16) :: [] ∧ popWaits.group? 0 0 = some (view popWaits).group ∧
      ((view popWaits).group.atLane 16).map Split.wait = some (.pop 2 119) ∧ 16 ≠ lowLane (view popWaits).m) ∧
    (Ready (.pop 119 2) (view pushWaits) pushWaits ∧ (view pushWaits).group.stg = (chanOf (view pushWaits).task 2).cons ∧
      (chanOf (view pushWaits).task 2).full = lanes id :: [] ∧
      (chanOf (view pushWaits).task 2).full.length = (chanOf (view pushWaits).task 2).depth ∧
      (chanOf (view pushWaits).task 2).poppers = [] ∧ (chanOf (view pushWaits).task 2).pushers = (0, 16) :: [] ∧
      ((view pushWaits).group.atLane 16).map Split.wait = some (.push 2 (lanes (fun k => k + 9)))) := by
  refine ⟨?_, ?_⟩ <;> decide +kernel

/-- The waiting split has its lanes, or its slot, and goes on (R138, R139). -/
theorem test_channels_waits : after (exec (.push 120 2) popWaits) (fun g => laneAt (g.lanes 0 119) 17 = 17 && laneAt (g.lanes 0 119) 1 = 0 &&
      g.splits.map (fun sp => (sp.pc, sp.state)) = [(0x10004, .ready), (0x10024, .ready)]) ∧
    gives (exec (.pop 119 2) pushWaits) (fun t => (Table.get? t.tasks placedTask).map (fun x => (chanOf x 2).full) = some [lanes (fun k => k + 9)] &&
      after (.next t) (fun g => laneAt (g.lanes 0 119) 1 = 1 && g.splits.map (fun sp => (sp.pc, sp.state)) =
        [(0x10004, .ready), (0x10024, .ready)])) := by decide +kernel

/-- A queue of two slots: its block at the mailbox page (base 0x40100, size 1, tail word full), the image in the data page. -/
def enqRig : State := { onG (withScalars [(13, 0x40000)]) rig with
  mem := Memory.putAll rig.mem (cellsOf 0x30000 8 0x55 ++ cellsOf 0x40000 8 0x40100 ++ cellsOf 0x40008 8 1 ++ cellsOf 0x40010 8 1)
  full := [0x40010 / 8] }
/-- The same with its tail word empty, and with an ENQ that waits on it. -/
def enqBusy : State := { enqRig with full := [] }
def enqWaits : State := onS (fun sp => { sp with state := .parked, wait := .enq 40 0x40000 0x30000 0 true }) enqBusy

theorem test_witness_Enqueue :
    (Ready (.enq 40 13 1) (view enqRig) enqRig ∧ Settled (view enqRig) ∧ enqRig.tarn = [] ∧
      (view enqRig).group.atLane (lowLane (view enqRig).m) = some (view enqRig).split ∧
      enqTrap enqRig (view enqRig).who ((view enqRig).rs 13) ((view enqRig).rs 1) = none ∧
      enqAbsent enqRig (view enqRig).who ((view enqRig).rs 13) ((view enqRig).rs 1) = [] ∧
      ringOf enqRig (view enqRig).task.ctx (view enqRig).task.asid ((view enqRig).ui 13) = some ⟨0x40010, 0x40100, 2⟩) ∧
    (isFull enqRig 0x40010 = true ∧ wordAt enqRig.mem 0x40010 8 = 1 ∧
      physOf enqRig (view enqRig).task.ctx (view enqRig).task.asid (0x40100 + 64 * (1 % 2)) Need.fill = some 0x40140 ∧
      isFull enqRig 0x40140 = false ∧ 0x40140 + 64 ≤ Config.mereBase ∧ 0x40010 + 8 ≤ 0x40140) ∧
    (Ready (.enq 40 13 1) (view enqBusy) enqBusy ∧
      enqTrap enqBusy (view enqBusy).who ((view enqBusy).rs 13) ((view enqBusy).rs 1) = none ∧
      enqAbsent enqBusy (view enqBusy).who ((view enqBusy).rs 13) ((view enqBusy).rs 1) = [] ∧
      ringOf enqBusy (view enqBusy).task.ctx (view enqBusy).task.asid ((view enqBusy).ui 13) = some ⟨0x40010, 0x40100, 2⟩ ∧
      isFull enqBusy 0x40010 = false) ∧
    ((enqWaits.group? 0 0).map (fun g => g.entries.map Split.wait) = some [.enq 40 0x40000 0x30000 0 true] ∧ 0 ≤ enqWaits.cyc 0 ∧
      (enqWaits.group? 0 0).map (fun g => g.atLane 0) = (enqWaits.group? 0 0).map (fun g => g.entries[0]?)) := by
  refine ⟨?_, ?_, ?_, ?_⟩ <;> decide +kernel

/-- The same with the unit of its control block poisoned. -/
def enqPoisoned : State := { enqRig with poison := [0x40000 / 64] }
/-- A block and an image that are not aligned, or not to be read. -/
def enqOdd : State := onG (withScalars [(14, 0x40008), (15, 0x90000)]) enqRig

theorem test_witness_Enqueue_traps :
    (Ready (.enq 40 14 1) (view enqOdd) enqOdd ∧ HasHandler (view enqOdd) ∧ (view enqOdd).ui 14 % 64 ≠ 0) ∧
    (Ready (.enq 40 13 4) (view enqOdd) enqOdd ∧ (view enqOdd).ui 13 % 64 = 0 ∧ (view enqOdd).ui 4 % 64 ≠ 0) ∧
    (Ready (.enq 40 13 15) (view enqOdd) enqOdd ∧ (view enqOdd).ui 15 % 64 = 0 ∧
      rangeBad enqOdd (view enqOdd).task.ctx (view enqOdd).task.asid (view enqOdd).tid Need.load ((view enqOdd).ui 15) 64 ≠ none) ∧
    Clean enqRig 0x40010 8 := by
  unfold Clean
  decide +kernel

theorem test_witness_Enqueue_poison : Ready (.enq 40 13 1) (view enqPoisoned) enqPoisoned ∧ Settled (view enqPoisoned) ∧
    enqPoisoned.tarn = [] ∧ enqTrap enqPoisoned (view enqPoisoned).who ((view enqPoisoned).rs 13) ((view enqPoisoned).rs 1) = none ∧
    enqAbsent enqPoisoned (view enqPoisoned).who ((view enqPoisoned).rs 13) ((view enqPoisoned).rs 1) = [] ∧
    ringOf enqPoisoned (view enqPoisoned).task.ctx (view enqPoisoned).task.asid ((view enqPoisoned).ui 13) = some ⟨0x40010, 0x40100, 2⟩ ∧
    isFull enqPoisoned 0x40010 = true ∧ ¬Clean enqPoisoned 0x40010 8 := by
  unfold Clean
  decide +kernel

/-- The tail word is taken, and the ENQ stands to take cause 2 with its address (R225, R281). -/
theorem test_enqueue_poison : gives (exec (.enq 40 13 1) enqPoisoned) (fun t => t.full.isEmpty && wordAt t.mem 0x40140 8 = 0 &&
    (t.core 0).loads.map LoadOp.poison = [some 0x40010] && after (.next t) (fun g => g.splits.map (fun sp => (sp.pc, sp.state)) =
      [(0x10000, .ready)]) && after (exec (.enq 40 13 1) { t with cur := some ⟨0, 0, 0⟩ }) (fun g => g.tca = 2 && g.tval = 0x40010)) = true := by
  decide +kernel

/-- The packet is placed in slot 1, the tail is 2, the status 0; with the tail empty the split waits; at its deadline it
goes on with FULL (R15, R273). -/
theorem test_enqueue : gives (exec (.enq 40 13 1) enqRig) (fun t => wordAt t.mem 0x40140 8 = 0x55 && wordAt t.mem 0x40010 8 = 2 &&
      t.full = [0x40010 / 8, 0x40140 / 8] && after (.next t) (fun g => g.sval 0 40 = 0 && g.splits.map Split.pc = [0x10004])) ∧
    gives (exec (.enq 40 13 1) enqBusy) (fun t => t.tarn = [⟨0x40010, .split 0 0 0⟩]) ∧
    gives (exec (.enqDeadline 0 0 0) { enqWaits with tarn := [⟨0x40010, .split 0 0 0⟩] }) (fun t => t.tarn.isEmpty &&
      after (.next t) (fun g => g.sval 0 40 = 2 && g.splits.map Split.pc = [0x10004])) := by decide +kernel

/-- The copy and ENQ statements' further hypotheses: the destination is no fixed field of a control block, the slot and the
tail are open; a source that may not be read; a full Tarn; an image page that is absent. -/
theorem test_witness_CopyEnds_open : (∀ k, k < 64 → blockFixed (copying id) (0x30000 + k) = false) ∧ (copyOf id).records = 0 ∧
    (copyOf id).imaged = false ∧ (copyOf id).cancelled = false := by decide +kernel
theorem test_witness_Copies_refused : Ready (.cpy 13 5 2) (view copyRig) copyRig ∧ HasHandler (view copyRig) ∧
    rowsBad copyRig (view copyRig).who [⟨(view copyRig).rs 5, (view copyRig).rs 2, (view copyRig).ui 13⟩] = some 0x60000 := by
  decide +kernel

/-- The ENQ rig with the Tarn of die 0 full of other words. -/
def enqFull : State := { enqBusy with tarn := List.replicate 16384 ⟨0x40008, .hub 0⟩ }

theorem test_witness_Enqueue_open : Open enqRig 0x40140 64 ∧ Open enqRig 0x40010 8 ∧ (view enqRig).group.handler = false ∧
    (tarnRoom enqBusy 0x40010 = true ∧ tarnRoom enqFull 0x40010 = false ∧ Ready (.enq 40 13 1) (view enqFull) enqFull) ∧
    (Ready (.enq 40 13 3) (view enqRig) enqRig ∧ enqTrap enqRig (view enqRig).who ((view enqRig).rs 13) ((view enqRig).rs 3) = none ∧
      enqAbsent enqRig (view enqRig).who ((view enqRig).rs 13) ((view enqRig).rs 3) ≠ []) ∧ enqWaits.savingAt 0 0 = false := by
  refine ⟨open_of _ _ _ ?_, open_of _ _ _ ?_, ?_, ?_, ?_, ?_⟩ <;> decide +kernel

/-- A full Tarn turns ENQ away for 512 cycles; an absent image parks it with one record of kind 2 (R213, R227, R273). -/
theorem test_enqueue_waits : gives (exec (.enq 40 13 1) enqFull) (fun t => t.tarn.length = 16384 && after (.next t) (fun g =>
      g.splits.map (fun sp => match sp.wait with | .busy _ n => n | _ => 0) = [enqFull.cyc 0 + 512])) ∧
    after (exec (.enq 40 13 3) enqRig) (fun g => g.splits.map Split.state = [.parked]) := by decide +kernel

/-! Tasks. -/

/-- A task of the pool below the placed one, in a given state: slot 0 of the pool. -/
def childTask (f : Task → Task) : Task := f { placedRoot with
  va := Config.poolBase
  isRoot := false
  state := .armed
  depth := 1
  parent := some placedTask
  dep := 1
  alw := 100
  written := 100 }
/-- The device with that child, its parent metered with 1,000 units. -/
def family (f : Task → Task) : State := { rig with
  tasks := [(Config.poolBase, childTask f), (placedTask, { placedRoot with alw := 1000, kids := 1, pend := 7, jstat := 4 })] }
/-- The parent alone, with no child left. -/
def alone : State := { rig with tasks := [(placedTask, { placedRoot with alw := 1000, pend := 7, jstat := 4 })] }
/-- The context at its nesting limit. -/
def atLimit : State := onH (fun h => { h with ctxs := [(0, { placedCtx with lmax := 0 })] }) alone
/-- A context whose quota is used up. -/
def noQuota : State := onH (fun h => { h with ctxs := [(0, { placedCtx with quota := 0 })] }) alone
/-- A template with place 384 in the mailbox page. -/
def badTemplate : State := { alone with mem := Memory.putAll alone.mem (cellsOf 0x40006 2 384) }

theorem test_witness_Spawning :
    (Ready (.spawn 40 1 6) (view alone) alone ∧ Settled (view alone) ∧ (view alone).task.alw ≤ Config.unmetered ∧
      rangeBad alone (view alone).task.ctx (view alone).task.asid (view alone).tid Need.load ((view alone).ui 1) 256 = none ∧
      rangeAbsent alone (view alone).task.ctx (view alone).task.asid Need.load 6 ((view alone).ui 1) ((view alone).ui 1 + 256) = [] ∧
      templateGood ((templateBytes alone (view alone).who (view alone).reader ((view alone).ui 1)).map Prod.fst) = true ∧
      (templateBytes alone (view alone).who (view alone).reader ((view alone).ui 1)).any Prod.snd = false ∧
      Table.get? alone.hub.ctxs (view alone).task.ctx = some placedCtx ∧ (view alone).task.depth + 1 ≤ placedCtx.lmax) ∧
    (Ready (.spawn 40 1 6) (view atLimit) atLimit ∧ (view atLimit).split.paid = none ∧ (view atLimit).task.alw < Config.unmetered ∧
      (Table.get? atLimit.hub.ctxs 0).map Ctx.lmax = some 0) ∧
    (Ready (.spawn 40 1 6) (view noQuota) noQuota ∧ noQuota.poolSlot 0 = none) ∧
    (Ready (.spawn 40 4 6) (view alone) alone ∧ HasHandler (view alone) ∧ Ready (.spawn 40 2 6) (view badTemplate) badTemplate ∧
      rangeAbsent badTemplate (view badTemplate).task.ctx (view badTemplate).task.asid Need.load 6 ((view badTemplate).ui 2)
        ((view badTemplate).ui 2 + 256) = [] ∧
      templateGood ((templateBytes badTemplate (view badTemplate).who (view badTemplate).reader ((view badTemplate).ui 2)).map Prod.fst) =
        false) := by
  refine ⟨?_, ?_, ?_, ?_⟩ <;> decide +kernel

/-- A template whose first unit is poisoned. -/
def poisonedTemplate : State := { alone with poison := [0x40000 / 64] }

theorem test_witness_Spawning_other :
    (Ready (.spawn 40 2 6) (view poisonedTemplate) poisonedTemplate ∧ Settled (view poisonedTemplate) ∧ HasHandler (view poisonedTemplate) ∧
      rangeBad poisonedTemplate (view poisonedTemplate).task.ctx (view poisonedTemplate).task.asid (view poisonedTemplate).tid Need.load
        ((view poisonedTemplate).ui 2) 256 = none ∧
      rangeAbsent poisonedTemplate (view poisonedTemplate).task.ctx (view poisonedTemplate).task.asid Need.load 6
        ((view poisonedTemplate).ui 2) ((view poisonedTemplate).ui 2 + 256) = [] ∧
      templateGood ((templateBytes poisonedTemplate (view poisonedTemplate).who (view poisonedTemplate).reader
        ((view poisonedTemplate).ui 2)).map Prod.fst) = true ∧
      (templateBytes poisonedTemplate (view poisonedTemplate).who (view poisonedTemplate).reader
        ((view poisonedTemplate).ui 2)).any Prod.snd = true) ∧
    (Ready (.spawn 40 3 6) (view alone) alone ∧ Settled (view alone) ∧
      rangeBad alone (view alone).task.ctx (view alone).task.asid (view alone).tid Need.load ((view alone).ui 3) 256 = none ∧
      rangeAbsent alone (view alone).task.ctx (view alone).task.asid Need.load 6 ((view alone).ui 3) ((view alone).ui 3 + 256) ≠ []) := by
  refine ⟨?_, ?_⟩ <;> decide +kernel

/-- The pool slot chosen lies in the pool and holds no task, whichever it is. -/
theorem test_witness_Spawning_slot : ∃ slot, alone.poolSlot 0 = some slot ∧ Table.get? alone.tasks slot = none ∧ Config.poolBase ≤ slot := by
  refine ⟨Config.poolBase + 256 * (Config.poolPick 0 16384 % 16384), ?_, ?_, Nat.le_add_right _ _⟩
  · have h1 : usedSlots alone = [] := by decide +kernel
    have h2 : Table.get? alone.hub.ctxs 0 = some placedCtx := by decide +kernel
    have h3 : alone.tasks.filter (fun e => !e.2.isRoot && decide (e.2.ctx = 0)) = [] := by decide +kernel
    have h4 : alone.fresh = 0 := by decide +kernel
    unfold State.poolSlot
    simp [h1, h2, h3, h4, nthFree, placedCtx, Config.poolSlots]
  · have h1 : Config.poolPick 0 16384 % 16384 < 16384 := Nat.mod_lt _ (by decide)
    have h2 : alone.tasks = [(placedTask, { placedRoot with alw := 1000, pend := 7, jstat := 4 })] := by decide +kernel
    have h3 : placedTask = 2 ^ 56 + 0x20000 := by decide
    have h4 : Config.poolBase = 0xEF000000000000 := rfl
    rw [h2, Table.get?]
    rw [if_neg (by rw [h3, h4]; omega)]
    rfl

/-- At the nesting limit SPAWN answers DENIED, without a slot FULL, for 8 units; a template with place 384 traps (R33, R170,
R178). -/
theorem test_spawn : gives (exec (.spawn 40 1 6) atLimit) (fun t => (Table.get? t.tasks placedTask).map Task.alw = some 992 &&
      after (.next t) (fun g => g.sval 0 40 = 3)) ∧
    gives (exec (.spawn 40 1 6) noQuota) (fun t => (Table.get? t.tasks placedTask).map Task.alw = some 992 &&
      after (.next t) (fun g => g.sval 0 40 = 2)) ∧
    after (exec (.spawn 40 2 6) badTemplate) (fun g => g.tca = 6 && g.tval = 0x40000) := by decide +kernel

/-- A JOIN parked in the only split. -/
def joining (s : State) : State := onS (fun sp => { sp with state := .parked, wait := .join 40 0 }) s

theorem test_witness_Joins :
    (Ready (.join 40) (view alone) alone ∧ (view alone).task.kids = 0 ∧ (view alone).task.alw < Config.unmetered ∧
      (view alone).task.alw + (view alone).task.pend ≤ Config.maxMetered) ∧
    (Ready (.join 40) (view (family id)) (family id) ∧ (view (family id)).task.kids ≠ 0) ∧
    (((joining alone).group? 0 0).map (fun g => g.entries.map Split.wait) = some [.join 40 0] ∧
      joinKeys (joining alone) placedTask = [0] ∧ (Table.get? (joining alone).tasks placedTask).map Task.saving = some none ∧
      ((joining alone).group? 0 0).map (fun g => g.atLane 0) = ((joining alone).group? 0 0).map (fun g => g.entries[0]?) ∧
      ((joining alone).group? 0 0).map Group.task = some placedTask ∧
      (Table.get? (joining alone).tasks placedTask).map Task.kids = some 0) := by decide +kernel

/-- JOIN with no child collects pend, costs 2 and writes jstat (R185). -/
theorem test_join : gives (exec (.join 40) alone) (fun t => (Table.get? t.tasks placedTask).map (fun x => (x.alw, x.pend, x.jstat)) =
      some (1005, 0, 0) && after (.next t) (fun g => g.sval 0 40 = 4)) ∧
    gives (exec (.joinComplete 0 0 0) (joining alone)) (fun t => (Table.get? t.tasks placedTask).map Task.alw = some 1007 &&
      after (.next t) (fun g => g.splits.map Split.pc = [0x10004])) ∧
    after (exec (.join 40) (family id)) (fun g => g.splits.map Split.wait = [.join 40 ((family id).cyc 0)]) := by decide +kernel

/-- A queued task of the same priority; the crew of a sweep at coordinate number n of 3 × 2 × 2. -/
def contested : State := family (fun t => { t with state := .ready, resident := true, dep := 0 })
def sweeping (n : Nat) : State := onT (fun t => { t with swcrew := true, sweep := some 0 })
  (onH (fun h => { h with sweeps := [(0, ⟨placedTask, 3, 2, 2, n⟩)] }) rig)

theorem test_witness_ExitYieldTake :
    (Ready .done (view apart) apart ∧ (view apart).group.splits.length + (view apart).group.spilled.length ≠ 1 ∧
      (view apart).group.origins = [] ∧ (∀ sp ∈ (view apart).group.entries, sp.state ≠ .meet) ∧ (view apart).group.handler = false) ∧
    (Ready .done (view rig) rig ∧ (view rig).group.splits.length + (view rig).group.spilled.length = 1 ∧
      (view rig).task.place = (view rig).sel.core ∧ ∀ e ∈ (view rig).core.groups, e.2.task = (view rig).tid → e.1 = (view rig).sel.slot) ∧
    (Ready .yield (view rig) rig ∧ ∀ e ∈ queued rig (view rig).task.place, e.2.prio < (view rig).task.prio) ∧
    (Ready .yield (view contested) contested ∧ ∃ e ∈ queued contested (view contested).task.place, (view contested).task.prio ≤ e.2.prio) ∧
    (Ready (.take 40) (view (sweeping 11)) (sweeping 11) ∧ (view (sweeping 11)).task.swcrew = true ∧
      (view (sweeping 11)).task.sweep = some 0 ∧ Table.get? (sweeping 11).hub.sweeps 0 = some ⟨placedTask, 3, 2, 2, 11⟩) ∧
    (Ready (.take 40) (view rig) rig ∧ (view rig).task.swcrew = false) := by
  refine ⟨?_, ?_, ?_, ?_, ?_, ?_⟩ <;> decide +kernel

/-- DONE leaves the other split, or the task DRAINING; YIELD to an equal stands a request; TAKE number 7 of 3 × 2 × 2 is (1, 0,
1), number 12 all ones (R184, R190, R192, R193). -/
theorem test_exit : after (exec .done apart) (fun g => g.splits.map Split.mask = [0xFFFF0000]) ∧
    gives (exec .done rig) (fun t => (t.group? 0 0).isNone && (t.core 0).ggenOf 0 = 1 &&
      (Table.get? t.tasks placedTask).map Task.state = some .draining) ∧
    gives (exec .yield contested) (fun t => (Table.get? t.tasks placedTask).map (fun x => x.request.isSome) = some true) ∧
    after (exec (.take 40) (sweeping 7)) (fun g => g.sval 0 40 = 0x100000001) ∧
    after (exec (.take 40) (sweeping 12)) (fun g => g.sval 0 40 = 0xFFFFFFFFFFFFFFFF) := by decide +kernel

/-- The device with the child's handle in s13 and that of a task of no context in s14. -/
def handles : State := onG (withScalars [(13, Config.poolBase), (14, 0x12300)]) (family (fun t => { t with state := .running }))

theorem test_witness_MessagesSent :
    (Ready (.grant 40 13 6) (view handles) handles ∧ Ready (.cancel 40 13) (view handles) handles ∧
      namedBy handles (view handles).task.ctx (view handles).task.asid ((view handles).rs 13) = .task Config.poolBase ∧
      descends handles (view handles).tid 64 Config.poolBase = true) ∧
    (Ready (.signal 13) (view handles) handles ∧ Settled (view handles)) ∧
    (Ready (.signal 14) (view handles) handles ∧ HasHandler (view handles) ∧
      namedBy handles (view handles).task.ctx (view handles).task.asid ((view handles).rs 14) = .bad) := by decide +kernel

/-- GRANT of 7 costs 11 and sends one message; a handle that names no task traps (R33, R167, R181). -/
theorem test_messages_sent : gives (exec (.grant 40 13 6) handles) (fun t => t.msgs.map (fun m => (m.kind, m.target)) =
      [(.grant 7, some Config.poolBase)] && (Table.get? t.tasks placedTask).map Task.alw = some 989) ∧
    gives (exec (.signal 13) handles) (fun t => t.msgs.map Msg.kind = [.signal]) ∧
    after (exec (.cancel 40 14) handles) (fun g => g.tca = 6 && g.tval = 0x12300) := by decide +kernel

/-- `n` splits of eight lanes each of one origin, the first of them selected; the handler's last split with a frozen one; a
split that waits at a MEET for the one that ends. -/
def kin (n : Nat) (h : Bool) : State := onG (fun g => { g with origins := [(5, 0)], handler := h, splits := g.splits.flatMap (fun sp =>
  (List.range n).map (fun k => { sp with mask := BitVec.ofNat 32 (0xFF * 256 ^ k), pc := BitVec.ofNat 64 (0x10000 + 64 * k), origin := 5 })) }) rig
def lastHandler : State := onG (fun g => { g with handler := true })
  (onS (fun sp => { sp with inHandler := true }) (twoSplits (fun sp => { sp with state := .frozen, pc := 0x10020 })))
def meets : State := twoSplits (fun sp => { sp with state := .meet, meet := 0x10040, pc := 0x10040, mrem := 256 })

theorem test_witness_ExitYieldTake_origins :
    (∀ n ∈ [2, 3], Ready .done (view (kin n false)) (kin n false) ∧ (view (kin n false)).group.splits.length = n ∧
      (∀ e ∈ (view (kin n false)).group.origins, 2 ≤ (view (kin n false)).group.members e.1) ∧
      (∀ sp ∈ (view (kin n false)).group.entries, sp.state ≠ .meet) ∧ (view (kin n false)).group.handler = false ∧
      (view (kin n false)).split.origin ∈ Table.keys (view (kin n false)).group.origins ∧
      (view (kin n false)).group.members (view (kin n false)).split.origin = n ∧ (Table.keys (view (kin n false)).group.origins).Nodup) ∧
    (Ready .done (view lastHandler) lastHandler ∧ (view lastHandler).group.handler = true ∧
      (∀ sp ∈ dropAt (view lastHandler).group.splits (view lastHandler).sel.idx ++ (view lastHandler).group.spilled, sp.inHandler = false) ∧
      ∀ sp ∈ (view lastHandler).group.entries, sp.state ≠ .meet) ∧
    (Ready .done (view meets) meets ∧ (view meets).sel.idx = 0 ∧ (view meets).group.spilled = [] ∧ (view meets).group.handler = false ∧
      (view meets).group.splits[0]? = some (view meets).split ∧ (view meets).group.splits.length = 2 ∧
      (view meets).group.splits.map Split.state = [.ready, .meet]) := by
  refine ⟨?_, ?_, ?_⟩ <;> decide +kernel

/-- An origin left with one member is dissolved, one left with two stays; the frozen split is ready; the waiting one goes on
behind its MEET (R116, R119, R277). -/
theorem test_exit_origins : after (exec .done (kin 2 false)) (fun g => g.origins.isEmpty && g.splits.map Split.origin = [0]) ∧
    after (exec .done (kin 3 false)) (fun g => g.origins = [(5, 0)] && g.splits.map Split.origin = [5, 5]) ∧
    after (exec .done lastHandler) (fun g => !g.handler && g.splits.map (fun sp => (sp.pc, sp.state)) = [(0x10020, .ready)]) ∧
    after (exec .done meets) (fun g => g.splits.map (fun sp => (sp.pc, sp.state)) = [(0x10044, .ready)]) := by decide +kernel

/-- A message to a task on its way. -/
def mail (k : MsgKind) (target issuer : Nat) (f : Task → Task) : State :=
  { family f with msgs := [⟨k, some target, 0, some issuer, none, none, 2⟩] }

theorem test_witness_MessagesApplied :
    (served (mail (.grant 5) Config.poolBase placedTask id) ⟨.grant 5, some Config.poolBase, 0, some placedTask, none, none, 2⟩ = true ∧
      (⟨.grant 5, some Config.poolBase, 0, some placedTask, none, none, 2⟩ : Msg).inTurn (mail (.grant 5) Config.poolBase placedTask id) = true ∧
      (Table.get? (mail (.grant 5) Config.poolBase placedTask id).tasks Config.poolBase) = some (childTask id) ∧
      (childTask id).inc = 0 ∧ (childTask id).state = .armed ∧ (childTask id).alw < Config.unmetered ∧ placedTask ≠ Config.poolBase ∧
      0 < (childTask id).dep ∧ (childTask id).isRoot = false ∧ (childTask id).parent = some placedTask) ∧
    (Table.get? (mail .cancel Config.poolBase placedTask (fun t => { t with state := .running })).tasks Config.poolBase).map
      (fun x => (x.state, x.unwinder)) = some (.running, none) ∧
    (served (mail (.ret 9 5) placedTask Config.poolBase id) ⟨.ret 9 5, some placedTask, 0, some Config.poolBase, none, none, 2⟩ = true ∧
      (Table.get? (mail (.ret 9 5) placedTask Config.poolBase id).tasks placedTask).map Task.pend = some 7 ∧
      7 + 9 ≤ Config.unmetered) := by decide +kernel

/-- GRANT to a STARVED task resumes it; SIGNAL of the last dependence makes it READY; CANCEL of a waiting task frees its slot;
a return adds to pend and frees the child's slot with the next incarnation (R166, R180, R181, R183, R187). -/
theorem test_messages_applied :
    gives (exec (.grantApply 0) (mail (.grant 5) Config.poolBase placedTask (fun t => { t with state := .starved }))) (fun t =>
      (Table.get? t.tasks Config.poolBase).map (fun x => (x.alw, x.state)) = some (105, .running)) ∧
    gives (exec (.signalApply 0) (mail .signal Config.poolBase placedTask id)) (fun t =>
      (Table.get? t.tasks Config.poolBase).map (fun x => (x.dep, x.state)) = some (0, .ready)) ∧
    gives (exec (.cancelApply 0) (mail .cancel Config.poolBase placedTask id)) (fun t =>
      (Table.get? t.tasks Config.poolBase).isNone && Table.get? t.incs Config.poolBase = some 1 &&
      (Table.get? t.tasks placedTask).map Task.kids = some 0) ∧
    gives (exec (.returnDelivery 0) (mail (.ret 9 5) placedTask Config.poolBase (fun t => { t with state := .done }))) (fun t =>
      (Table.get? t.tasks placedTask).map (fun x => (x.pend, x.jstat, x.kids)) = some (16, 4, 0) && Table.get? t.incs Config.poolBase = some 1) := by
  decide +kernel

/-- A child that drains, is to be stopped by its parent's unwinding, or roots an unwinding that has ended. -/
def draining : Task → Task := fun t => { t with state := .draining, dep := 0 }
def toStop : Task → Task := fun t => { t with state := .running, unwinder := some placedTask }
def toDrop : Task → Task := fun t => { t with unwinder := some placedTask }
def ended : Task → Task := fun t => { t with state := .unwinding, unwinder := some Config.poolBase, stopped := true, sum := 60, xstat := 7 }

theorem test_witness_TaskEnds :
    (Table.get? (family draining).tasks Config.poolBase = some (childTask draining) ∧ (childTask draining).kids = 0 ∧
      (childTask draining).rsv = 0 ∧ (childTask draining).awaiting = 0 ∧ (childTask draining).unwinder = none ∧
      (childTask draining).tilerecs = [] ∧ ((family draining).core 0).busyFor Config.poolBase = false ∧
      (childTask draining).parent = some placedTask ∧ (family draining).inTurn 0 0 = true ∧ (childTask draining).sweep = none) ∧
    (Table.get? (family toStop).tasks Config.poolBase = some (childTask toStop) ∧ (childTask toStop).stopped = false ∧
      ((family toStop).core 0).inReset = false ∧ (family toStop).inTurn 0 1 = true ∧ (Table.get? (family toStop).tasks placedTask).isSome = true ∧
      ∀ e ∈ descendants (family toStop) Config.poolBase, e ≠ placedTask) ∧
    (Table.get? (family toDrop).tasks Config.poolBase = some (childTask toDrop) ∧ (childTask toDrop).state = .armed ∧
      ∀ e ∈ descendants (family toDrop) Config.poolBase, e ≠ placedTask) ∧
    (Table.get? (family ended).tasks Config.poolBase = some (childTask ended) ∧ unwound (family ended) Config.poolBase = true ∧
      (childTask ended).restarting = false ∧ ∀ e ∈ membersOf (family ended) Config.poolBase, e.1 = Config.poolBase) := by
  refine ⟨?_, ?_, ?_, ?_⟩ <;> decide +kernel

/-- The 100 units go to the parent with status OK; a stopped child's units are in the sum; one that waited is gone; an ended
unwinding returns its sum with its status (R184, R186, R187, R189). -/
theorem test_task_ends :
    gives (exec (.drainingComplete Config.poolBase) (family draining)) (fun t => t.msgs.map Msg.kind = [.ret 100 0] &&
      (Table.get? t.tasks Config.poolBase).map Task.state = some .done) ∧
    gives (exec (.unwindOrder Config.poolBase) (family toStop)) (fun t => (Table.get? t.tasks placedTask).map Task.sum = some 100 &&
      (Table.get? t.tasks Config.poolBase).map (fun x => (x.state, x.stopped)) = some (.unwinding, true)) ∧
    gives (exec (.unwindOrder Config.poolBase) (family toDrop)) (fun t => (Table.get? t.tasks Config.poolBase).isNone &&
      (Table.get? t.tasks placedTask).map Task.sum = some 100) ∧
    gives (exec (.unwindingComplete Config.poolBase) (family ended)) (fun t => t.msgs.map Msg.kind = [.ret 60 7]) := by decide +kernel

/-- Two splits, the first alone in a frame that it called from the root. -/
def leavesFrame : State := onG (fun g => { g with splits := g.splits.flatMap (fun sp =>
  [{ sp with mask := 0xFFFF }, { sp with mask := 0xFFFF0000, frame := 0, pc := 0x10020 }]) }) inCall

theorem test_witness_ExitYieldTake_frame : Ready .done (view leavesFrame) leavesFrame ∧ (view leavesFrame).fr = 3 ∧
    ({ (view leavesFrame).group with splits := dropAt (view leavesFrame).group.splits (view leavesFrame).sel.idx } : Group).claims
      (view leavesFrame).fr = 0 ∧ (view leavesFrame).group.splits.length = 2 ∧ (view leavesFrame).group.handler = false := by decide +kernel

/-- DONE of a frame's last split frees it, its generation one higher (R29, R127). -/
theorem test_exit_frame : gives (exec .done leavesFrame) (fun t => after (.next t) (fun g => (Table.get? g.frames 3).isNone &&
    (Table.get? g.frames 0).isSome) && (t.core 0).sgenOf 3 = (leavesFrame.core 0).sgenOf 3 + 1) = true := by decide +kernel

/-- A ready child that depends on nothing; a waiting one. -/
def startable : Task → Task := fun t => { t with state := .ready, resident := true, dep := 0, prio := 3, tiles := 0, accs := 0, egran := 2, groups := 1 }
def unplaced : Task → Task := fun t => { t with state := .ready, dep := 0 }

theorem test_witness_CrewStarts :
    (queueHead (family startable) 0 = some (Config.poolBase, childTask startable) ∧ (childTask startable).state = .ready ∧
      ((family startable).core 0).inReset = false ∧ setFits (family startable) 0 (childTask startable).ctx = true ∧
      (allot (family startable) 0 (List.range 2) (2 * 2 + chanGranules (templateChans (List.replicate 0x48 0 ++ (childTask startable).chanBytes)))
        2 0 0).isSome = true) ∧
    (residents (family unplaced) 0 < 64 ∧ firstBy earlier (waitingTasks (family unplaced) 0) = some (Config.poolBase, childTask unplaced) ∧
      Table.get? (family unplaced).tasks Config.poolBase = some (childTask unplaced)) := by
  refine ⟨?_, ?_⟩ <;> decide +kernel

/-- A crew of two groups starts in the lowest free slots of sides 0 and 1, with s1 at the argument block and p15 all ones
(R23, R111, R175). -/
theorem test_crew_start : gives (exec (.crewStart 0) (family startable)) (fun t =>
      (Table.get? t.tasks Config.poolBase).map Task.state = some .running && (match t.group? 0 2, t.group? 0 1 with
        | some a, some b => a.gid = 0 && b.gid = 1 && a.sval 0 1 = BitVec.ofNat 64 (Config.poolBase + 128) && b.pval 15 = 0xFFFFFFFF &&
          b.pval 0 = 0 && a.mb = 256 && a.splits.map Split.mask = [0xFFFFFFFF]
        | _, _ => false)) ∧
    gives (exec (.taskResident 0) (family unplaced)) (fun t => (Table.get? t.tasks Config.poolBase).map Task.resident = some true) := by
  decide +kernel

/-- The running task under a pre-emption request, its split stopped at SAFE 7, or waiting 65,536 cycles in vain; the task
saved, and one of its sweep tiles closed. -/
def stopping : State := onT (fun t => { t with request := some 0 }) (onS (fun sp => { sp with stop := .safe 7 }) rig)
def late : State := { onT (fun t => { t with request := some 0 }) rig with tick := 65536 }
def savedGroup : SavedGroup := ⟨(view rig).group, 0, 0, 0, false, (0, 0, 0, 0), [], [], [], [], false⟩
def savedTask : Task := { placedRoot with state := .preempted, saved := [savedGroup] }
/-- Its image as a save leaves it in memory is all zeros here, or has state code 6 in its one entry. -/
def preempted : State := { onC (fun k => { k with groups := [] }) rig with tasks := [(placedTask, savedTask)], mem := [] }
def codeSix : State := { preempted with mem := [(areaPhys (imageOf placedTask) + (256 + 143), 6)] }
/-- A save that has begun, forced or not, with all landed. -/
def beginning (forced : Bool) : State := onT (fun t => { t with request := some 0, saving := some forced }) rig
def closedTile : TileRec := ⟨4, 0, 0, none, List.replicate 7 none, 0, true, false⟩
def tileRig : State := onT (fun t => { t with tilerecs := [closedTile] }) rig

theorem test_witness_Saves :
    ((Table.get? stopping.tasks placedTask).map (fun x => (x.state, x.request)) = some (.running, some 0) ∧
      (Table.get? stopping.tasks placedTask).map Task.saving = some none ∧ crewSafe stopping placedTask = true) ∧
    ((Table.get? late.tasks placedTask).map (fun x => (x.state, x.request, x.place)) = some (.running, some 0, 0) ∧ 0 + 65536 ≤ late.cyc 0 ∧
      crewSafe late placedTask = false) ∧
    (∀ f, (Table.get? (beginning f).tasks placedTask).map (fun x => (x.state, x.saving)) = some (.running, some f) ∧
      crewLanded (beginning f) placedTask = true ∧ crewOf (beginning f) placedTask ≠ []) ∧
    (queueHead preempted 0 = some (placedTask, savedTask) ∧ (preempted.core 0).inReset = false ∧ setFits preempted 0 0 = true ∧
      residents preempted 0 < 64 ∧ imageSound preempted placedTask savedTask = true ∧
      (∀ sp ∈ savedGroup.group.entries, withdrawnWait sp.wait = false) ∧ (Table.keys savedGroup.group.frames).Nodup ∧
      (allot preempted 0 [0] ((view rig).group.granules + chanGranules savedTask.chans) (view rig).group.frames.length
        (view rig).group.tiles.length (view rig).group.accs.length).isSome = true) ∧
    ((Table.get? tileRig.tasks placedTask).map Task.tilerecs = some [closedTile] ∧ closedTile.closed = true ∧ closedTile.ops = 0) := by
  refine ⟨?_, ?_, ?_, ?_, ?_⟩ <;> decide +kernel

/-- Dwords put into memory from an address on. -/
def dwords (m : List Host.Cell) (pa : Nat) : List Nat → List Host.Cell
  | [] => m
  | x :: xs => dwords (Memory.putAll m (cellsOf pa 8 x)) (pa + 8) xs

/-- The image in memory has a poisoned unit. -/
def imagePoisoned : State := { preempted with poison := [areaPhys (imageOf placedTask) / 64] }
/-- The context's stamp buffer of `n` places in the data page, with given counters, and the tile closed with an event. -/
def stamped (n : Nat) (header : List Nat) : State :=
  { onH (fun h => { h with ctxs := [(0, { placedCtx with sbuf := 0x30000, ssize := n })] })
      (onT (fun t => { t with tilerecs := [{ closedTile with taken := 3, coord := 9, events := some 10 :: List.replicate 6 none }] }) rig) with
    mem := dwords rig.mem 0x30000 header }

/-- An area's first unit lies in it, whichever place it has. -/
theorem poisonIn_first (s : State) (n len : Nat) (h : s.poison = [areaPhys n / 64]) (hl : 0 < len) : s.poisonIn (areaPhys n) len = true := by
  simp [State.poisonIn, h]
  omega

theorem test_witness_Saves_poison : savedTask.saved.length ≤ 16 ∧ 0 < savedTask.imageBytes.length ∧
    imagePoisoned.poisonIn (areaPhys (imageOf placedTask)) savedTask.imageBytes.length = true ∧
    preempted.poisonIn (areaPhys (imageOf placedTask)) savedTask.imageBytes.length = false := by
  have h : 0 < savedTask.imageBytes.length := by
    have h1 : savedTask.imageBytes.getD 0 0 = 1 := by decide +kernel
    cases h2 : savedTask.imageBytes with
    | nil => rw [h2] at h1; cases h1
    | cons x xs => exact Nat.succ_pos _
  exact ⟨by decide, h, poisonIn_first _ _ _ rfl h, rfl⟩

/-- What `BufferLaid` says, as tests. -/
theorem bufferLaid_of (s : State) (n : Nat) (h : ∀ k, k < 64 * (1 + n) → physOf s 0 0 (0x30000 + k) Need.load = some (0x30000 + k) ∧
    physOf s 0 0 (0x30000 + k) Need.store = some (0x30000 + k)) (hn : n ≤ 64) :
    BufferLaid s 0 0 0x30000 n (fun k => 0x30000 + k) :=
  ⟨fun k hk => (h k hk).1, fun k hk => (h k hk).2, fun k hk => by have : Config.mereBase = 0xF000000000000 := rfl; omega,
    fun j k _ _ hjk => by omega⟩

theorem test_witness_Saves_stamp :
    (∀ e ∈ [(2, [5, 4]), (2, [6, 4]), (0, [0, 0])], (Table.get? (stamped e.1 e.2).tasks placedTask).map (fun x =>
        x.tilerecs.map (fun r => (r.number, r.closed, r.ops))) = some [(4, true, 0)] ∧
      (Table.get? (stamped e.1 e.2).hub.ctxs 0).map (fun c => (c.sbuf, c.ssize)) = some (0x30000, e.1)) ∧
    BufferLaid (stamped 2 [5, 4]) 0 0 0x30000 2 (fun k => 0x30000 + k) ∧ BufferLaid (stamped 0 [0, 0]) 0 0 0x30000 0 (fun k => 0x30000 + k) := by
  refine ⟨?_, bufferLaid_of _ _ ?_ ?_, bufferLaid_of _ _ ?_ ?_⟩ <;> decide +kernel

/-- The record goes to place 5 mod 2 with the gap of its event, sequence number 5 and `next` 6; with the buffer full, or of
size 0, `lost` is 1 (R308, R309). -/
theorem test_stamps : gives (exec (.stampRecordWrite placedTask 4) (stamped 2 [5, 4])) (fun t => wordAt t.mem 0x30080 8 = 3 &&
      wordAt t.mem 0x30088 4 = 7 && wordAt t.mem 0x300A4 8 = 9 && wordAt t.mem 0x300B8 4 = 1 && wordAt t.mem 0x300BC 4 = 5 &&
      wordAt t.mem 0x30000 8 = 6) ∧
    gives (exec (.stampRecordWrite placedTask 4) (stamped 2 [6, 4])) (fun t => wordAt t.mem 0x30010 8 = 1 && wordAt t.mem 0x30000 8 = 6) ∧
    gives (exec (.stampRecordWrite placedTask 4) (stamped 0 [0, 0])) (fun t => wordAt t.mem 0x30010 8 = 1) := by decide +kernel

theorem test_witness_Saves_unsound : imageSound codeSix placedTask savedTask = false ∧ queueHead codeSix 0 = some (placedTask, savedTask) := by
  refine ⟨?_, by decide +kernel⟩
  have h : blocksFrom (256 + recordsLength (savedTask.chans.flatMap (fun e => e.2.full))) savedTask.saved = [(256, savedGroup)] := by decide +kernel
  have h2 : savedGroup.codes 256 = [256 + 143] := by decide +kernel
  simp [imageSound, h, h2, codeSix, Memory.get]

/-- The saved task is PREEMPTED with its slots free; a restore gives the registers back; a closed tile leaves (R293, R297,
R308). -/
theorem test_saves : gives (exec (.crewRestore 0) preempted) (fun t => (Table.get? t.tasks placedTask).map Task.state = some .running &&
      after (.next t) (fun g => g.sval 0 1 = 0x30000 && laneAt (g.lanes 0 120) 31 = 31 && g.splits.map Split.pc = [0x10000])) ∧
    gives (exec (.stampRecordWrite placedTask 4) tileRig) (fun t => (Table.get? t.tasks placedTask).map Task.tilerecs = some []) := by
  decide +kernel

theorem test_witness_NopOnlyIssues : 0 < 2 ^ 25 - 1 ∧ Ready .nop (view rig) rig := by decide +kernel

theorem test_witness_SpecialRegisters : WellFormed (.mfs 63 17) ∧ Ready (.mfs 63 17) (view rig) rig ∧ WellFormed (.mts 0 8) ∧
    Ready (.mts 0 8) (view rig) rig ∧ rig.view? = some (view rig) ∧ HasHandler (view rig) ∧
    (0xE0000000 + 127 * 2 ^ 18 + 18 * 2 ^ 11 : Nat) = 0x70 * 2 ^ 25 + 127 * 2 ^ 18 + 18 * 2 ^ 11 := by decide +kernel

/-- MFS of tid and mb; MTS to fcr, and to a read-only register; sat is cleared by a 1 (R24 to R26). -/
theorem test_special_registers : after (exec (.mfs 40 10) rig) (fun g => g.sval 0 40 = 0x20000) ∧
    after (exec (.mfs 40 14) rig) (fun g => g.sval 0 40 = 256) ∧ after (exec (.mts 4 6) rig) (fun g => g.fcr = 3) ∧
    after (exec (.mts 5 8) rig) (fun g => g.tvb = 0xFFFFFFFFFFFF00) ∧ after (exec (.mts 6 6) rig) (fun g => g.tca = 0) ∧
    after (exec (.mts 2 6) (onG (fun g => { g with sat := true }) rig)) (fun g => !g.sat) ∧
    after (exec (.mts 2 7) (onG (fun g => { g with sat := true }) rig)) (fun g => g.sat) := by decide +kernel

/-- The group in handler mode: the handler's split and a frozen one. -/
def handling : State := onG (fun g => { g with handler := true, tpc := 0x10044 })
  (onS (fun sp => { sp with inHandler := true }) (twoSplits (fun sp => { sp with state := .frozen, pc := 0x10020 })))
/-- The group without a handler. -/
def handlerless : State := onG (fun g => { g with tvb := 0 }) rig

theorem test_witness_TrapsAndReturns : (Ready (.trap 5) (view rig) rig ∧ (view rig).group.tvb ≠ 0) ∧
    (Ready (.brk 5) (view handlerless) handlerless ∧ (view handlerless).group.tvb = 0) ∧
    (Ready .eret (view rig) rig ∧ (view rig).group.handler = false ∧ ∀ sp ∈ (view rig).group.entries, sp.state ≠ .meet) ∧
    (Ready .eret (view handling) handling ∧ (view handling).group.handler = true ∧ (view handling).split.inHandler = true ∧
      ∀ sp ∈ (view handling).group.entries, sp.state ≠ .meet) := by decide +kernel

/-- TRAP 5: cause 11, tpc PC + 4, the word 0xE2000005; BRK without a handler unwinds with CANCELLED; ERET thaws the frozen split
(R87, R88, R277). -/
theorem test_traps : after (exec (.trap 5) rig) (fun g => g.tca = 11 && g.tpc = 0x10004 && g.tval = 0xE2000005 && g.handler &&
      g.splits.map Split.pc = [0x100B0]) ∧
    gives (exec (.brk 5) handlerless) (fun t => (Table.get? t.tasks placedTask).map (fun x => (x.state, x.xstat, x.xcause)) =
      some (.unwinding, 7, 10)) ∧
    after (exec .eret handling) (fun g => !g.handler && g.splits.map (fun sp => (sp.pc, sp.state)) = [(0x10044, .ready), (0x10020, .ready)]) := by
  decide +kernel

/-- A split that waits in WAITC, with nothing outstanding; a crew with an open capture window and its set loaded. -/
def waitcRig : State := onS (fun sp => { sp with state := .waitc, wait := .waitc 0 15 15 15 }) rig
def ctrSet : CtrSet := ⟨List.replicate 16 9, 0, List.replicate 16 0, List.replicate 16 0, List.replicate 7 0, List.replicate 8 0, List.replicate 16 0⟩
def capturing : State := onC (fun k => { k with sets := [(0, ctrSet)] }) (onH (fun h => { h with ctxs := [(0, { placedCtx with capture := some 0 })] }) rig)

theorem test_witness_WaitsAndHints :
    (Ready (.waitc 0 0 0 0) (view rig) rig ∧ groupCounters (view rig).core (view rig).sel.slot (view rig).group = (0, 0, 0, 0)) ∧
    (Ready (.waitc 15 0 15 15) (view storing) storing ∧
      withinLimits (view storing).core (view storing).sel.slot (view storing).group 15 0 15 15 = false) ∧
    ((waitcRig.group? 0 0).map (fun g => (g.entries.map Split.wait, withinLimits (waitcRig.core 0) 0 g 0 15 15 15)) =
      some ([.waitc 0 15 15 15], true)) ∧
    (Ready (.safe 7) (view rig) rig ∧ (view rig).task.request = none) ∧
    (Ready (.safe 7) (view late) late ∧ (view late).task.request ≠ none) ∧
    (Ready (.ipf 64) (view rig) rig ∧ (codePage rig (view rig).task.asid ((view rig).target (64 : BitVec 18)).toNat).map
      (fun p => (p.x, p.res)) = some (true, true) ∧ (view rig).core.hasLine (view rig).task.asid (((view rig).target (64 : BitVec 18)).toNat / 256) = false) ∧
    (Ready (.ipf 0) (view rig) rig ∧ (view rig).core.hasLine (view rig).task.asid (((view rig).target (0 : BitVec 18)).toNat / 256) = true) ∧
    (Ready (.rdctr 40 15) (view capturing) capturing ∧ (Table.get? capturing.hub.ctxs 0).bind Ctx.capture = some 0 ∧
      Table.get? (view capturing).core.sets 0 = some ctrSet) := by
  refine ⟨?_, ?_, ?_, ?_, ?_, ?_, ?_, ?_⟩ <;> decide +kernel

/-- WAITC waits at its PC on an outstanding store, and goes on; SAFE stops under a request; IPF asks for a block; RDCTR reads
a counter (R89, R92, R289, R314). -/
theorem test_waits : after (exec (.waitc 15 0 15 15) storing) (fun g => g.splits.map (fun sp => (sp.pc, sp.state)) = [(0x10000, .waitc)]) ∧
    after (exec (.waitcResume 0 0 0) waitcRig) (fun g => g.splits.map (fun sp => (sp.pc, sp.state)) = [(0x10004, .ready)]) ∧
    after (exec (.safe 7) late) (fun g => g.splits.map Split.stop = [.safe 7]) ∧
    gives (exec (.ipf 64) rig) (fun t => (t.core 0).fills = [(0, 0x101)]) ∧
    after (exec (.rdctr 40 15) capturing) (fun g => g.sval 0 40 = 9) := by decide +kernel

/-- A context with debug rights and a stop on entry to region 5. -/
def debugged : State := onH (fun h => { h with ctxs := [(0, { placedCtx with debug := true, stops := [⟨5, true, false⟩] })] }) rig
def inRegion (n : Nat) : State := onS (fun sp => { sp with ptop := n }) (onG (fun g => { g with pennants := [(0, 9)] }) rig)

theorem test_witness_Regions :
    (Ready (.enter 5) (view rig) rig ∧ (view rig).split.ptop ≠ 256) ∧ (Ready .leave (view (inRegion 1)) (inRegion 1) ∧ (view (inRegion 1)).split.ptop ≠ 0) ∧
    (Ready (.enter 5) (view debugged) debugged ∧ (Table.get? debugged.hub.ctxs (view debugged).task.ctx).map
      (fun cx => (cx.debug, cx.stops)) = some (true, [⟨5, true, false⟩])) ∧
    (Ready (.enter 5) (view (inRegion 256)) (inRegion 256) ∧ (view (inRegion 256)).split.ptop = 256 ∧ HasHandler (view (inRegion 256))) ∧
    (Ready .leave (view rig) rig ∧ (view rig).split.ptop = 0 ∧ HasHandler (view rig)) := by
  refine ⟨?_, ?_, ?_, ?_, ?_⟩ <;> decide +kernel

/-- Without debug rights no stop stands. -/
theorem noStop_of {s : State} {v : View} (r : BitVec 24) (e : Bool) (h : Table.get? s.hub.ctxs v.task.ctx = some placedCtx) :
    NoStop v s r e := by
  intro cx hc hd
  rw [h] at hc
  cases hc
  exact absurd hd (by decide)

theorem test_witness_Regions_stop : NoStop (view rig) rig 5 true ∧ NoStop (view (inRegion 1)) (inRegion 1) 9 false := by
  refine ⟨noStop_of _ _ ?_, noStop_of _ _ ?_⟩ <;> decide +kernel

/-- ENTER and LEAVE move the top; a full stack and an empty one trap with cause 13; a stop halts the group (R302, R304, R315). -/
theorem test_regions : after (exec (.enter 5) (inRegion 1)) (fun g => g.splits.map Split.ptop = [2] && Table.getD g.pennants 1 0 = 5) ∧
    after (exec .leave (inRegion 1)) (fun g => g.splits.map Split.ptop = [0]) ∧
    after (exec (.enter 5) (inRegion 256)) (fun g => g.tca = 13 && g.tval = 0xF0000005) ∧
    after (exec .leave rig) (fun g => g.tca = 13 && g.tval = 0xF2000000) ∧
    gives (exec (.enter 5) debugged) (fun t => t.hub.events.map Event.kind = [7] && after (.next t) (fun g => g.halted)) := by decide +kernel

/-- A metered task with 3 units. -/
def poor (park : Bool) : State := onT (fun t => { t with alw := 3, park := park }) rig

theorem test_witness_Exhaustion : Instr.isEncoded (.div 40 8 6) = true ∧ (poor true).view? = some (view (poor true)) ∧
    shapeTrap (view (poor true)) (.div 40 8 6) = none ∧ matrixDelivery (view (poor true)) (.div 40 8 6) = none ∧
    poisonDelivery (view (poor true)) (.div 40 8 6) = none ∧ heldBack ((poor true).core (view (poor true)).sel.core) (view (poor true)) (.div 40 8 6) = false ∧
    engineWaits (view (poor true)) (.div 40 8 6) = false ∧ frameDemand (view (poor true)) (.div 40 8 6) = none ∧
    (view (poor true)).split.paid = none ∧ (view (poor true)).task.short (costOf (view (poor true)) (.div 40 8 6)) = true := by
  decide +kernel

/-- DIV costs 4 of 3: STARVED under PARK, EXHAUSTED under UNWIND; ADD costs 1 (R31, R33, R39). -/
theorem test_exhaustion : gives (exec (.div 40 8 6) (poor true)) (fun t => (Table.get? t.tasks placedTask).map
      (fun x => (x.state, x.alw, x.xcause, x.xval)) = some (.starved, 3, 1, 4)) ∧
    gives (exec (.div 40 8 6) (poor false)) (fun t => (Table.get? t.tasks placedTask).map (fun x => (x.state, x.xstat)) = some (.unwinding, 4)) ∧
    gives (exec (.add 40 8 6) (poor true)) (fun t => (Table.get? t.tasks placedTask).map (fun x => (x.state, x.alw)) = some (.running, 2)) := by
  decide +kernel

/-- A stack of 16 and of 17, the area's page resident; the same with it absent; a debug stop on leaving region 9. -/
def deep (n : Nat) : State := onS (fun sp => { sp with ptop := n }) (onG (fun g => { g with
  pennants := (List.range n).map (fun k => (k, BitVec.ofNat 24 (k + 9))) }) rig)
def pennantsGone (n : Nat) : State := onH (fun h => { h with areas := [(pennantAreaOf 0 0, .absent)] }) (deep n)
def leaveStop : State := onH (fun h => { h with ctxs := [(0, { placedCtx with debug := true, stops := [⟨9, false, true⟩] })] }) (inRegion 1)

theorem test_witness_Regions_deep :
    (Ready (.enter 5) (view (deep 16)) (deep 16) ∧ (view (deep 16)).split.ptop = 16 ∧ NoStop (view (deep 16)) (deep 16) 5 true ∧
      (deep 16).areaState (pennantAreaOf 0 0) = none) ∧
    (Ready .leave (view (deep 17)) (deep 17) ∧ (view (deep 17)).split.ptop = 17 ∧
      NoStop (view (deep 17)) (deep 17) (Table.getD (view (deep 17)).group.pennants 16 0) false ∧
      (deep 17).areaState (pennantAreaOf 0 0) = none) ∧
    (Ready (.enter 5) (view (pennantsGone 16)) (pennantsGone 16) ∧ (pennantsGone 16).areaState (pennantAreaOf 0 0) = some .absent) ∧
    (Ready .leave (view (pennantsGone 17)) (pennantsGone 17) ∧ (pennantsGone 17).areaState (pennantAreaOf 0 0) = some .absent) ∧
    (Ready .leave (view leaveStop) leaveStop ∧ (view leaveStop).split.ptop = 1 ∧ (Table.get? leaveStop.hub.ctxs
      (view leaveStop).task.ctx).map (fun cx => (cx.debug, cx.stops)) = some (true, [⟨9, false, true⟩])) := by
  refine ⟨⟨?_, ?_, noStop_of _ _ ?_, ?_⟩, ⟨?_, ?_, noStop_of _ _ ?_, ?_⟩, ?_, ?_, ?_⟩ <;>
    decide +kernel

/-- A held ENTER is debited and stands at its PC (R126, R303). -/
theorem test_regions_held : after (exec (.enter 5) (pennantsGone 16)) (fun g => g.stall && g.splits.map (fun sp => (sp.pc, sp.ptop)) =
    [(0x10000, 16)]) = true := by decide +kernel

theorem test_witness_WaitsAndHints_closed : Ready (.rdctr 40 15) (view rig) rig ∧
    (Table.get? rig.hub.ctxs (view rig).task.ctx).map Ctx.capture = some none := by decide +kernel

/-! Steps of the core and of the hub. -/

/-- The placed device before any choice: its only move is the issue of the word at its PC. -/
theorem test_witness_StepRunsDecoded : urgent (State.reset.withFetchWord 32 0x02041820) = none ∧
    (choose (State.reset.withFetchWord 32 0x02041820)).1 = .issue [[⟨0, 0, 0⟩]] ∧
    ((choose (State.reset.withFetchWord 32 0x02041820)).2.chosen ⟨0, 0, 0⟩).view?.isSome = true ∧
    (codePage (State.reset.withFetchWord 32 0x02041820) 0 0x10000).map (placedCore 0x02041820).unseen = some false ∧
    (codePage (State.reset.withFetchWord 32 0x02041820) 0 0x10000).map Page.x = some true ∧
    ((placedCore 0x02041820).line 0 0x10000).map (fun l => (l.wordAt 0x10000, l.poison.getD 0 false)) = some (0x02041820, false) ∧
    decodeWord 0x02041820 = some (.add 1 3 2) := by decide +kernel

/-- From power-on the one move is BRING_UP, a row of the table; a code page without the right X, and none at all. -/
theorem test_witness_StepRunsDecoded_others : urgent State.reset = none ∧ (choose State.reset).1 = .row .bringUp ∧
    (choose ((State.reset.withFetchWord 32 0).modHub (fun h => { h with pages := [] }))).1 = .issue [[⟨0, 0, 0⟩]] ∧
    codePage ((State.reset.withFetchWord 32 0).modHub (fun h => { h with pages := [] })) 0 0x10000 = none ∧
    (choose ((State.reset.withFetchWord 32 0).modHub (fun h => { h with pages := [⟨0, 0x10000, 0, true, true, false, false, true, 0x10000, none, 0⟩] }))).1 =
      .issue [[⟨0, 0, 0⟩]] := by decide +kernel

/-- A step of the placed word ADDI s40, s0, −5 (opcode 0x10) leaves −5 in s40 and the PC at the next word. -/
theorem test_step_runs_word : after (step (State.reset.withFetchWord 32 (0x10 * 2 ^ 25 + 40 * 2 ^ 18 + 0x7FB))) (fun g =>
    g.sval 0 40 = 0xFFFFFFFFFFFFFFFB && g.splits.map Split.pc = [0x10004]) = true := by decide +kernel

/-- Two splits of one group, lanes 0 to 15 at a first word and lanes 16 to 31 at a second, both able to issue. -/
def pair (w1 w2 : Nat) : State := onC (fun k => { k with ilines := [⟨0, placedAt / 256,
  leBytes 4 w1 ++ List.replicate 28 0 ++ leBytes 4 w2 ++ List.replicate 220 0, List.replicate 64 false⟩] }) apart
/-- The word of ADDI sd, sa, imm (opcode 0x10). -/
def addiWord (d a imm : Nat) : Nat := 0x10 * 2 ^ 25 + d * 2 ^ 18 + a * 2 ^ 11 + imm

/-- They issue in one cycle, and each reads the scalars as the cycle found them: s6 and s10 change places (R61, R132). -/
theorem test_shared_cycle_swaps : issueChoices (pair (addiWord 6 10 0) (addiWord 10 6 0)) = [[[⟨0, 0, 0⟩, ⟨0, 0, 1⟩]]] ∧
    after (runTogether [⟨0, 0, 0⟩, ⟨0, 0, 1⟩] (pair (addiWord 6 10 0) (addiWord 10 6 0))) (fun g =>
      g.sval 0 6 = (view rig).rs 10 && g.sval 0 10 = 7 && g.splits.map Split.pc = [0x10004, 0x10024]) = true := by
  decide +kernel

/-- Of two writes of s10 the lower lane's stays (R61); where the second split traps, the first has not issued (R54). -/
theorem test_shared_cycle_first_wins : after (runTogether [⟨0, 0, 0⟩, ⟨0, 0, 1⟩] (pair (addiWord 10 0 1) (addiWord 10 0 2)))
      (fun g => g.sval 0 10 = 1 && g.splits.map Split.pc = [0x10004, 0x10024]) = true ∧
    after (runTogether [⟨0, 0, 0⟩, ⟨0, 0, 1⟩] (pair (addiWord 10 0 1) 0)) (fun g =>
      g.sval 0 10 = (view rig).rs 10 && g.splits.map Split.pc = [0x10000, 0x10000] && g.tpc = 0x10020 && g.handler &&
      g.splits.map Split.state = [.frozen, .ready]) = true := by
  decide +kernel

/-- An urgent step: a task of the pool waits for a place. -/
theorem test_witness_StepRunsDecoded_urgent : (urgent (family unplaced)).isSome = true := by decide +kernel

theorem test_witness_MemoryCanonical : Memory.wf stocked.mem = true ∧
    gives (step { stocked with cur := none }) (fun t => Memory.wf t.mem) = true := by decide +kernel

/-- A split whose MEET has run out; two splits at one PC; a spilled entry; eight places of side 0 taken by groups without a
ready split; a block asked for. -/
def expired : State := { twoSplits (fun sp => { sp with state := .meet, meet := 0x10010, mrem := 2 }) with tick := 2 }
def samePc : State := twoSplits id
def spilledSplit : Split := { (view rig).split with mask := 1, pc := 0x10080, state := .parked }
def spilling : State := onG (fun g => { g with spilled := [spilledSplit], opps := 1024 }) rig
def asking : State := onC (fun k => { k with active := [] }) rig
def crowded : State := onC (fun k => { k with active := (List.range 8).map (fun n => (2 * n + 2, 0)) }) { rig with tick := 5 }
def filling : State := onC (fun k => { k with fills := [(0, 0x101)] }) { rig with mem := [(0x10100, 7)] }

theorem test_witness_CoreSteps :
    ((expired.group? 0 0).map (fun g => (g.splits.map Split.state, g.splits.map Split.mrem)) = some ([.ready, .meet], [0, 2]) ∧
      2 ≤ expired.cyc 0 - 0 ∧ (expired.group? 0 0).map (fun g => g.entries.any (fun y => g.ofOrigin 0 y && decide (y.state = .ready))) = some true) ∧
    ((samePc.group? 0 0).map (fun g => (g.splits.map Split.pc, canFuse (g.splits.getD 0 noSplit) (g.splits.getD 1 noSplit), g.entries.map Split.state)) =
      some ([0x10000, 0x10000], true, [.ready, .ready])) ∧
    ((spilling.group? 0 0).map (fun g => (decide (g.splits.length < 8), g.spilled, g.opps)) = some (true, [] ++ [spilledSplit], 1024)) ∧
    ((waitingGroups (asking.core 0)).find? (fun x => decide (x % 2 = 0)) = some 0 ∧ asking.cyc 0 = 0 ∧ (asking.core 0).active = []) ∧
    ((waitingGroups (crowded.core 0)).find? (fun x => decide (x % 2 = 0)) = some 0 ∧ crowded.cyc 0 = 5 ∧
      (∀ a ∈ (crowded.core 0).active, a.2 ≠ 5) ∧
      8 ≤ ((crowded.core 0).active.filter (fun a => decide (a.1 % 2 = 0))).length ∧
      ((crowded.core 0).active.filter (fun a => decide (a.1 % 2 = 0))).find? (fun a => match Table.get? (crowded.core 0).groups a.1 with
        | some g => !g.anyReady
        | none => true) = some (2, 0)) ∧
    ((filling.core 0).fills[0]? = some (0, 0x101) ∧ (codePage filling 0 (0x101 * 256)).map (fun p => (p.x, p.res, p.pa, p.va)) =
      some (true, true, 0x10000, 0x10000)) := by
  refine ⟨?_, ?_, ?_, ?_, ?_, ?_⟩ <;> decide +kernel

/-- The expired split goes on alone; two splits fuse; the spilled entry comes back at the old end, or rotates in; a place is
taken, or given up by slot 2; the block comes in (R120, R121, R124, R125, R130, R134). -/
theorem test_core_steps :
    after (exec (.meetBoundExpiry 0 0 1) expired) (fun g => g.splits.map (fun sp => (sp.pc, sp.state)) = [(0x10000, .ready), (0x10014, .ready)]) ∧
    after (exec (.splitFusion 0 0 0 1) samePc) (fun g => g.splits.map Split.mask = [0xFFFFFFFF]) ∧
    after (exec (.splitRefill 0 0) spilling) (fun g => g.splits.map Split.pc = [0x10080, 0x10000] && g.spilled.isEmpty) ∧
    after (exec (.splitRotation 0 0) spilling) (fun g => g.splits.map Split.pc = [0x10080] && g.spilled.map Split.pc = [0x10000]) ∧
    gives (exec (.activeSetAdmit 0 0) asking) (fun t => (t.core 0).active = [(0, 0)]) ∧
    gives (exec (.activeSetAdmit 0 0) crowded) (fun t => (t.core 0).active = ((List.range 7).map (fun n => (2 * n + 4, 0))) ++ [(0, 5)]) ∧
    gives (exec (.icacheLineFill 0 0) filling) (fun t => ((t.core 0).line 0 0x10100).map (fun l => l.bytes.getD 0 0) = some 7) := by
  decide +kernel

/-- Two waiters of an inner origin whose third member fuses with a split outside merge at once (R116, R118, R121). -/
theorem test_fusion_completes_merge : after (exec (.splitFusion 0 0 2 3) (onG (fun g => { g with
      origins := [(1, 0)]
      splits := g.splits.flatMap (fun sp => [{ sp with mask := 1, origin := 1, state := .meet, meet := 0x10010, mrem := 9 },
        { sp with mask := 2, origin := 1, state := .meet, meet := 0x10010, mrem := 9 }, { sp with mask := 4, origin := 1 },
        { sp with mask := 8 }]) }) rig)) (fun g => g.origins.isEmpty &&
    g.splits.map (fun sp => (sp.mask, sp.pc, sp.state)) = [(3, 0x10014, .ready), (12, 0x10000, .ready)]) = true := by decide +kernel

/-- The spill area's page of a group that could refill and rotate is not resident; eight ready groups, slot 2's the first of
them, hold the places of side 0 longer than any need; the cache is full; the placed word is poisoned. -/
def noArea : State := onH (fun h => { h with areas := [(splitAreaOf 0 0, .absent)] }) spilling
def allReady : State := onC (fun k => { k with
  groups := (0, placedGroup) :: (List.range 8).map (fun n => (2 * n + 2, placedGroup))
  active := (List.range 8).map (fun n => (2 * n + 2, n)) }) { rig with tick := 2 ^ 20 }
def fullCache : State := onC (fun k => { k with ilines := List.replicate 512 (placedLine 0) }) filling
def poisonedWord : State := (State.reset.withFetchWord 32 0).modCore 0 (fun k => { k with
  ilines := k.ilines.map (fun l => { l with poison := List.replicate 64 true }) })

theorem test_witness_CoreSteps_held :
    (noArea.areaState (splitAreaOf 0 0) = some .absent ∧ (noArea.group? 0 0).map (fun g => (g.spilled, g.stall, decide (g.splits.length < 8),
      decide (g.refillAt ≤ noArea.cyc 0), g.opps)) = some ([spilledSplit], false, true, true, 1024)) ∧
    ((waitingGroups (allReady.core 0)).find? (fun x => decide (x % 2 = 0)) = some 0 ∧
      8 ≤ ((allReady.core 0).active.filter (fun a => decide (a.1 % 2 = 0))).length ∧
      (∀ a ∈ (allReady.core 0).active, a.1 % 2 = 0 → a.2 ≠ allReady.cyc 0 ∧ ((Table.get? (allReady.core 0).groups a.1).map Group.anyReady =
        some true) ∧ (a = (2, 0) ∨ 0 < a.2)) ∧ 0 + Config.activeHold ≤ allReady.cyc 0) ∧
    ((fullCache.core 0).ilines.length = 512 ∧ (fullCache.core 0).fills[0]? = some (0, 0x101)) ∧
    ((choose poisonedWord).1 = .issue [[⟨0, 0, 0⟩]] ∧ ((poisonedWord.core 0).line 0 0x10000).map (fun l => l.poison.getD 0 false) = some true) := by
  refine ⟨?_, ?_, ?_, ?_⟩ <;> decide +kernel

/-- The group is held, its table as it was; the group admitted first gives up its place (R126, R134). -/
theorem test_core_steps_held : after (exec (.splitRefill 0 0) noArea) (fun g => g.stall && g.spilled = [spilledSplit]) ∧
    gives (exec (.activeSetAdmit 0 0) allReady) (fun t => ((t.core 0).active.map Prod.fst) = [4, 6, 8, 10, 12, 14, 16, 0]) := by
  decide +kernel

/-- The group waits for a frame while nothing can issue; its frames are out, and what it needs is free. -/
def starvedOfFrames : State := onC (fun k => { k with requests := [⟨0, 0, .call 8 4, 1, true, 0⟩] })
  (onS (fun sp => { sp with state := .frame, wait := .frame }) rig)
def victim : Victim := ⟨0, [⟨0, 0, .call 8 4, 1, true, 0⟩], 0, 0, [(0, 1)]⟩
def outside : State := onC (fun k => { k with requests := [], victims := [victim] }) (onG (fun g => { g with out := true }) starvedOfFrames)

/-- A frame request that holds up the core; the victim has stopped; the area's page is not resident. -/
def leavingFrames : State := onC (fun k => { k with requests := [], victims := [victim] }) (onG (fun g => { g with leaving := true }) starvedOfFrames)
def frameAreaGone (s : State) : State := onH (fun h => { h with areas := [(frameAreaOf 0 0, .absent)] }) s

theorem test_witness_Escapes :
    ((starvedOfFrames.core 0).inReset = false ∧ escapeNeeded starvedOfFrames 0 = true ∧
      (∀ e ∈ (starvedOfFrames.core 0).groups, e.2.leaving = false) ∧ (escapeVictim starvedOfFrames 0).map Prod.fst = some 0 ∧
      (escapeVictim starvedOfFrames 0).map Prod.snd = starvedOfFrames.group? 0 0) ∧
    (((leavingFrames.core 0).groups.find? (fun e => e.2.leaving)).map Prod.fst = some 0 ∧
      ((leavingFrames.core 0).groups.find? (fun e => e.2.leaving)).map Prod.snd = leavingFrames.group? 0 0 ∧
      loadsLanded (leavingFrames.core 0) 0 true = true ∧ leavingFrames.areaState (frameAreaOf 0 0) = none ∧
      (leavingFrames.group? 0 0).map (fun g => (Table.keys g.frames, g.stall)) = some ([0], false)) ∧
    ((outside.core 0).victims.find? (mayRefill outside 0) = some victim ∧ outside.areaState (frameAreaOf 0 0) = none ∧
      (outside.group? 0 0).map (fun g => (Table.keys g.frames, g.stall, g.entries.map Split.wait)) = some ([0], false, [.frame])) ∧
    (frameAreaGone leavingFrames).areaState (frameAreaOf 0 0) = some .absent ∧
    ((frameAreaGone outside).areaState (frameAreaOf 0 0) = some .absent ∧
      ((frameAreaGone outside).core 0).victims.find? (mayRefill (frameAreaGone outside) 0) = some victim) := by
  refine ⟨?_, ?_, ?_, ?_, ?_⟩ <;> decide +kernel

/-- A unit of the victim's area is poisoned. -/
def areaPoisoned : State := { outside with poison := [areaPhys (frameAreaOf 0 0) / 64] }

theorem test_witness_Escapes_poison : (areaPoisoned.core 0).victims.find? (mayRefill areaPoisoned 0) = some victim ∧
    (∃ g, areaPoisoned.group? 0 0 = some g ∧ g.stall = false ∧
      areaPoisoned.poisonIn (areaPhys (frameAreaOf 0 0)) (frameAreaBytes g victim.gens).length = true) ∧
    ∃ g, outside.group? 0 0 = some g ∧ outside.poisonIn (areaPhys (frameAreaOf 0 0)) (frameAreaBytes g victim.gens).length = false := by
  refine ⟨by decide +kernel, ⟨group0 areaPoisoned, by decide +kernel, by decide +kernel, poisonIn_first _ _ _ rfl ?_⟩,
    group0 outside, by decide +kernel, rfl⟩
  decide +kernel

/-- The victim stops with its request kept; its generation advances as its frames leave; it comes back with its registers and
its request (R287, R288). -/
theorem test_escapes : gives (exec (.escapeSpill 0) starvedOfFrames) (fun t => (t.core 0).requests.isEmpty &&
      (t.core 0).victims.map (fun v => (v.slot, v.requests.length)) = [(0, 1)] && after (.next t) (fun g => g.leaving && !g.out)) ∧
    gives (exec (.escapeSpill 0) leavingFrames) (fun t => (t.core 0).sgenOf 0 = 1 && after (.next t) (fun g => g.out && !g.leaving)) ∧
    gives (exec (.escapeRefill 0) outside) (fun t => (t.core 0).requests.length = 1 && (t.core 0).victims.isEmpty &&
      after (.next t) (fun g => !g.out && g.sval 0 1 = 0x30000 && g.splits.map Split.state = [.frame])) ∧
    gives (exec (.escapeSpill 0) (frameAreaGone leavingFrames)) (fun t => (t.core 0).sgenOf 0 = 0 && after (.next t) (fun g => g.stall)) := by
  decide +kernel

/-! The hub. -/

/-- A packet of a kind with its completion word and payload. -/
def pkt (kind cw : Nat) (l : List Nat) : Packet :=
  let w := fun k => BitVec.ofNat 64 (l.getD k 0)
  ⟨BitVec.ofNat 64 (2 ^ 63 + kind), BitVec.ofNat 64 cw, w 0, w 1, w 2, w 3, w 4, w 5⟩
/-- A control block with a ring of two slots, a packet in slot 0. -/
def withRing (block base slot : Nat) (p : Packet) (s : State) : State := { s with
  mem := dwords (dwords s.mem block [base, 1]) slot (if p.slotWord = 0 then []
    else [p.slotWord, p.cw, p.w10, p.w18, p.w20, p.w28, p.w30, p.w38].map BitVec.toNat) }
/-- Queue 0 of context 0, its control block and its ring in host memory, and their heads. -/
def queue0 : Queue := ⟨0x70000, 0, 0, 3, false, 0, 0, false, some []⟩
def head0 : RingHead := ⟨Config.hostBase, Config.hostBase + 0x400, 0⟩
def queued (p : Packet) (s : State) : State :=
  withRing Config.hostBase 0x70400 (Config.hostBase + 0x400) p (onH (fun h => { h with queues := [(0, queue0)] }) s)
/-- The admin queue in host memory with a packet in slot 0, its head, its completion word. -/
def headA : RingHead := ⟨Config.hostBase + 0x800, Config.hostBase + 0xC00, 0⟩
def cwA : Nat := Config.hostBase + 0x100
def cwQ : Nat := 0x70100
def admin (p : Packet) (s : State) : State :=
  withRing (Config.hostBase + 0x800) (Config.hostBase + 0xC00) (Config.hostBase + 0xC00) p
    (onH (fun h => { h with admq := Config.hostBase + 0x800, aen := true }) s)

/-- What `PacketNext` says, as tests. -/
theorem packetNext_of (p : Packet) (kind : Nat) (s : State) (h : nextPacket s 0 = some (queue0, head0, p) ∧ p.kind = kind ∧
    p.slotWord.toNat % 2 ^ 63 / 256 = 0 ∧ cwGood s queue0 p.cw = true ∧ s.hub.isDying queue0.asid = false ∧ s.hub.ops = []) :
    PacketNext 0 p kind queue0 head0 s :=
  ⟨h.1, h.2.1, h.2.2.1, h.2.2.2.1, h.2.2.2.2.1, by decide, by rw [h.2.2.2.2.2]; simp⟩

/-- What `AdminNext` says, as tests. -/
theorem adminNext_of (p : Packet) (kind : Nat) (s : State) (h : adminPacket s = some (headA, p) ∧ p.kind = kind ∧
    s.hub.halted = false ∧ p.slotWord.toNat % 2 ^ 63 / 256 = 0 ∧ p.cw.toNat = cwA ∧ s.hub.adminWait = .none) : AdminNext p kind headA s :=
  ⟨h.1, h.2.1, fun hh => by (rw [h.2.2.1] at hh; cases hh), h.2.2.2.1, by (rw [h.2.2.2.2.1]; decide), by decide,
    fun _ => by (rw [h.2.2.2.2.1]; exact .inl (by decide)), h.2.2.2.2.2⟩

/-- Device pages are far from what an admin packet is taken with. -/
theorem untouched_of (p : Packet) (a : Nat) (h : p.cw.toNat = cwA)
    (ha : a < Config.hostBase ∨ Config.hostBase + 0x1000 ≤ a) : Untouched p headA a := by
  have h1 : headA.block = Config.hostBase + 0x800 := rfl
  have h3 : cwA = Config.hostBase + 0x100 := rfl
  unfold Untouched Within
  rw [h, h1, h3]
  omega

/-- What `Laid` says of a range whose places rise with it. -/
theorem laid_of (s : State) (p : Packet) (ctx asid va n : Nat) (need : Need) (pa : Nat) (h : p.cw.toNat = cwA ∧
    (∀ k, k < n → physOf s ctx asid (va + k) need = some (pa + k)) ∧ pa + n ≤ Config.mereBase ∧
    (pa + n ≤ Config.hostBase ∨ Config.hostBase + 0x1000 ≤ pa)) : Laid s p headA ctx asid va n need (fun k => pa + k) :=
  ⟨h.2.1, fun k hk => Nat.lt_of_lt_of_le (by simpa using hk) h.2.2.1, fun j k _ _ e => Nat.add_left_cancel e,
    fun k hk => untouched_of p _ h.1 (by omega)⟩

/-! Faults. -/

/-- A fault record of the group's split on a page. -/
def recordOn (va kind : Nat) : FaultRec := ⟨va, kind, 0, 0, 0, 0, 0, 0, 1, [], 0, 0, 0, placedTask, 0, 0⟩
def hubRec : FaultRec := { recordOn 0x50000 7 with core := 0x1FF, op := 4 }
def backed : Page := ⟨0, 0x80000, 0, true, true, false, false, false, 0x80000, some 0x90000, 0⟩
def ringed (r : FaultRec) : State := onH (fun h => { h with ring := [r], pages := h.pages ++ [backed] }) rig
def copyOp : HubOp := ⟨4, 0, 0, 3, 0, .copy 0x30000 0x30100 4 1⟩
def replying (w : Wait) (r : FaultRec) (ops : List HubOp) : State := onH (fun h => { h with replies := [r], ops := ops })
  (onS (fun sp => { sp with state := .parked, wait := w }) rig)
def storeOfSix : Access := accessOf (view rig) (.st .dword 6 1)
def who0 : Who := (view rig).who

theorem test_witness_FaultService :
    ((onH (fun h => { h with recWait := [recordOn 0x50000 4] }) (onS (fun sp => { sp with state := .parked, wait := .touch }) rig)).hub.recWait =
      [recordOn 0x50000 4] ∧ rig.hub.ring.length = 0 ∧ (rig.core 0).ggenOf 0 = (recordOn 0x50000 4).ggen) ∧
    ((ringed (recordOn 0x30000 0)).hub.ring = recordOn 0x30000 0 :: [] ∧
      (findPage (ringed (recordOn 0x30000 0)) 0 0x30000).map Page.res = some true ∧ (recordOn 0x30000 0).core ≠ 0x1FF) ∧
    (findPage (ringed (recordOn 0x80000 0)) 0 0x80000 = some backed ∧ backed.res = false ∧ backed.back = some 0x90000) ∧
    (findPage (ringed (recordOn 0xA0000 0)) 0 0xA0000 = none ∧
      (findPage (ringed (recordOn 0x50000 0)) 0 0x50000).map (fun p => (p.res, p.back)) = some (false, none)) ∧
    ((onH (fun h => { h with backing := [(0, 0x80000)], pages := h.pages ++ [backed] }) rig).hub.pages.find?
      (fun q => decide (q.asid = 0) && decide (q.va = 0x80000)) = some backed ∧ Memory.wf rig.mem = true) ∧
    ((replying .none hubRec [copyOp]).hub.replies[0]? = some hubRec ∧ hubRec.core = 0x1FF ∧ copyOp.id = hubRec.op) ∧
    (((replying (.fetch 1) (recordOn 0x50000 3) []).group? 0 0).bind (fun g => (g.atLane 0).map Split.wait) = some (.fetch 1) ∧
      whoOfLane (replying (.fetch 1) (recordOn 0x50000 3) []) 0 0 0 = some who0) ∧
    (((replying (.faults 2 storeOfSix) (recordOn 0x30000 0) []).group? 0 0).bind (fun g => (g.atLane 0).map Split.wait) =
      some (.faults (0 + 2) storeOfSix) ∧ accessKind storeOfSix.instr = 0) ∧
    (isStore storeOfSix.instr = true ∧ accessTrap (replying (.faults 1 storeOfSix) (recordOn 0x30000 0) []) who0 storeOfSix = none ∧
      accessAbsent (replying (.faults 1 storeOfSix) (recordOn 0x30000 0) []) who0 storeOfSix = [] ∧
      ((replying (.faults 1 storeOfSix) (recordOn 0x30000 0) []).group? 0 0).map Group.leaving = some false ∧
      ((replying (.faults 1 storeOfSix) (recordOn 0x30000 0) []).core 0).outstanding < Config.requests) := by
  refine ⟨?_, ?_, ?_, ?_, ?_, ?_, ?_, ?_, ?_⟩ <;> decide +kernel

/-- The number of places of the fault ring admits an empty ring. -/
theorem test_witness_FaultService_room : rig.hub.ring.length ≤ Config.faultRingPlaces := by
  have h : rig.hub.ring.length = 0 := by decide +kernel
  rw [h]
  exact Nat.zero_le _

/-- A record whose page was mapped anew is served before the ring's oldest one (R326). -/
def anewRec : State := onH (fun h => { h with anew := [recordOn 0x30000 0] }) (ringed (recordOn 0x80000 0))
theorem test_witness_FaultService_anew : anewRec.hub.anew = recordOn 0x30000 0 :: [] ∧
    (findPage anewRec 0 0x30000).map Page.res = some true ∧ (recordOn 0x30000 0).isArea = false := by decide +kernel
theorem test_fault_service_anew : gives (exec .faultRecordService anewRec) (fun t => t.hub.anew.isEmpty &&
    t.hub.replies = [recordOn 0x30000 0] && t.hub.ring = [recordOn 0x80000 0]) = true := by decide +kernel

/-- A reply at once, a copy from the backing, an event of kind 1; a fetch goes on, a store goes out (R211, R298, R326, R334). -/
theorem test_fault_service :
    gives (exec .faultRecordService (ringed (recordOn 0x30000 0))) (fun t => t.hub.replies.length = 1 && t.hub.ring.isEmpty) ∧
    gives (exec .faultRecordService (ringed (recordOn 0x80000 0))) (fun t => t.hub.backing = [(0, 0x80000)]) ∧
    gives (exec .faultRecordService (ringed (recordOn 0x50000 0))) (fun t => t.hub.events.map Event.kind = [1]) ∧
    after (exec (.faultReply 0) (replying (.fetch 1) (recordOn 0x50000 3) [])) (fun g => g.splits.map (fun sp => (sp.pc, sp.state)) = [(0x10000, .ready)]) ∧
    gives (exec (.faultReply 0) (replying (.faults 1 storeOfSix) (recordOn 0x30000 0) [])) (fun t => (t.core 0).stores.length = 1 &&
      after (.next t) (fun g => g.splits.map Split.pc = [0x10004])) ∧
    gives (exec (.faultReply 0) (replying .none hubRec [copyOp])) (fun t => t.hub.ops.map HubOp.wait = [.copy 0x30000 0x30100 4 0]) := by
  decide +kernel

/-! Errors and firmware. -/

/-- The admin queue with its journal standing for a packet of kind 0x8C at slot 0. -/
def journalled : State := let s := admin (pkt 0x8C cwA [1]) rig
  { s with mem := dwords s.mem (Config.hostBase + 0x828) [0x18C01] }
def downCore : State := onC (fun k => { k with inReset := true, resetInfo := some (true, 2, 1) }) rig

theorem test_witness_ErrorsAndFirmware :
    (0x30000 < Config.reservedEnd ∧ (rig.group? 0 0).map (fun g => (Table.keys g.frames)) = some [0]) ∧
    ((rig.core 0).ilines.map (fun l => (l.asid, l.block)) = [(0, 0x100)]) ∧
    ((downCore.core 0).resetInfo = some (true, 2, 1) ∧ (downCore.core 0).inReset = true ∧ downCore.hub.adminWait = .none) ∧
    (rig.hub.ready = true ∧ rig.hub.queues = [] ∧ rig.hub.aen = false ∧ rig.hub.adminRetire = 0 ∧ areaContexts rig 0x30000 = []) ∧
    (journalled.hub.ready = true ∧ journalled.hub.queues = [] ∧ journalled.hub.aen = true ∧ journalled.hub.admq + 64 ≤ Config.mereBase ∧
      wordAt journalled.mem (journalled.hub.admq + 0x28) 8 = 0x18C01 ∧ wordAt journalled.mem (journalled.hub.admq + 0x18) 8 = 0 ∧
      wordAt journalled.mem (journalled.hub.admq + 8) 8 % 32 = 1 ∧
      headA.slot = wordAt journalled.mem journalled.hub.admq 8 % 2 ^ 56 + 64 * (((0 / 2 ^ 48 * 2 ^ 48 + 0x18C01 / 2 ^ 16 + 2 ^ 64 - 1) % 2 ^ 64) % 2 ^ 1) ∧
      Config.hostBase ≤ headA.slot ∧ headA.slot + 64 ≤ Config.mereBase) ∧
    (State.reset.hub.ready = false ∧ (onH (fun h => { h with zeroised := true }) rig).hub.zeroised = true) := by
  refine ⟨?_, ?_, ?_, ?_, ?_, ?_⟩ <;> decide +kernel

/-- The slot of the journalled packet lies apart from the head and the journal. -/
theorem test_witness_ErrorsAndFirmware_apart : Apart headA.slot (journalled.hub.admq + 0x18) ∧ Apart headA.slot (journalled.hub.admq + 0x28) := by
  unfold Apart
  decide +kernel

/-- The poison of a unit; a return to service; the watchdog's replay; the alarm's policy 2 (R279, R284, R335, R339). -/
theorem test_errors : gives (exec (.uncorrectableError (.memory 0x30041)) rig) (fun t => t.poison = [0x30041 / 64]) ∧
    after (exec (.uncorrectableError (.scalar 0 0 0 6)) rig) (fun g => (g.readS 0 6).poison) ∧
    gives (exec (.coreReturnToService 0) downCore) (fun t => t.cyc 0 = 0 && t.hub.events.map Event.payload = [[512, 2, 1]]) ∧
    gives (exec .watchdogRestart journalled) (fun t => wordAt t.mem (Config.hostBase + 0x818) 8 = 1 &&
      wordAt t.mem headA.slot 8 = 0x8C && wordAt t.mem (Config.hostBase + 0x828) 8 = 0x18C00 && t.hub.events.map Event.payload = [[1, 1]]) ∧
    gives (exec (.securityAlarm 3) (onH (fun h => { h with policy := 2 }) rig)) (fun t => t.hub.alarm && t.hub.halted && t.hub.zeroised &&
      t.hub.events.map (fun e => e.payload.getD 0 0) = [0x203]) := by decide +kernel

/-! Ports and the host. -/

def port0 : Port := ⟨true, 0x40000, 0x1000, 5⟩
def linked : State := onH (fun h => { h with ports := [(0, port0)] }) rig
def telling : State := onH (fun h => { h with events := [⟨6, [7, 8]⟩], evtq := Config.hostBase + 0x2000, evsz := 2, evNext := 5 }) rig

theorem test_witness_PortsAndHost :
    ((linked.hub.port 0).up ≠ false ∧ (linked.hub.port 0).up = true ∧ (linked.hub.port 0).base ≤ 0x40040 ∧
      0x40040 + 64 ≤ (linked.hub.port 0).base + (linked.hub.port 0).len ∧ (0x40040 : Nat) % 64 = 0) ∧
    ((linked.hub.port 1).up = false ∧ 0x3FFC0 < (linked.hub.port 0).base ∧ (linked.hub.port 0).base + (linked.hub.port 0).len < 0x41000 + 64) ∧
    (0x30040 % 64 = 0 ∧ 0x30040 < Config.reservedBase ∧ Config.reservedBase % 64 = 0 ∧ Config.reservedBase < Config.reservedEnd) ∧
    (telling.hub.events = ⟨6, [7, 8]⟩ :: [] ∧ telling.hub.ready = true ∧ 1 ≤ telling.hub.evsz ∧ telling.hub.evsz ≤ 16 ∧
      Config.hostBase + 0x2040 = telling.hub.evtq + 64 * (telling.hub.evNext % 2 ^ telling.hub.evsz) ∧
      wordAt telling.mem (Config.hostBase + 0x2040) 8 < 2 ^ 63) := by decide +kernel

/-- A link goes down; a write beyond the window is counted; the host reads and writes a line; an event goes out; admq and
evtq are set (R321, R323 to R325). -/
theorem test_ports : gives (exec (.helasLinkChange 0 false) linked) (fun t => t.hub.events = [⟨6, [0, 5]⟩]) ∧
    gives (exec (.helasInboundWrite 0 0x41000 7 false) linked) (fun t => (t.hub.port 0).refused = 6) ∧
    gives (exec (.helasInboundWrite 0 0x40040 7 true) linked) (fun t => t.poison = [0x40040 / 64] && wordAt t.mem 0x40040 8 = 7) ∧
    gives (exec (.cxlMemWrite 0x30040 9) { rig with poison := [0x30040 / 64] }) (fun t => t.poison.isEmpty && wordAt t.mem 0x30040 8 = 9) ∧
    gives (exec (.cxlMemRead Config.reservedBase) rig) (fun t => t.hub.hostReads = [(0, true)]) ∧
    gives (exec .eventWrite telling) (fun t => wordAt t.mem (Config.hostBase + 0x2040) 8 = 2 ^ 63 + 6 &&
      wordAt t.mem (Config.hostBase + 0x2050) 8 = 8 && t.hub.msix = [1] && t.hub.events.isEmpty) ∧
    gives (exec (.admqWrite (BitVec.ofNat 64 (2 ^ 63 + Config.hostBase + 0x3000))) telling) (fun t => t.hub.admq = Config.hostBase + 0x3000 && t.hub.aen) ∧
    gives (exec (.bar0RegisterWrite 0x10 0x0200000000004000) telling) (fun t => t.hub.evtq = 0x4000 && t.hub.evsz = 2 && t.hub.evNext = 0) := by
  decide +kernel

/-! The further targets of the same statements. -/

/-- A record of an absent spill area, in the ring and as a reply; the event ring's next slot full and free; a waiting record
when an event stands before it. -/
def areaRec : FaultRec := { recordOn 0x50000 5 with op := splitAreaOf 0 0, ggen := 0 }
def areaRinged : State := onH (fun h => { h with ring := [areaRec], areas := [(splitAreaOf 0 0, .absent)] }) rig
def areaReplied : State := onG (fun g => { g with stall := true }) (onH (fun h => { h with replies := [areaRec] }) rig)
def forwarding (full : Bool) : State := let s := onH (fun h => { h with evtq := 0x30000, evsz := 1 }) (ringed (recordOn 0x50000 0))
  if full then { s with mem := [(0x30007, 0x80)] } else s

theorem test_witness_FaultService_areas :
    (areaRinged.hub.ring = areaRec :: [] ∧ areaRec.isArea = true) ∧
    (areaReplied.hub.replies[0]? = some areaRec ∧ areaRec.core ≠ 0x1FF ∧ (areaReplied.core 0).inReset = false ∧
      areaReplied.savingAt 0 0 = false) ∧
    ((forwarding false).hub.events = [] ∧ eventSlot (forwarding false).hub + 8 ≤ Config.mereBase ∧
      wordAt (forwarding false).mem (eventSlot (forwarding false).hub) 8 < 2 ^ 63) ∧
    (2 ^ 63 ≤ wordAt (forwarding true).mem (eventSlot (forwarding true).hub) 8) := by decide +kernel

/-- A record of an area brings it back; its reply lets the group move; a record waits while the event slot is full (R126,
R212, R325). -/
theorem test_fault_service_areas :
    gives (exec .faultRecordService areaRinged) (fun t => t.hub.areas.isEmpty && t.hub.replies = [areaRec]) ∧
    after (exec (.faultReply 0) areaReplied)
      (fun g => !g.stall) ∧
    gives (exec .faultRecordService (forwarding false)) (fun t => t.hub.events.map Event.kind = [1]) ∧
    (match exec .faultRecordService (forwarding true) with
      | .fault f => f == .notEnabled
      | .next _ => false
      | .refused _ => false) = true := by decide +kernel

/-- A group with a tile, an accumulator, a spilled entry; a channel with a slot; a Tarn entry; a sweep; a task saved. -/
def targets : State := { spilling with tarn := [⟨0x40000, .split 0 0 0⟩] }
def channelled : State := channel 1 [lanes id] id
def swept : State := onH (fun h => { h with sweeps := [(0, ⟨placedTask, 3, 2, 2, 1⟩)] }) rig

theorem test_witness_ErrorsAndFirmware_targets :
    ((rig.group? 0 0).map (fun g => ((Table.get? g.tiles 0).isSome, (Table.get? g.accs 0).isSome)) = some (true, true)) ∧
    ((Table.get? channelled.tasks placedTask).map (fun x => (chanOf x 2).full.length) = some 1) ∧
    (findPage rig 0 0x30000).isSome = true ∧ targets.tarn[0]? = some ⟨0x40000, .split 0 0 0⟩ ∧
    (Table.get? swept.hub.sweeps 0 = some ⟨placedTask, 3, 2, 2, 1⟩ ∧ (Table.get? swept.tasks placedTask).isSome = true) ∧
    (Table.get? preempted.tasks placedTask).map Task.state = some .preempted ∧
    (spilling.group? 0 0).map Group.spilled = some [spilledSplit] ∧
    ((rig.core 0).inReset = false ∧ resetTops rig 0 = [placedTask] ∧ (Table.get? rig.tasks placedTask).map Task.restart = some false) := by
  decide +kernel

/-- A unit of the save image of the one saved task, and of the split spill area of the one group that has spilled; the admin
block's update due with aen 0. -/
def adminLate : State := onH (fun h => { h with aen := false, adminRetire := 1, adminAt := h.admq, admq := 0 }) journalled

/-- Where the one group of the one core has spilled entries, its context owns its split spill area. -/
theorem areaContexts_one {s : State} {k : Core} {g : Group} (hc : s.cores = [(0, k)]) (hg : k.groups = [(0, g)])
    (hs : ∀ e ∈ s.tasks, e.2.saved = []) (h1 : g.spilled ≠ []) (h2 : g.out = false) (h3 : pennantDepth g = 0) (h4 : s.ctxOf 0 0 = 0) :
    areaContexts s (areaPhys (splitAreaOf 0 0)) = [0] := by
  have h6 : areaPhys (splitAreaOf 0 0) / 64 * 64 < areaPhys (splitAreaOf 0 0) + 832 := by omega
  unfold areaContexts
  simp [hc, hg, h1, h2, h3, h4, h6, List.filter_eq_nil_iff]
  intro a t h hn
  exact absurd (hs _ h) hn

theorem test_witness_ErrorsAndFirmware_areas :
    (areaPhys (splitAreaOf 0 0) < Config.reservedEnd ∧ areaContexts spilling (areaPhys (splitAreaOf 0 0)) = [0]) ∧
    (adminLate.hub.aen = false ∧ adminLate.hub.adminRetire ≠ 0 ∧ adminLate.hub.adminAt = Config.hostBase + 0x800 ∧
      adminLate.hub.queues = [] ∧ adminLate.hub.ready = true) ∧
    (((inRegion 17).group? 0 0).map (fun g => decide (pennantPlaces < pennantDepth g)) = some true) := by
  have h1 : Config.reservedBase = 0x01F000000000 := rfl
  have h2 : Config.reservedEnd = 0x020000000000 := rfl
  refine ⟨⟨?_, areaContexts_one (k := spilling.core 0) (g := group0 spilling) ?_ ?_ ?_ ?_ ?_ ?_ ?_⟩, ?_, ?_⟩
  · unfold areaPhys
    omega
  all_goals decide +kernel

/-- A vector lane of a frame's granule is poisoned; a lost Tarn entry of a hub operation ends its queue's context (R279, R283). -/
def hubTarn : State := { onH (fun h => { h with queues := [(0, queue0)], ops := [⟨4, 0, 0, 4, 0, .waitword 0x40000 false 0⟩] }) rig with
  tarn := [⟨0x40000, .hub 4⟩] }
theorem test_witness_ErrorsAndFirmware_places :
    ((rig.group? 0 0).map (fun g => ((Table.get? g.frames 0).isSome, decide (3 < 8 * (g.frame 0).grans.length))) = some (true, true)) ∧
    (hubTarn.tarn[0]? = some ⟨0x40000, .hub 4⟩ ∧ (hubTarn.hub.ops.find? (fun y => decide (y.id = 4))).map HubOp.queue = some 0 ∧
      Table.get? hubTarn.hub.queues 0 = some queue0) := by decide +kernel
theorem test_errors_places :
    after (exec (.uncorrectableError (.vlane 0 0 0 3 31)) rig) (fun g => (g.readV 0 3).poison = 0x80000000) ∧
    gives (exec (.uncorrectableError (.tarn 0)) hubTarn) (fun t => (Table.get? t.tasks placedTask).map (fun x => (x.state, x.xstat)) =
      some (.unwinding, 5)) := by decide +kernel

/-- The admin update is replayed in its own block though the host has named no block since (R336). -/
theorem test_errors_admin : gives (exec .watchdogRestart adminLate) (fun t => wordAt t.mem (Config.hostBase + 0x818) 8 = 1 &&
    wordAt t.mem headA.slot 8 = 0x8C && wordAt t.mem (Config.hostBase + 0x828) 8 = 0x18C00 && t.hub.adminRetire = 0) = true := by
  decide +kernel

/-- A poisoned predicate, tile unit, accumulator quarter and channel lane; a lost tag, Tarn entry and control structure (R279,
R283, R284). -/
theorem test_errors_targets :
    after (exec (.uncorrectableError (.pred 0 0 3)) rig) (fun g => (g.readP 3).poison) ∧
    after (exec (.uncorrectableError (.tileUnit 0 0 0 23)) rig) (fun g => (g.readT 0).poison = 0x800000) ∧
    after (exec (.uncorrectableError (.accQuarter 0 0 0 2)) rig) (fun g => (g.readA 0).poison = 4) ∧
    gives (exec (.uncorrectableError (.chanLane placedTask 2 0 31)) channelled) (fun t =>
      (Table.get? t.tasks placedTask).map (fun x => (chanOf x 2).full.map VReg.poison) = some [0x80000000]) ∧
    gives (exec (.uncorrectableError (.dieTag 0x30010)) rig) (fun t => t.hub.events.map Event.kind = [5] &&
      (Table.get? t.tasks placedTask).map (fun x => (x.state, x.xstat)) = some (.unwinding, 5)) ∧
    gives (exec (.uncorrectableError (.tarn 0)) targets) (fun t => (Table.get? t.tasks placedTask).map (fun x => (x.state, x.xstat)) =
      some (.unwinding, 5)) ∧
    gives (exec (.uncorrectableError (.control 0)) rig) (fun t => (t.core 0).inReset && (t.core 0).groups.isEmpty) := by decide +kernel

/-- A packet queue whose journal word stands for the packet of slot 0, which the head does not count yet. -/
def journalledQ : State := let s := queued (pkt 6 0x70100 []) rig
  { s with mem := dwords s.mem (Config.hostBase + 0x28) [0x10601] }
/-- Its ring as the hub finds it. -/
def slotQ (t : Nat) : Option Nat := physOf journalledQ 0 0 (0x70400 + 64 * (t % 2)) Need.load

theorem test_witness_ErrorsAndFirmware_queue : journalledQ.hub.ready = true ∧ journalledQ.hub.queues = [(0, queue0)] ∧
    journalledQ.hub.aen = false ∧ journalledQ.hub.adminRetire = 0 ∧ (ringPlace journalledQ queue0).map Prod.fst = some Config.hostBase ∧
    (ringPlace journalledQ queue0).map (fun r => r.2 0) = some (some (Config.hostBase + 0x400)) ∧ Config.hostBase + 64 ≤ Config.mereBase ∧
    wordAt journalledQ.mem (Config.hostBase + 0x28) 8 = 0x10601 ∧ wordAt journalledQ.mem (Config.hostBase + 0x18) 8 = 0 ∧
    (0 / 2 ^ 48 * 2 ^ 48 + 0x10601 / 2 ^ 16 + 2 ^ 64 - 1) % 2 ^ 64 = 0 ∧ openB journalledQ (Config.hostBase + 0x400) 8 = true := by
  decide +kernel

/-- The watchdog ends the update: head 1, the slot empty, v 0 (R335, R336). -/
theorem test_watchdog_queue : gives (exec .watchdogRestart journalledQ) (fun t => wordAt t.mem (Config.hostBase + 0x18) 8 = 1 &&
    wordAt t.mem (Config.hostBase + 0x400) 8 = 6 && wordAt t.mem (Config.hostBase + 0x28) 8 = 0x10600) = true := by decide +kernel

/-- The host's line on its way, with poison; a hub copy of 64 bytes to port 1, whose link is down. -/
def lineIn : State := { rig with inbox := [.hostLine 0x30040 9 true] }
def toPort : HubOp := ⟨4, 0, 0, 3, 0, .copy (BitVec.ofNat 64 (Config.helasAlias + 2 ^ 44 + 0x40)) 0x30000 64 0⟩
def refusing : State := onH (fun h => { h with ops := [toPort], queues := [(0, queue0)]
                                               ctxs := [(0, { placedCtx with helas := true })] }) rig

theorem test_witness_PortsAndHost_further :
    lineIn.inbox = .hostLine 0x30040 9 true :: [] ∧ openB telling (Config.hostBase + 0x2040) 64 = true ∧
    (refusing.hub.ops.find? (fun y => decide (y.id = 4)) = some toPort ∧ Table.get? refusing.hub.queues toPort.queue = some queue0 ∧
      copyTrouble refusing (hubWho queue0) [⟨BitVec.ofNat 64 (Config.helasAlias + 2 ^ 44 + 0x40), 0x30000, 64⟩] = [] ∧
      (BitVec.ofNat 64 (Config.helasAlias + 2 ^ 44 + 0x40)).toNat = Config.helasAlias + 1 * 2 ^ 44 + 0x40 ∧
      (refusing.hub.port 1).up = false) := by decide +kernel

/-- The line poisons its unit; the port counts one (R321, R323). -/
theorem test_ports_further : gives (perform .world lineIn) (fun t => t.poison = [0x30040 / 64] && wordAt t.mem 0x30040 8 = 9) ∧
    gives (exec (.hubCopyComplete 4) refusing) (fun t => (t.hub.port 1).refused = 1 && t.mem == refusing.mem) := by decide +kernel

/-! Packets. -/

def launchP : Packet := pkt 1 cwQ [0x30100, 0x30000, 100, 5]
def sweepP (n : Nat) : Packet := pkt 2 cwQ [0x30100, 0x30000, 100, 5, 2 + 2 ^ 16, n]
/-- The context has no quota left. -/
def poorContext : State := onH (fun h => { h with ctxs := [(0, { placedCtx with quota := 0 })] }) rig
def grantP : Packet := pkt 8 cwQ [0x20000, 9]
def cancelP : Packet := pkt 10 cwQ [0x20000]

theorem test_witness_Launches :
    (PacketNext 0 launchP 1 queue0 head0 (queued launchP rig) ∧ tcbGood (queued launchP rig) queue0 launchP.w10 = true ∧
      templateOk (queued launchP rig) queue0 launchP.w18 = true ∧ templateThere (queued launchP rig) queue0 launchP.w18 = true ∧
      launchP.w20.toNat < 2 ^ 48 ∧ launchP.w28.toNat < 384 ∧ launchP.w30 = 0 ∧ launchP.w38 = 0) ∧
    (∀ n ∈ [1, 2], PacketNext 0 (sweepP n) 2 queue0 head0 (queued (sweepP n) rig) ∧ tcbGood (queued (sweepP n) rig) queue0 (sweepP n).w10 = true ∧
      templateOk (queued (sweepP n) rig) queue0 (sweepP n).w18 = true ∧ templateThere (queued (sweepP n) rig) queue0 (sweepP n).w18 = true ∧
      (sweepP n).w20.toNat < 2 ^ 48 ∧ (sweepP n).w28.toNat < 384 ∧ (sweepP n).w30.toNat < 2 ^ 48 ∧ n = (sweepP n).w38.toNat ∧ 1 ≤ n ∧
      (sweepP n).w28.toNat + n ≤ 384 ∧ sweepFull (queued (sweepP n) rig) 0 n = false) ∧
    (PacketNext 0 (sweepP 2) 2 queue0 head0 (queued (sweepP 2) poorContext) ∧ tcbGood (queued (sweepP 2) poorContext) queue0 (sweepP 2).w10 = true ∧
      templateOk (queued (sweepP 2) poorContext) queue0 (sweepP 2).w18 = true ∧
      templateThere (queued (sweepP 2) poorContext) queue0 (sweepP 2).w18 = true ∧ sweepFull (queued (sweepP 2) poorContext) 0 2 = true) ∧
    (PacketNext 0 grantP 8 queue0 head0 (queued grantP rig) ∧ rootNamed (queued grantP rig) queue0 grantP.w10 = some placedTask ∧
      grantP.w20 = 0 ∧ grantP.w28 = 0 ∧ grantP.w30 = 0 ∧ grantP.w38 = 0) ∧
    (PacketNext 0 cancelP 10 queue0 head0 (queued cancelP rig) ∧ rootNamed (queued cancelP rig) queue0 cancelP.w10 = some placedTask ∧
      cancelP.w18 = 0 ∧ cancelP.w20 = 0 ∧ cancelP.w28 = 0 ∧ cancelP.w30 = 0 ∧ cancelP.w38 = 0) := by
  refine ⟨⟨packetNext_of _ _ _ ?_, ?_⟩, ?_, ⟨packetNext_of _ _ _ ?_, ?_⟩, ⟨packetNext_of _ _ _ ?_, ?_⟩, ⟨packetNext_of _ _ _ ?_, ?_⟩⟩
  case refine_3 =>
    intro n hn
    simp only [List.mem_cons, List.not_mem_nil, or_false] at hn
    rcases hn with rfl | rfl <;> exact ⟨packetNext_of _ _ _ (by decide +kernel), by decide +kernel⟩
  all_goals decide +kernel

/-- The operation that a packet has left, and the completion it comes to. -/
def waits (r : Host.Outcome State Fault Refusal) (w : HubWait) : Bool := gives r (fun t => t.hub.ops.map HubOp.wait = [w])

/-- LAUNCH creates a READY root on core 5 with 100 units; SWEEP without a slot is due with FULL; GRANT sends a message (R191,
R330). -/
theorem test_launches : gives (exec (.launch 0 launchP) (queued launchP rig)) (fun t =>
      (Table.get? t.tasks (rootKey 0 0x30100)).map (fun y => (y.state, y.alw, y.place, y.isRoot)) = some (.ready, 100, 5, true)) ∧
    waits (exec (.sweep 0 (sweepP 2)) (queued (sweepP 2) poorContext)) (.word 2 0 false) ∧
    gives (exec (.grantPacket 0 grantP) (queued grantP rig)) (fun t => t.msgs.map (fun m => (m.kind, m.target)) = [(.grant 9, some placedTask)] &&
      wordAt t.mem (Config.hostBase + 0x28) 8 = 0x10801 && (Table.get? t.hub.queues 0).map Queue.retire = some 1) := by decide +kernel

def copyP : Packet := pkt 3 cwQ [0x30000, 0x30100, 16]
def waitP : Packet := pkt 4 cwQ [0x40000, 1]
def fillP (force : Nat) : Packet := pkt 5 cwQ [0x40000, 77, force]
def startP : Packet := pkt 6 cwQ [0x400000]
def stopP : Packet := pkt 7 cwQ []
def invalP : Packet := pkt 9 cwQ [0x10000, 256]
def fenceP : Packet := pkt 11 cwQ []
def badP : Packet := { fenceP with slotWord := 0x800000000000010B }
/-- A full word in the mailbox page; a page of 2 MiB; a hub copy that waits for its engine. -/
def fullWord (s : State) : State := { s with full := [0x40000 / 8], mem := Memory.putAll s.mem (cellsOf 0x40000 8 0x1234) }
def wide : State := onH (fun h => { h with pages := h.pages ++ [⟨0, 0x400000, 1, true, true, false, false, true, 0x400000, none, 0⟩] }) rig
def hubCopy (src : W64) : State := onH (fun h => { h with queues := [(0, queue0)], ops := [⟨4, 0, 0, 3, 0, .copy 0x30000 src 4 0⟩] })
  { rig with mem := [(0x30101, 7)] }

theorem test_witness_Packets :
    (PacketNext 0 copyP 3 queue0 head0 (queued copyP rig) ∧ reaches (queued copyP rig) queue0 Need.copyOut 0x30000 16 = true ∧
      reaches (queued copyP rig) queue0 Need.copyIn 0x30100 16 = true ∧ copyP.w20.toNat = 16) ∧
    ((hubCopy 0x30100).hub.ops.find? (fun y => decide (y.id = 4)) = some ⟨4, 0, 0, 3, 0, .copy 0x30000 0x30100 4 0⟩ ∧
      copyTrouble (hubCopy 0x30100) (hubWho queue0) [⟨0x30000, 0x30100, 4⟩] = [] ∧
      ∀ k, k < 4 → physOf (hubCopy 0x30100) 0 0 (0x30000 + k) Need.store = some (0x30000 + k) ∧
        physOf (hubCopy 0x30100) 0 0 (0x30100 + k) Need.load = some (0x30100 + k)) ∧
    (copyTrouble (hubCopy 0x50000) (hubWho queue0) [⟨0x30000, 0x50000, 4⟩] ≠ []) ∧
    (PacketNext 0 waitP 4 queue0 head0 (queued waitP rig) ∧ wordGood (queued waitP rig) queue0 Need.take waitP.w10 = true ∧
      (queued waitP rig).tarn = [] ∧ translate (queued waitP rig) 0 0 Need.take 0x40000 = .phys 0x40000 ∧ isFull (queued waitP rig) 0x40000 = false) ∧
    (PacketNext 0 waitP 4 queue0 head0 (fullWord (queued waitP rig)) ∧ isFull (fullWord (queued waitP rig)) 0x40000 = true) ∧
    (PacketNext 0 (fillP 1) 5 queue0 head0 (fullWord (queued (fillP 1) rig)) ∧
      wordGood (queued (fillP 1) rig) queue0 Need.fill (fillP 1).w10 = true ∧ (fillP 1).w20.toNat ≤ 1 ∧
      translate (queued (fillP 1) rig) 0 0 Need.fill 0x40000 = .phys 0x40000) ∧
    (PacketNext 0 (fillP 0) 5 queue0 head0 (fullWord (queued (fillP 0) rig)) ∧ (fillP 0).w20 = 0 ∧ isFull (fullWord (queued (fillP 0) rig)) 0x40000 = true) ∧
    (PacketNext 0 startP 6 queue0 head0 (queued startP wide) ∧ reaches (queued startP wide) queue0 Need.load 0x400000 (512 * 384) = true ∧
      reaches (queued startP wide) queue0 Need.store 0x400000 (512 * 384) = true ∧ Table.get? (queued startP wide).hub.ctxs 0 = some placedCtx) ∧
    (PacketNext 0 stopP 7 queue0 head0 (queued stopP rig) ∧ stopP.w10 = 0) ∧
    (PacketNext 0 invalP 9 queue0 head0 (queued invalP rig) ∧ mappedBytes (queued invalP rig) 0 0x10000 256 = 256) ∧
    (PacketNext 0 fenceP 11 queue0 head0 (queued fenceP rig) ∧ fenceP.w10 = 0) ∧
    (decodePacket false 0 badP = some (.fencePacket 0 badP) ∧ nextPacket (queued badP rig) 0 = some (queue0, head0, badP) ∧
      badP.slotWord.toNat % 2 ^ 63 / 256 ≠ 0 ∧ (queued badP rig).hub.isDying 0 = false) := by
  refine ⟨⟨packetNext_of _ _ _ ?_, ?_⟩, ?_, ?_, ⟨packetNext_of _ _ _ ?_, ?_⟩, ⟨packetNext_of _ _ _ ?_, ?_⟩, ⟨packetNext_of _ _ _ ?_, ?_⟩,
    ⟨packetNext_of _ _ _ ?_, ?_⟩, ⟨packetNext_of _ _ _ ?_, ?_⟩, ⟨packetNext_of _ _ _ ?_, ?_⟩, ⟨packetNext_of _ _ _ ?_, ?_⟩,
    ⟨packetNext_of _ _ _ ?_, ?_⟩, ?_⟩ <;> decide +kernel

/-- The word lies apart from the words of the queue. -/
theorem test_witness_Packets_apart : Apart 0x40000 (head0.block + 0x18) ∧ Apart 0x40000 (head0.block + 0x28) ∧
    0x40000 / 8 ≠ head0.slot / 8 ∧ Apart 0x40000 head0.slot :=
  ⟨.inl (by decide), .inl (by decide), by decide, .inl (by decide)⟩

/-- What the packets wait for, or come to (R330, R332). -/
theorem test_packets : waits (exec (.copy 0 copyP) (queued copyP rig)) (.copy 0x30000 0x30100 16 0) ∧
    gives (exec (.hubCopyComplete 4) (hubCopy 0x30100)) (fun t => Memory.get t.mem 0x30001 = 7 && t.hub.ops.map HubOp.wait = [.word 0 0 false]) ∧
    waits (exec (.hubCopyComplete 4) (hubCopy 0x50000)) (.copy 0x30000 0x50000 4 1) ∧
    waits (exec (.waitword 0 waitP) (fullWord (queued waitP rig))) (.word 0 0x1234 false) ∧
    waits (exec (.waitword 0 waitP) (queued waitP rig)) (.waitword 0x40000 true 0) ∧
    gives (exec (.fillword 0 (fillP 1)) (fullWord (queued (fillP 1) rig))) (fun t => wordAt t.mem 0x40000 8 = 77 && isFull t 0x40000) ∧
    waits (exec (.fillword 0 (fillP 0)) (fullWord (queued (fillP 0) rig))) (.fillword 0x40000 77 false 0) := by decide +kernel
theorem test_packets' :
    gives (exec (.captureStart 0 startP) (queued startP wide)) (fun t => (Table.get? t.hub.ctxs 0).map Ctx.capture = some (some 0x400000)) ∧
    gives (exec (.captureStop 0 stopP) (queued stopP rig)) (fun t => (Table.get? t.hub.ctxs 0).map Ctx.capture = some none) ∧
    gives (exec (.inval 0 invalP) (queued invalP rig)) (fun t => (t.core 0).ilines.isEmpty) ∧
    waits (exec (.fencePacket 0 fenceP) (queued fenceP rig)) .fence ∧
    waits (exec (.fencePacket 0 badP) (queued badP rig)) (.word 7 0 false) := by decide +kernel

/-! Admin commands. -/

/-- Rights F, P and D, quota 5, nesting 3, ASID 0, a stamp buffer of 64 places. -/
def createP : Packet := pkt 0x80 cwA [5 * 2 ^ 16 + 3 * 2 ^ 32 + 2 ^ 40 + 2 ^ 41 + 2 ^ 43, 0x32000, 64]
def setP : Packet := pkt 0x81 cwA [2 ^ 32 + 2 ^ 33 + 2 ^ 34 + 2 ^ 35, 6 * 2 ^ 16 + 4 * 2 ^ 32 + 2 ^ 42, 0x31000, 32]
def queueP : Packet := pkt 0x82 cwA [0x74000, 2 * 2 ^ 32]
def destroyP : Packet := pkt 0x83 cwA [0]
def withDebug : State := onH (fun h => { h with ctxs := [(0, { placedCtx with debug := true })] }) rig
/-- Every context number is in use. -/
def allContexts : State := onH (fun h => { h with ctxs := (List.range (2 ^ 20)).map (fun n => (n, placedCtx)) }) rig

theorem test_witness_Contexts :
    (AdminNext createP 0x80 headA (admin createP rig) ∧ OnlyBits ctxBits createP.w10 ∧ W64.bits createP.w10 30 16 ≤ 16384 ∧
      W64.bits createP.w10 36 32 ≤ 24 ∧ createP.w10.getLsbD 43 = true ∧ stampGood (admin createP rig) (2 ^ 20) 0 createP.w18 createP.w20 = true ∧
      W64.bits createP.w10 10 0 = 0 ∧ createP.w18 ≠ 0 ∧ createP.w20.toNat ≤ 2 ^ 24 ∧ createP.w28 = 0 ∧ createP.w30 = 0 ∧ createP.w38 = 0 ∧
      freeNumber (Table.keys (admin createP rig).hub.ctxs) (2 ^ 20) = some 1 ∧
      Laid (admin createP rig) createP headA 1 0 createP.w18.toNat 64 Need.store (fun k => 0x32000 + k)) ∧
    (AdminNext setP 0x81 headA (admin setP withDebug) ∧ OnlyBits 0xF000FFFFF setP.w10 ∧
      Table.get? (admin setP withDebug).hub.ctxs (W64.bits setP.w10 19 0) = some { placedCtx with debug := true } ∧ OnlyBits ctxBits setP.w18 ∧
      W64.bits setP.w18 30 16 ≤ 16384 ∧ W64.bits setP.w18 36 32 ≤ placedCtx.lmax ∧ setP.w18.getLsbD 41 = false ∧
      stampGood (admin setP withDebug) 0 0 setP.w20 setP.w28 = true ∧ setP.w20 ≠ 0 ∧ setP.w28.toNat ≤ 2 ^ 24 ∧ setP.w30 = 0 ∧ setP.w38 = 0 ∧
      Laid (admin setP withDebug) setP headA 0 0 setP.w20.toNat 64 Need.store (fun k => 0x31000 + k)) ∧
    (AdminNext queueP 0x82 headA (admin queueP rig) ∧ queueP.w10.toNat % 64 = 0 ∧ OnlyBits 0x1F000FFFFF queueP.w18 ∧
      W64.bits queueP.w18 19 0 = 0 ∧ W64.bits queueP.w18 36 32 = 2 ∧ ctxReach (admin queueP rig) 0 Need.load 0x74000 64 = true ∧
      ctxReach (admin queueP rig) 0 Need.store 0x74000 64 = true ∧ freeNumber (Table.keys (admin queueP rig).hub.queues) (2 ^ 16) = some 0 ∧
      physOf (admin queueP rig) 0 0 queueP.w10.toNat Need.load = some (Config.hostBase + 0x4000) ∧
      Laid (admin queueP rig) queueP headA 0 0 (0x74000 + 0x18) 40 Need.store (fun k => Config.hostBase + 0x4018 + k)) ∧
    (AdminNext destroyP 0x83 headA (admin destroyP (queued fenceP rig)) ∧
      Table.get? (admin destroyP (queued fenceP rig)).hub.queues 0 = some queue0 ∧ (admin destroyP (queued fenceP rig)).tarn = []) := by
  unfold OnlyBits
  refine ⟨⟨adminNext_of _ _ _ ?_, ?_, ?_, ?_, ?_, ?_, ?_, ?_, ?_, ?_, ?_, ?_, ?_, laid_of _ _ _ _ _ _ _ _ ?_⟩,
    ⟨adminNext_of _ _ _ ?_, ?_, ?_, ?_, ?_, ?_, ?_, ?_, ?_, ?_, ?_, ?_, laid_of _ _ _ _ _ _ _ _ ?_⟩,
    ⟨adminNext_of _ _ _ ?_, ?_, ?_, ?_, ?_, ?_, ?_, ?_, ?_, laid_of _ _ _ _ _ _ _ _ ?_⟩,
    ⟨adminNext_of _ _ _ ?_, ?_⟩⟩ <;> decide +kernel

/-- Where every number below n is used, none is free. -/
theorem lowestFree_none (used : List Nat) (n k : Nat) (h : ∀ j, k ≤ j → j < k + n → j ∈ used) : lowestFree used k n = none := by
  induction n generalizing k with
  | zero => rfl
  | succ n ih =>
    rw [lowestFree, if_pos (by simpa using h k (Nat.le_refl k) (by omega))]
    exact ih _ (fun j h1 h2 => h j (by omega) (by omega))

theorem ctxs_of (l : Table Ctx) : (admin createP (onH (fun h => { h with ctxs := l }) rig)).hub.ctxs = l := rfl

theorem test_witness_Contexts_full : AdminNext createP 0x80 headA (admin createP allContexts) ∧
    stampGood (admin createP allContexts) (2 ^ 20) 0 createP.w18 createP.w20 = true ∧
    freeNumber (Table.keys (admin createP allContexts).hub.ctxs) (2 ^ 20) = none := by
  refine ⟨adminNext_of _ _ _ (by decide +kernel), by decide +kernel, lowestFree_none _ _ _ (fun j _ h => ?_)⟩
  rw [allContexts, ctxs_of, Table.keys, List.map_map]
  exact List.mem_map.mpr ⟨j, List.mem_range.mpr (by omega), rfl⟩

/-- The completion word of an admin command. -/
def endsWith (r : Host.Outcome State Fault Refusal) (status result : Nat) (f : State → Bool) : Bool :=
  gives r (fun t => wordAt t.mem cwA 8 = status + result * 2 ^ 16 && f t)

/-- Context 1 is made; context 0 loses its debug rights; queue 0 is made in its control block; queue 0 is stopped with its
packet ABORTED (R333, R334). -/
theorem test_contexts : endsWith (exec (.ctxCreate createP) (admin createP { rig with mem := Memory.put rig.mem 0x32010 7 })) 0 1 (fun t =>
      (Table.get? t.hub.ctxs 1).map (fun c => (c.asid, c.quota, c.lmax, c.debug, c.sbuf)) = some (0, 5, 3, true, 0x32000) &&
      Memory.get t.mem 0x32010 = 0) ∧
    endsWith (exec (.ctxSet setP) (admin setP withDebug)) 0 0 (fun t => (Table.get? t.hub.ctxs 0).map (fun c => (c.quota, c.lmax, c.helas, c.debug, c.revoked)) =
      some (6, 4, true, false, true)) ∧
    endsWith (exec (.queueCreate queueP) (admin queueP rig)) 0 0 (fun t => (Table.get? t.hub.queues 0).map Queue.vec = some 2 && t.hub.msix = [0]) ∧
    gives (exec (.queueDestroy destroyP) (admin destroyP (queued fenceP rig))) (fun t => t.hub.adminWait = .destroy 0 (BitVec.ofNat 64 cwA) &&
      t.hub.ops.map HubOp.wait = [.word 8 0 false] && (Table.get? t.hub.queues 0).map Queue.stopped = some true) := by decide +kernel

def mapP : Packet := pkt 0x84 cwA [0, 0xA0000, 0x130, 0x80000]
def protectP (bits : Nat) : Packet := pkt 0x85 cwA [0, 0x30000, bits]
def teardownP : Packet := pkt 0x86 cwA [0]
def dying : State := onH (fun h => { h with dying := [0], adminWait := .teardown 0 (BitVec.ofNat 64 cwA) })
  (onC (fun k => { k with groups := [] }) { rig with tasks := [] })

theorem test_witness_PagesAndAsids :
    (AdminNext mapP 0x84 headA (admin mapP rig) ∧ overlaps (admin mapP rig) 0 0xA0000 0 = false ∧ OnlyBits 0x3F3 mapP.w20 ∧
      mapP.w20.getLsbD 7 = false ∧ W64.bits mapP.w20 1 0 = 0 ∧ mapP.w28.toNat % pageBytes 0 = 0 ∧ pageLies mapP.w28.toNat 0 = true ∧ mapP.w30 = 0 ∧ mapP.w38 = 0) ∧
    (∀ bits ∈ [0x10, 0x8000], AdminNext (protectP bits) 0x85 headA (admin (protectP bits) rig) ∧ OnlyBits 0x80F3 (protectP bits).w20 ∧
      exactPage (admin (protectP bits) rig) 0 0x30000 0 = some ⟨0, 0x30000, 0, true, true, false, false, true, 0x30000, none, 0⟩) ∧
    (AdminNext teardownP 0x86 headA (admin teardownP rig) ∧ (Table.get? (admin teardownP rig).tasks placedTask).map (fun x => (x.isRoot, x.asid, x.state)) =
      some (true, 0, .running)) ∧
    (dying.hub.isDying 0 = true ∧ drained dying 0 = true ∧ dying.hub.adminWait = .teardown 0 (BitVec.ofNat 64 cwA)) := by
  unfold OnlyBits
  refine ⟨⟨adminNext_of _ _ _ ?_, ?_⟩, ?_, ⟨adminNext_of _ _ _ ?_, ?_⟩, ?_⟩
  case refine_3 =>
    intro n hn
    simp only [List.mem_cons, List.not_mem_nil, or_false] at hn
    rcases hn with rfl | rfl <;> exact ⟨adminNext_of _ _ _ (by decide +kernel), by decide +kernel⟩
  all_goals decide +kernel

/-- A page is mapped, made read-only, unmapped; the root task unwinds with ABORTED; ASID 0 is recycled (R207, R334, R337). -/
theorem test_pages : endsWith (exec (.map mapP) (admin mapP rig)) 0 0 (fun t => (findPage t 0 0xA1234).map (fun p => (p.pa, p.r, p.w, p.x)) = some (0x80000, true, true, false)) ∧
    endsWith (exec (.protect (protectP 0x10)) (admin (protectP 0x10) rig)) 0 0 (fun t => (findPage t 0 0x30000).map (fun p => (p.r, p.w)) = some (true, false)) ∧
    endsWith (exec (.protect (protectP 0x8000)) (admin (protectP 0x8000) rig)) 0 0 (fun t => (findPage t 0 0x30000).isNone) ∧
    gives (exec (.asidTeardown teardownP) (admin teardownP rig)) (fun t => (Table.get? t.tasks placedTask).map (fun x => (x.state, x.xstat)) = some (.unwinding, 8)) ∧
    endsWith (exec (.asidRecycle 0) dying) 0 0 (fun t => t.hub.pages.isEmpty && t.hub.ctxs.isEmpty && t.hub.dying.isEmpty) := by decide +kernel

def preemptP : Packet := pkt 0x87 cwA [0x20000]
def resetP : Packet := pkt 0x88 cwA [0]
def countersP : Packet := pkt 0x89 cwA [0, 0, 0x30000]
/-- The device with a loaded counter set, and with words in the block: a select, a derived word. -/
def counting : State := onC (fun k => { k with sets := [(0, ⟨List.replicate 16 9, 0, List.replicate 16 0, List.replicate 16 0, List.replicate 7 0, List.replicate 8 0, List.replicate 16 3⟩)] })
  { rig with mem := Memory.putAll rig.mem (cellsOf 0x30088 1 0x21 ++ cellsOf 0x30100 8 0x77) }
def debugP (op : Nat) (l : List Nat) : Packet := pkt 0x8A cwA (op * 2 ^ 32 :: l)
def edit0 : Edit := ⟨placedTask, 0, 0, 5, 0, 0, [1, 2, 0, 0, 0, 0, 0, 0]⟩
/-- A context with debug rights, a stop and an edit; its group halted, or not; an edit record in the data page. -/
def debugging (halted : Bool) : State := onH (fun h => { h with
    ctxs := [(0, { placedCtx with debug := true, stops := [⟨5, true, false⟩], edits := [edit0] })] })
  (onG (fun g => { g with halted := halted, tiles := [], accs := [], frames := [], v := [] }) { rig with mem := dwords rig.mem 0x31000 [8 * 2 ^ 48 + 6 * 2 ^ 8, 0, 0x99] })
def setStopP : Packet := debugP 0 [5 + 2 ^ 25]
def clearStopP : Packet := debugP 1 [5 + 2 ^ 24]
def haltP : Packet := debugP 2 [0x20000, 0]
def readP : Packet := debugP 3 [0x20000, 0, 0x32000, 0x4000]
def stageP : Packet := debugP 4 [0x20000, 0, 0x31000, 24]
def commitP : Packet := debugP 5 [0x20000, 0]
def resumeP : Packet := debugP 6 [0x20000, 0]
def attestP : Packet := pkt 0x8B cwA [1, 2, 3, 4, Config.hostBase + 0x2000]
def policyP : Packet := pkt 0x8C cwA [2]
def limitP : Packet := pkt 0x8D cwA [0 + 3 * 2 ^ 8, 5209]
def windowP : Packet := pkt 0x8E cwA [7, 0x40000, 0x1000]

theorem test_witness_AdminCommands :
    (AdminNext preemptP 0x87 headA (admin preemptP rig) ∧ (taskNamed (admin preemptP rig) none preemptP.w10).map (fun e => (e.1, e.2.state, e.2.request)) =
      some (placedTask, .running, none)) ∧
    (AdminNext resetP 0x88 headA (admin resetP rig) ∧ ((admin resetP rig).core 0).inReset = false ∧ resetTops (admin resetP rig) 0 = [placedTask] ∧
      placedRoot.restart = false) ∧
    (AdminNext countersP 0x89 headA (admin countersP counting) ∧ OnlyBits 0xFFFFF countersP.w10 ∧
      ctxReach (admin countersP counting) 0 Need.load 0x30000 512 = true ∧
      Laid (admin countersP counting) countersP headA 0 0 0x30000 512 Need.load (fun k => 0x30000 + k)) ∧
    (AdminNext attestP 0x8B headA (admin attestP rig) ∧ (admin attestP rig).hub.zeroised = false ∧ attestP.w38 = 0) ∧
    (AdminNext attestP 0x8B headA (admin attestP (onH (fun h => { h with zeroised := true }) rig)) ∧
      (admin attestP (onH (fun h => { h with zeroised := true }) rig)).hub.zeroised = true) ∧
    (AdminNext policyP 0x8C headA (admin policyP rig) ∧ policyP.w10.toNat ≤ 2) ∧
    (AdminNext limitP 0x8D headA (admin limitP rig) ∧ OnlyBits 0x1FF03 limitP.w10 ∧ blockIndexed 0 3 = true ∧
      limitP.w18.toNat ≤ blockLimit 0 3) ∧
    (AdminNext windowP 0x8E headA (admin windowP rig) ∧ windowP.w10.toNat < 8 ∧ windowP.w20.toNat % 64 = 0) := by
  unfold OnlyBits
  refine ⟨⟨adminNext_of _ _ _ ?_, ?_⟩, ⟨adminNext_of _ _ _ ?_, ?_⟩, ⟨adminNext_of _ _ _ ?_, ?_, ?_, laid_of _ _ _ _ _ _ _ _ ?_⟩,
    ⟨adminNext_of _ _ _ ?_, ?_⟩, ⟨adminNext_of _ _ _ ?_, ?_⟩, ⟨adminNext_of _ _ _ ?_, ?_⟩, ⟨adminNext_of _ _ _ ?_, ?_⟩,
    ⟨adminNext_of _ _ _ ?_, ?_⟩⟩ <;> decide +kernel

/-- The report lies apart from what the packet is taken with. -/
theorem test_witness_AdminCommands_report (a : Nat) (h : Within a attestP.w30.toNat 1536) : Untouched attestP headA a := by
  have h1 : attestP.w30.toNat = Config.hostBase + 0x2000 := by decide +kernel
  have h2 : Config.hostBase = 0x8000000000000 := rfl
  unfold Within at h
  exact untouched_of _ _ (by decide +kernel) (by omega)

/-- What `DebugNext` says, as tests. -/
theorem debugNext_of (p : Packet) (op : Nat) (c : Ctx) (s : State) (h : (adminPacket s = some (headA, p) ∧ p.kind = 0x8A ∧
    s.hub.halted = false ∧ p.slotWord.toNat % 2 ^ 63 / 256 = 0 ∧ p.cw.toNat = cwA ∧ s.hub.adminWait = .none) ∧ debugOp p = op ∧ p.w10 &&& ~~~0xF000FFFFF#64 = 0 ∧
    Table.get? s.hub.ctxs (debugCtx p) = some c ∧ c.debug = true ∧ c.revoked = false) : DebugNext p op headA c s :=
  ⟨adminNext_of _ _ _ h.1, h.2.1, h.2.2.1, h.2.2.2.1, h.2.2.2.2⟩

def debugCtx0 : Ctx := { placedCtx with debug := true, stops := [⟨5, true, false⟩], edits := [edit0] }
/-- The group a command names, without it: its core and its slot. -/
def namedAt (p : Packet) (s : State) : Option (Nat × Nat) := (debugGroup (admin p s) p).map (fun e => (e.1, e.2.1))
def debugSize : Nat := (debugBytes (admin readP (debugging true)) readP).length

theorem test_witness_AdminCommands_debug :
    (DebugNext setStopP 0 headA debugCtx0 (admin setStopP (debugging false)) ∧ setStopP.w18.toNat < 2 ^ 26) ∧
    (DebugNext clearStopP 1 headA debugCtx0 (admin clearStopP (debugging false)) ∧ clearStopP.w18.toNat < 2 ^ 26) ∧
    (DebugNext haltP 2 headA debugCtx0 (admin haltP (debugging false)) ∧ namedAt haltP (debugging false) = some (0, 0)) ∧
    (DebugNext readP 3 headA debugCtx0 (admin readP (debugging true)) ∧ debugHalted (admin readP (debugging true)) readP = true ∧
      bufferThere (admin readP (debugging true)) readP Need.store debugSize = true ∧
      ctxReach (admin readP (debugging true)) (debugCtx readP) Need.store readP.w28.toNat readP.w30.toNat = true ∧ debugSize ≤ readP.w30.toNat) ∧
    (DebugNext stageP 4 headA debugCtx0 (admin stageP (debugging false)) ∧ namedAt stageP (debugging false) = some (0, 0) ∧
      bufferThere (admin stageP (debugging false)) stageP Need.load 24 = true ∧
      stagedEdits (admin stageP (debugging false)) stageP = some [⟨placedTask, 0, 0, 6, 0, 0, [0x99, 0, 0, 0, 0, 0, 0, 0]⟩] ∧
      Laid (admin stageP (debugging false)) stageP headA 0 0 0x31000 24 Need.load (fun k => 0x31000 + k)) ∧
    (DebugNext commitP 5 headA debugCtx0 (admin commitP (debugging true)) ∧ debugHalted (admin commitP (debugging true)) commitP = true ∧
      edit0.data.length = 8) ∧
    (DebugNext resumeP 6 headA debugCtx0 (admin resumeP (debugging true)) ∧ namedAt resumeP (debugging true) = some (0, 0)) := by
  refine ⟨⟨debugNext_of _ _ _ _ ?_, ?_⟩, ⟨debugNext_of _ _ _ _ ?_, ?_⟩, ⟨debugNext_of _ _ _ _ ?_, ?_⟩, ⟨debugNext_of _ _ _ _ ?_, ?_⟩,
    ⟨debugNext_of _ _ _ _ ?_, ?_, ?_, ?_, laid_of _ _ _ _ _ _ _ _ ?_⟩, ⟨debugNext_of _ _ _ _ ?_, ?_⟩, ⟨debugNext_of _ _ _ _ ?_, ?_⟩⟩ <;> decide +kernel

/-- The buffer of the read lies in one page. -/
theorem test_witness_AdminCommands_buffer :
    Laid (admin readP (debugging true)) readP headA 0 0 0x32000 debugSize Need.store (fun k => 0x32000 + k) :=
  laid_of _ _ _ _ _ _ _ _ (by decide +kernel)

/-- The commands' effects (R292, R312, R315, R316, R334, R338 to R340). -/
theorem test_admin_commands :
    gives (exec (.preempt preemptP) (admin preemptP rig)) (fun t => (Table.get? t.tasks placedTask).map (fun x => x.request.isSome) = some true) ∧
    gives (exec (.coreReset resetP) (admin resetP rig)) (fun t => (t.core 0).inReset && t.hub.adminWait = .reset 0 (BitVec.ofNat 64 cwA) &&
      (Table.get? t.tasks placedTask).map (fun x => (x.state, x.xstat)) = some (.unwinding, 5)) ∧
    endsWith (exec (.counters countersP) (admin countersP counting)) 0 0 (fun t => (Table.get? (t.core 0).sets 0).map (fun y =>
      (y.selects.getD 0 0, y.derived.getD 0 0, y.runs.getD 0 9, y.counters.getD 0 0)) = some (0x21, 0x77, 0, 9)) ∧
    endsWith (exec (.attest attestP) (admin attestP (onH (fun h => { h with zeroised := true }) rig))) 8 0 (fun _ => true) ∧
    endsWith (exec (.alarmPolicy policyP) (admin policyP rig)) 0 0 (fun t => t.hub.policy = 2) ∧
    endsWith (exec (.powerLimit limitP) (admin limitP rig)) 0 5209 (fun t => Table.get? t.hub.limits 3 = some 5209) ∧
    endsWith (exec (.helasWindow windowP) (admin windowP rig)) 0 0 (fun t => t.hub.port 7 = ⟨false, 0x40000, 0x1000, 0⟩) := by
  refine ⟨?_, ?_, ?_, ?_, ?_, ?_, ?_⟩ <;> decide +kernel

/-- The DEBUG operations' effects (R315, R316, R334). -/
theorem test_debug_commands :
    endsWith (exec (.debugSetStop setStopP) (admin setStopP (debugging false))) 0 0 (fun t => (Table.get? t.hub.ctxs 0).map Ctx.stops = some [⟨5, true, true⟩]) ∧
    endsWith (exec (.debugClearStop clearStopP) (admin clearStopP (debugging false))) 0 0 (fun t => (Table.get? t.hub.ctxs 0).map Ctx.stops = some []) ∧
    endsWith (exec (.debugHaltCommand haltP) (admin haltP (debugging false))) 0 0 (fun t => after (.next t) (fun g => g.haltReq)) ∧
    endsWith (exec (.debugRead readP) (admin readP (debugging true))) 0 0 (fun t => wordAt t.mem 0x32000 1 = 1) ∧
    endsWith (exec (.debugStageEdit stageP) (admin stageP (debugging false))) 0 0 (fun t => (Table.get? t.hub.ctxs 0).map (fun c => c.edits.map Edit.reg) = some [5, 6]) ∧
    endsWith (exec (.debugCommit commitP) (admin commitP (debugging true))) 0 0 (fun t => after (.next t) (fun g => g.sval 0 5 = 0x201)) ∧
    endsWith (exec (.debugResume resumeP) (admin resumeP (debugging true))) 0 0 (fun t => after (.next t) (fun g => !g.halted)) := by
  refine ⟨?_, ?_, ?_, ?_, ?_, ?_, ?_⟩ <;> decide +kernel

/-! The updates that follow a packet, and the further hypotheses of the admin statements. -/

/-- A queue, and the admin queue, with the part `n` of an update due. -/
def retiring (n : Nat) : State := onH (fun h => { h with queues := [(0, { queue0 with retire := n })] }) (queued fenceP rig)
def retiringAdmin (n : Nat) : State := onH (fun h => { h with adminRetire := n, adminAt := h.admq, admq := 0 }) (admin policyP rig)

theorem test_witness_retire :
    (∀ n ∈ [1, 2, 3], (ringPlace (retiring n) { queue0 with retire := n }).map Prod.fst = some Config.hostBase ∧
      (retiring n).tarn = [] ∧ openB (retiring n) (Config.hostBase + 0x400) 8 = true) ∧
    (∀ n ∈ [1, 2, 3], (retiringAdmin n).hub.adminRetire ≠ 0 ∧ (retiringAdmin n).hub.adminAt + 64 ≤ Config.mereBase ∧
      openB (retiringAdmin n) (Config.hostBase + 0xC00) 8 = true) := by decide +kernel

/-- The head, then the slot, then v (R335). -/
theorem test_retire : gives (perform (.retire (some 0)) (retiring 1)) (fun t => wordAt t.mem (Config.hostBase + 0x18) 8 = 1 &&
      wordAt t.mem (Config.hostBase + 0x400) 8 = 2 ^ 63 + 11 && (Table.get? t.hub.queues 0).map Queue.retire = some 2) ∧
    gives (perform (.retire (some 0)) { retiring 2 with mem := dwords (retiring 2).mem (Config.hostBase + 0x18) [1] }) (fun t =>
      wordAt t.mem (Config.hostBase + 0x400) 8 = 11) ∧
    gives (perform (.retire none) (retiringAdmin 1)) (fun t => wordAt t.mem (Config.hostBase + 0x818) 8 = 1 && t.hub.adminRetire = 2) := by
  decide +kernel

/-- The ring of queue 0 with its one packet, at its head or behind an empty slot; a ring whose page is absent. -/
def ringState : State := admin destroyP (queued fenceP rig)
def holed : State := admin destroyP (withRing Config.hostBase 0x70400 (Config.hostBase + 0x440) fenceP
  (onH (fun h => { h with queues := [(0, queue0)] }) rig))
def ringAway : State := admin destroyP (withRing Config.hostBase 0x50000 0 { fenceP with slotWord := 0 }
  (onH (fun h => { h with queues := [(0, queue0)] }) rig))
def ringSlot (i : Nat) : Option Nat := some (Config.hostBase + 0x400 + 64 * (i % 2))

/-- What `RingHolds` says, as tests. -/
theorem ringHolds_of (s : State) (f : Nat → Option Nat) (h : physOf s 0 0 0x70000 Need.load = some Config.hostBase ∧
    wordAt s.mem Config.hostBase 8 % 2 ^ 56 % 64 = 0 ∧ wordAt s.mem (Config.hostBase + 8) 8 % 32 = 1 ∧
    wordAt s.mem (Config.hostBase + 0x18) 8 = 0 ∧ (∀ i, i < 2 →
      physOf s 0 0 (wordAt s.mem Config.hostBase 8 % 2 ^ 56 + 64 * ((0 + i) % 2)) Need.load = f i)) (hf : f = (fun _ => none) ∨ f = ringSlot)
    (ho : ∀ i, i < 2 → openB s (Config.hostBase + 0x400 + 64 * i) 8 = true) : RingHolds s queue0 Config.hostBase 0 1 f := by
  have hb : Config.hostBase = 0x8000000000000 := rfl
  have hm : Config.mereBase = 0xF000000000000 := rfl
  refine ⟨h.1, by omega, h.2.1, ⟨h.2.2.1.symm, by decide, by decide⟩, h.2.2.2.1.symm, h.2.2.2.2, ?_, ?_⟩
  · intro i a hi ha
    rcases hf with rfl | rfl
    · cases ha
    · cases ha
      have h2 : i % 2 = i := Nat.mod_eq_of_lt hi
      rw [h2]
      refine ⟨by omega, ?_, open_of _ _ _ (ho i hi)⟩
      unfold Disjoint64
      omega
  · intro i j a c hi hj hne ha hc
    rcases hf with rfl | rfl
    · cases ha
    · cases ha
      cases hc
      unfold Disjoint64
      omega

theorem test_witness_Contexts_ring : RingHolds ringState queue0 Config.hostBase 0 1 ringSlot ∧ RingHolds holed queue0 Config.hostBase 0 1 ringSlot ∧
    RingHolds ringAway queue0 Config.hostBase 0 1 (fun _ => none) ∧ (fullPositions ringState 1 ringSlot).map Prod.fst = [0] ∧
    (fullPositions holed 1 ringSlot).map Prod.fst = [1] ∧
    (∀ s ∈ [holed, ringAway], AdminNext destroyP 0x83 headA s ∧ Table.get? s.hub.queues 0 = some queue0 ∧ s.tarn = []) := by
  refine ⟨ringHolds_of _ _ ?_ (.inr rfl) ?_, ringHolds_of _ _ ?_ (.inr rfl) ?_, ringHolds_of _ _ ?_ (.inl rfl) ?_, ?_, ?_, ?_⟩
  case refine_9 =>
    intro s hs
    simp only [List.mem_cons, List.not_mem_nil, or_false] at hs
    rcases hs with rfl | rfl <;> exact ⟨adminNext_of _ _ _ (by decide +kernel), by decide +kernel, by decide +kernel⟩
  all_goals decide +kernel

theorem test_witness_Contexts_apart : Disjoint64 Config.hostBase headA.block ∧
    ∀ i a, i < 2 → ringSlot i = some a → Disjoint64 a headA.block := by
  have h2 : Config.hostBase = 0x8000000000000 := rfl
  have h3 : headA.block = Config.hostBase + 0x800 := rfl
  refine ⟨.inl (by omega), fun i a hi ha => ?_⟩
  cases ha
  unfold Disjoint64
  omega

/-- A packet behind an empty slot completes ABORTED and the head goes past it; slots whose page is absent stay to be examined
(R333). -/
theorem test_destroy_ring :
    gives (exec (.queueDestroy destroyP) holed) (fun t => wordAt t.mem (Config.hostBase + 0x18) 8 = 2 && t.hub.ops.map HubOp.wait = [.word 8 0 false] &&
      (Table.get? t.hub.queues 0).map Queue.flush = some (some [])) ∧
    gives (exec (.queueDestroy destroyP) ringAway) (fun t => wordAt t.mem (Config.hostBase + 0x18) 8 = 0 && t.hub.ops.isEmpty &&
      (Table.get? t.hub.queues 0).map Queue.flush = some (some [0, 1])) := by decide +kernel

theorem test_witness_admin_open : openB (admin createP rig) 0x32000 64 = true ∧ openB (admin setP withDebug) 0x31000 64 = true ∧
    openB (admin attestP rig) (Config.hostBase + 0x2000) 1536 = true := by decide +kernel

/-- Edits of each class, on a group that has what they name. -/
def editOf (cls reg unit : Nat) (data : List Byte) : Edit := ⟨placedTask, 0, cls, reg, unit, 0, data⟩
theorem test_witness_edits : (frameList placedGroup)[0]?.map Prod.fst = some 0 ∧ (placedGroup.lanes 0 3).length = 32 ∧
    (Table.get? placedGroup.tiles 2).isSome = true ∧ (placedGroup.readT 2).bytes.length = 1536 ∧
    (Table.get? placedGroup.accs 2).isSome = true ∧ (placedGroup.readA 2).vals.length = 256 ∧ placedGroup.entries.length = 1 := by decide +kernel

/-- A vector lane, part of a predicate, a tile unit, an accumulator unit, a PC (R316, R334). -/
theorem test_edits : laneAt ((placedGroup.applyEdit (editOf 1 3 31 [1, 2, 3, 4])).lanes 0 3) 31 = 0x04030201 ∧
    ((placedGroup.putP 4 ⟨0xFFFFFFFF, false⟩).applyEdit (editOf 2 4 0 [0, 1])).pval 4 = 0xFFFF0100 ∧
    ((placedGroup.applyEdit (editOf 3 2 23 [9])).readT 2).bytes.getD 1472 0 = 9 ∧
    ((placedGroup.applyEdit (editOf 4 2 1 [9])).readA 2).vals.getD 16 0 = 9 ∧
    (placedGroup.applyEdit (editOf 5 0 0 [7, 1, 0, 0, 0, 0, 0, 0])).splits.map Split.pc = [0x104] := by decide +kernel

/-! Further clauses of the statements above. -/

/-- Two finite numbers in order, and a pattern with its sign apart. -/
theorem test_witness_FloatSpecials_order : IsFinite fp16 0xBC00 ∧ IsFinite fp16 0x3C00 ∧ fScaled fp16 0xBC00 < fScaled fp16 0x3C00 ∧
    fScaled fp32 0xBF800000 < 0 ∧ (0x3C00 : Nat) < 2 ^ (fp16.eb + fp16.fb) ∧ 0xBC00 = fSign fp16 true + 0x3C00 ∧
    fDecode fp16 0xBC00 ≠ .nan := by
  unfold IsFinite
  decide +kernel

/-- The special operands of VRCP, VRSQ, VEXP2 and VLOG2, and of the least and the greatest (R97, R153). -/
theorem test_specials : fRcp .zero 0x80000000 = 0xFF800000 ∧ fRsq .up 0xBF800000 = 0x7FC00000 ∧ fExp2 .down 0xFF800000 = 0 ∧
    fLog2 .nearest 0 = 0xFF800000 ∧ fMinMax fp32 false 0 0x80000000 = 0x80000000 ∧ fMinMax fp32 true 0x7FC00000 0x3F800000 = 0x3F800000 := by
  decide +kernel

/-- A bystander, the selected split of origin 5, one of that origin that waits here in the table and one spilled. -/
def mergers : State := { onG (fun g => { g with
    origins := [(5, 0)]
    splits := g.splits.flatMap (fun sp => [{ sp with mask := 0xFF000000, pc := 0x10020 }, { sp with mask := 0xFF00, origin := 5 },
      { sp with mask := 0xFF, origin := 5, state := .meet, meet := 0x10000, mrem := 9 }])
    spilled := [{ (view rig).split with mask := 0xFF0000, origin := 5, state := .meet, meet := 0x10000, mrem := 9 }] }) rig with
  cur := some ⟨0, 0, 1⟩ }
def merging (n : Nat) : Split := (view mergers).group.entries.getD n noSplit

theorem test_witness_Meets_general : Ready .meet (view mergers) mergers ∧ (view mergers).sel.idx = 1 ∧
    (view mergers).split.origin = 5 ∧ (view mergers).group.entries.length = 4 ∧
    (∀ n, n < 4 → n ≠ 1 → if (view mergers).group.ofOrigin 5 (merging n) = true
      then (merging n).state = .meet ∧ (merging n).meet = (view mergers).split.pc ∧ (merging n).frame = (view mergers).fr ∧
        (merging n).inHandler = (view mergers).split.inHandler else (merging n).state ≠ .meet) ∧
    (view mergers).group.splits = [merging 0] ++ merging 1 :: [merging 2] ∧ (view mergers).group.ofOrigin 5 (merging 1) = true ∧
    (view mergers).group.ofOrigin 5 (merging 0) = false ∧ (view mergers).group.handler = false ∧
    merging 2 ∈ (view mergers).group.entries ∧ (merging 2).mask ≠ 0 ∧ (view mergers).group.ofOrigin 5 (merging 2) = true ∧
    (∀ n, n < 4 → (view mergers).group.ofOrigin 5 (merging n) = true → merging n = merging 2 ∨
      lowLane (merging 2).mask < lowLane (merging n).mask) := by decide +kernel

/-- All of them are one entry in the place of the oldest resident part (R116, R118, R123). -/
theorem test_meet_general : after (exec .meet mergers) (fun g => g.spilled.isEmpty && g.origins.isEmpty &&
    g.splits.map (fun sp => (sp.mask, sp.pc, sp.state)) = [(0xFF000000, 0x10020, .ready), (0xFFFFFF, 0x10004, .ready)]) = true := by
  decide +kernel

/-- A second group whose split waits in the Tarn with an access of a given instruction. -/
def besides (i : Instr) (s : State) : State := { onC (fun k => { k with groups := k.groups ++ [(1, { group0 rig with
    gid := 1, splits := [{ (view rig).split with state := .parked, wait := .tarn (accessOf (view rig) i) }] })] }) s with
  tarn := [⟨0x40000, .split 0 1 0⟩] }

theorem test_witness_FullEmptyWords_walk :
    (∀ i ∈ [Instr.fput .die 6 2, .ffill .die 6 2], Ready i (view (besides (.ftake .die 41 2) rig)) (besides (.ftake .die 41 2) rig) ∧
      Settled (view (besides (.ftake .die 41 2) rig)) ∧ isFull (besides (.ftake .die 41 2) rig) 0x40000 = false ∧
      requestsOf (view (besides (.ftake .die 41 2) rig)) i = [⟨0, 0x40000, 7, 0⟩] ∧
      grantedB (view (besides (.ftake .die 41 2) rig)) (besides (.ftake .die 41 2) rig) i = true ∧
      ((besides (.ftake .die 41 2) rig).group? 0 1).map (fun g => (g.atLane 0).map Split.wait) =
        some (some (.tarn (accessOf (view rig) (.ftake .die 41 2)))) ∧
      (whoOfLane (besides (.ftake .die 41 2) rig) 0 1 0).isSome = true) ∧
    (Ready (.ftake .die 40 2) (view (besides (.fput .die 6 2) stocked)) (besides (.fput .die 6 2) stocked) ∧
      Settled (view (besides (.fput .die 6 2) stocked)) ∧ isFull (besides (.fput .die 6 2) stocked) 0x40000 = true ∧
      OneWord (view (besides (.fput .die 6 2) stocked)) (besides (.fput .die 6 2) stocked) (.ftake .die 40 2) ⟨0, 0x40000, 0, 0⟩ 0x40000 ∧
      Clean (besides (.fput .die 6 2) stocked) 0x40000 8 ∧ openB (besides (.fput .die 6 2) stocked) 0x40000 8 = true ∧
      (accessOf (view rig) (.fput .die 6 2)).reqs = [⟨0, 0x40000, 7, 0⟩] ∧
      ((besides (.fput .die 6 2) stocked).group? 0 1).map (fun g => (g.atLane 0).map Split.wait) =
        some (some (.tarn (accessOf (view rig) (.fput .die 6 2)))) ∧
      (whoOfLane (besides (.fput .die 6 2) stocked) 0 1 0).isSome = true) := by
  refine ⟨by decide +kernel, by decide +kernel, by decide +kernel, by decide +kernel, oneWord_of _ _ _ _ _ ?_, ?_, ?_, ?_, ?_, ?_⟩ <;>
    (try unfold Clean) <;> decide +kernel

/-- An FPUT meets a waiting FTAKE: the word is empty again and the value on its way to s41; an FTAKE meets a waiting FPUT: the
word is full of its value and that split goes on (R226). -/
theorem test_full_empty_walk :
    gives (exec (.fput .die 6 2) (besides (.ftake .die 41 2) rig)) (fun t => t.full.isEmpty && t.tarn.isEmpty &&
      loadAt t 0 = some ([(0, 7)], 0, 0) && wordAt t.mem 0x40000 8 = 7) ∧
    gives (exec (.ftake .die 40 2) (besides (.fput .die 6 2) stocked)) (fun t => t.full = [0x8000] && t.tarn.isEmpty &&
      loadAt t 0 = some ([(0, 0x1234)], 0, 0) && wordAt t.mem 0x40000 8 = 7 &&
      (t.group? 0 1).map (fun g => g.splits.map Split.state) = some [.ready]) := by decide +kernel

/-- A store through the physical view to the first bytes of the tile that an outstanding MM reads. -/
def tileStore : State := onH (fun h => { h with ctxs := [(0, { placedCtx with mereP := true })] })
  (onC (fun k => { k with mats := [{ mmPass with started := false }] })
    (onG (fun g => withScalars [(13, Config.mereAlias + 0x10000000)] (mine g)) matrixRig))

theorem storeElem_first (c : Nat) : storeElem c 1 (modelElem c 1 0) = 0 := by
  unfold storeElem modelElem
  generalize Config.storePick c 1 = p
  have h : fileSize 1 = 96 ∨ 0 < fileSize 1 := .inr (by decide)
  have h0 : 0 < fileSize 1 := by decide
  generalize fileSize 1 = n at *
  have h1 := Nat.mod_lt p h0
  rw [Nat.zero_add, show p % n + n - p % n = n by omega, Nat.mod_self]

theorem test_witness_MatrixIssue_tile : isStore (.st .dword 6 13) = true ∧ Ready (.st .dword 6 13) (view tileStore) tileStore ∧
    Granted (view tileStore) tileStore (.st .dword 6 13) ∧
    (∀ r ∈ requestsOf (view tileStore) (.st .dword 6 13), placed (view tileStore) tileStore (.st .dword 6 13) r = true) ∧
    (view tileStore).core.mats = [{ mmPass with started := false }] ∧
    tileOf (view tileStore).core (view tileStore).sel.core { mmPass with started := false } = some (0, modelElem 0 1 0) ∧
    ∃ a ∈ storedCells (view tileStore) tileStore (.st .dword 6 13),
      Within a.1 (Config.mereBase + 0 * 2 ^ 36 + 0x10000000 + 2048 * storeElem 0 1 (modelElem 0 1 0)) 1536 := by
  refine ⟨rfl, ⟨⟨by decide +kernel, by decide +kernel, by rfl⟩, by decide +kernel⟩, granted_of _ _ _ (by decide +kernel), by decide +kernel, by rfl, by rfl, ?_⟩
  rw [storeElem_first]
  unfold Within
  decide +kernel

/-- Behind a write of the tile that issued after the first MM, the second MM is a pass of its own; behind one before it, not
(R255). -/
theorem test_passes_written :
    gives (exec (.mm 0 108 0) { upperLanes with tileWrites := [(tileKey (0, ((group0 upperLanes).readT 0).elem), 4)] })
      (fun t => (t.core 0).mats.map MatOp.pass = [3, matrixRig.fresh]) ∧
    gives (exec (.mm 0 108 0) { upperLanes with tileWrites := [(tileKey (0, ((group0 upperLanes).readT 0).elem), 3)] })
      (fun t => (t.core 0).mats.map MatOp.pass = [3, 3]) := by decide +kernel

/-- An MMM one unit of whose image is poisoned; a tile load of it, and one of a page that is absent. -/
def poisonedImage (o : MatOp) : State := { matState o with poison := [0x305C0 / 64] }
def absentLoad : MatOp := { tileLoad with bva := 0x50000 }

theorem test_witness_MatrixEnds_poison :
    (InArray (poisonedImage mmmRuns) 0 0 0 mmmRuns (group0 (poisonedImage mmmRuns)) ∧
      passOf ((poisonedImage mmmRuns).core 0) mmmRuns.pass = [mmmRuns] ∧
      rangeTrouble (poisonedImage mmmRuns) mmmRuns.who Need.load mmmRuns.bva.toNat 1536 = [] ∧
      (∀ k, k < 1536 → physOf (poisonedImage mmmRuns) mmmRuns.who.ctx mmmRuns.who.asid (mmmRuns.bva.toNat + k) Need.load =
        some (0x30000 + k)) ∧ (poisonedImage mmmRuns).poison.contains ((0x30000 + 1535) / 64) = true) ∧
    (((poisonedImage tileLoad).core 0).mats[0]? = some tileLoad ∧ ((poisonedImage tileLoad).core 0).owns tileLoad.who = true) ∧
    (((matState absentLoad).core 0).mats[0]? = some absentLoad ∧ ((matState absentLoad).core 0).owns absentLoad.who = true ∧
      ∀ k, k < 1536 → physOf (matState absentLoad) absentLoad.who.ctx absentLoad.who.asid (absentLoad.bva.toNat + k) Need.load = none) := by
  refine ⟨⟨inArray_of ?_, ?_⟩, ?_, ?_⟩ <;> decide +kernel

/-- Each quarter of the MMM takes cause 2; a poisoned image leaves p15 its lanes, and an absent page gives zeros and takes them
(R261, R263). -/
theorem test_matrix_poison :
    after (exec (.matrixDrain 0 0 0 0 0) (poisonedImage mmmRuns)) (fun g => g.mfaults.map (fun f => (f.quarter, f.cause)) = [(0, 2), (2, 2)] &&
      (g.readA 0).vals.getD 0 0 = 0x3F800000) ∧
    after (exec (.tldComplete 0 0 0) (poisonedImage tileLoad)) (fun g => g.pval 15 = 0xFFFFFFFF) ∧
    after (exec (.tldComplete 0 0 0) (matState absentLoad)) (fun g => (g.readT 0).bytes.getD 0 9 = 0 && g.pval 15 = 0) := by decide +kernel

/-- The ENQ rig with another base and size in its control block; its block in a page without M; the slot's word full too. -/
def enqBlock (base size : Nat) : State := { enqRig with
  mem := Memory.putAll enqRig.mem (cellsOf 0x40000 8 base ++ cellsOf 0x40008 8 size) }
def enqPage : State := onG (withScalars [(13, 0x30000)]) enqRig
def enqTaken : State := { enqRig with full := [0x40010 / 8, 0x40140 / 8] }

theorem test_witness_Enqueue_block :
    (Ready (.enq 40 13 1) (view enqPage) enqPage ∧ HasHandler (view enqPage) ∧ (view enqPage).ui 13 % 64 = 0 ∧ (view enqPage).ui 1 % 64 = 0 ∧
      rangeBad (enqPage.drainStores 0) 0 0 (view enqPage).tid Need.load ((view enqPage).ui 1) 64 = none ∧
      rangeBad (enqPage.drainStores 0) 0 0 (view enqPage).tid enqNeed ((view enqPage).ui 13) 64 ≠ none) ∧
    (∀ e ∈ [(0x40108, 1), (0x40100, 0), (0x40100, 17), (0x30000, 1)], Ready (.enq 40 13 1) (view (enqBlock e.1 e.2)) (enqBlock e.1 e.2) ∧
      HasHandler (view (enqBlock e.1 e.2)) ∧
      rangeBad ((enqBlock e.1 e.2).drainStores 0) 0 0 (view (enqBlock e.1 e.2)).tid Need.load ((view (enqBlock e.1 e.2)).ui 1) 64 = none ∧
      rangeBad ((enqBlock e.1 e.2).drainStores 0) 0 0 (view (enqBlock e.1 e.2)).tid enqNeed ((view (enqBlock e.1 e.2)).ui 13) 64 = none ∧
      (∀ k, k < 16 → physOf ((enqBlock e.1 e.2).drainStores 0) 0 0 ((view (enqBlock e.1 e.2)).ui 13 + k) Need.load = some (0x40000 + k)) ∧
      rangeAbsent ((enqBlock e.1 e.2).drainStores 0) 0 0 enqNeed 2 ((view (enqBlock e.1 e.2)).ui 13) ((view (enqBlock e.1 e.2)).ui 13 + 64) = [] ∧
      dwordAt ((enqBlock e.1 e.2).drainStores 0) 0 0 0x40000 % 2 ^ 56 = e.1 ∧
      dwordAt ((enqBlock e.1 e.2).drainStores 0) 0 0 0x40008 % 32 = e.2) ∧
    rangeBad ((enqBlock 0x30000 1).drainStores 0) 0 0 (view (enqBlock 0x30000 1)).tid enqNeed 0x30000 (64 * 2 ^ 1) = some 0x30000 := by
  refine ⟨?_, ?_, ?_⟩ <;> decide +kernel

theorem test_witness_Enqueue_slot : Ready (.enq 40 13 1) (view enqTaken) enqTaken ∧ Settled (view enqTaken) ∧ enqTaken.tarn = [] ∧
    (view enqTaken).group.atLane (lowLane (view enqTaken).m) = some (view enqTaken).split ∧
    enqTrap enqTaken (view enqTaken).who ((view enqTaken).rs 13) ((view enqTaken).rs 1) = none ∧
    enqAbsent enqTaken (view enqTaken).who ((view enqTaken).rs 13) ((view enqTaken).rs 1) = [] ∧
    ringOf enqTaken (view enqTaken).task.ctx (view enqTaken).task.asid ((view enqTaken).ui 13) = some ⟨0x40010, 0x40100, 2⟩ ∧
    isFull enqTaken 0x40010 = true ∧ Clean enqTaken 0x40010 8 ∧
    physOf enqTaken (view enqTaken).task.ctx (view enqTaken).task.asid (0x40100 + 64 * (1 % 2)) Need.fill = some 0x40140 ∧
    isFull enqTaken 0x40140 = true ∧ tarnRoom enqTaken 0x40140 = true := by
  unfold Clean
  decide +kernel

/-- A block or a ring that may not be used traps with cause 6; with the slot's word full the tail is put back and the split
waits on the slot (R273). -/
theorem test_enqueue_block : after (exec (.enq 40 13 1) enqPage) (fun g => g.tca = 6 && g.tval = 0x30000) ∧
    after (exec (.enq 40 13 1) (enqBlock 0x40108 1)) (fun g => g.tca = 6 && g.tval = 0x40108) ∧
    after (exec (.enq 40 13 1) (enqBlock 0x40100 17)) (fun g => g.tca = 6 && g.tval = 0x40100) ∧
    after (exec (.enq 40 13 1) (enqBlock 0x30000 1)) (fun g => g.tca = 6 && g.tval = 0x30000) ∧
    gives (exec (.enq 40 13 1) enqTaken) (fun t => t.full = [0x40010 / 8, 0x40140 / 8] && wordAt t.mem 0x40010 8 = 1 &&
      t.tarn = [⟨0x40140, .split 0 0 0⟩] && after (.next t) (fun g => g.splits.map Split.state = [.parked])) := by decide +kernel

/-- A handle of another incarnation in s15, one of a slot that holds no task in s16. -/
def stale : State := onG (withScalars [(15, Config.poolBase + 1), (16, Config.poolBase + 256)]) handles

theorem test_witness_MessagesSent_gone : (∀ a ∈ [15, 16],
      (∀ i ∈ [Instr.grant 40 a 6, .cancel 40 a, .signal a], Ready i (view stale) stale) ∧ Settled (view stale) ∧
      namedBy stale (view stale).task.ctx (view stale).task.asid ((view stale).rs a) = .gone ∧ ((view stale).rs a).toNat < 2 ^ 56 ∧
      inPool (((view stale).rs a).toNat / 256 * 256) = true) ∧
    Table.get? stale.tasks (Config.poolBase + 256) = none ∧ (Table.get? stale.tasks Config.poolBase).isSome = true ∧
    inPool 0x12300 = false ∧ Table.get? stale.tasks (rootKey 0 0x12300) = none := by decide +kernel

/-- SIGNAL of a task that is gone only goes on; GRANT of one is on its way to none (R167, R183). -/
theorem test_messages_gone : gives (exec (.signal 15) stale) (fun t => t.msgs.isEmpty && after (.next t) (fun g => g.splits.map Split.pc = [0x10004])) ∧
    gives (exec (.grant 40 16 6) stale) (fun t => t.msgs.map (fun m => (m.kind, m.target)) = [(.grant 7, none)]) := by decide +kernel

/-- A message whose issuer's split waits for the answer in s40, its target gone or there. -/
def asked (k : MsgKind) (target : Option Nat) : State := onS (fun sp => { sp with state := .parked, wait := .wellspring 40 })
  { family id with msgs := [⟨k, target, 0, some placedTask, some (0, 0, 0, 0, 40), none, 2⟩] }
def askedMsg (k : MsgKind) (target : Option Nat) : Msg := ⟨k, target, 0, some placedTask, some (0, 0, 0, 0, 40), none, 2⟩

theorem test_witness_MessagesApplied_answers :
    (∀ e ∈ [(MsgKind.grant 5, (none : Option Nat)), (.grant 5, some Config.poolBase), (.cancel, none)],
      (asked e.1 e.2).msgs[0]? = some (askedMsg e.1 e.2) ∧ served (asked e.1 e.2) (askedMsg e.1 e.2) = true ∧
      (askedMsg e.1 e.2).inTurn (asked e.1 e.2) = true ∧ ((asked e.1 e.2).core 0).ggenOf 0 = 0 ∧
      ((asked e.1 e.2).group? 0 0).map (fun g => (g.task, (g.atLane 0).isSome, g.out)) = some (placedTask, true, false)) ∧
    stillNamed (asked (.grant 5) none) none 0 = none ∧
    (stillNamed (asked (.grant 5) (some Config.poolBase)) (some Config.poolBase) 0).map (fun y => (y.state, decide (y.alw = Config.unmetered))) =
      some (.armed, false) ∧
    (Table.get? (asked (.grant 5) none).tasks placedTask).map (fun z => (z.state, decide (z.alw + 5 ≤ Config.maxMetered))) = some (.running, true) := by
  decide +kernel

theorem test_witness_MessagesApplied_turns :
    (∀ e ∈ [(MsgKind.cancel, Config.poolBase, placedTask), (.signal, Config.poolBase, placedTask), (.ret 9 5, placedTask, Config.poolBase)],
      served (mail e.1 e.2.1 e.2.2 id) ⟨e.1, some e.2.1, 0, some e.2.2, none, none, 2⟩ = true ∧
      (⟨e.1, some e.2.1, 0, some e.2.2, none, none, 2⟩ : Msg).inTurn (mail e.1 e.2.1 e.2.2 id) = true) ∧
    placedTask ≠ Config.poolBase ∧ (childTask id).isSweep = false := by decide +kernel

/-- GRANT to a task that is gone answers 1 and gives the units back, to one that is there 0; CANCEL of one that is gone answers
7 (R181, R187). -/
theorem test_answers :
    gives (exec (.grantApply 0) (asked (.grant 5) none)) (fun t => after (.next t) (fun g => g.sval 0 40 = 1 && g.splits.map Split.pc = [0x10004]) &&
      (Table.get? t.tasks placedTask).map Task.alw = some 1005) ∧
    after (exec (.grantApply 0) (asked (.grant 5) (some Config.poolBase))) (fun g => g.sval 0 40 = 0) ∧
    after (exec (.cancelApply 0) (asked .cancel none)) (fun g => g.sval 0 40 = 7) := by decide +kernel

/-- The saved task whose split was parked at an empty, or at a full, channel when it was saved. -/
def parkedGroup (w : Wait) : SavedGroup := { savedGroup with group := { savedGroup.group with splits := savedGroup.group.splits.map (fun sp =>
  { sp with state := .parked, wait := w }) } }
def parkedTask (w : Wait) (full : List VReg) : Task := { savedTask with saved := [parkedGroup w], chans := [(2, ⟨1, 0, 0, full, 0, 0, [], []⟩)] }
def parkedAway (w : Wait) (full : List VReg) : State := { preempted with tasks := [(placedTask, parkedTask w full)] }

theorem test_witness_Saves_parked : ∀ e ∈ [(Wait.pop 2 119, ([] : List VReg)), (.push 2 (lanes id), [lanes id])],
    queueHead (parkedAway e.1 e.2) 0 = some (placedTask, parkedTask e.1 e.2) ∧ ((parkedAway e.1 e.2).core 0).inReset = false ∧
    setFits (parkedAway e.1 e.2) 0 0 = true ∧ residents (parkedAway e.1 e.2) 0 < 64 ∧
    imageSound (parkedAway e.1 e.2) placedTask (parkedTask e.1 e.2) = true ∧
    (parkedAway e.1 e.2).poisonIn (areaPhys (imageOf placedTask)) (parkedTask e.1 e.2).imageBytes.length = false ∧
    (parkedGroup e.1).group.task = placedTask ∧ (Table.keys (parkedGroup e.1).group.frames).Nodup ∧
    (allot (parkedAway e.1 e.2) 0 [0] ((parkedGroup e.1).group.granules + chanGranules (parkedTask e.1 e.2).chans)
      (parkedGroup e.1).group.frames.length (parkedGroup e.1).group.tiles.length (parkedGroup e.1).group.accs.length).isSome = true ∧
    (parkedGroup e.1).group.entries.map (fun sp => (sp.wait, sp.state)) = [(e.1, .parked)] ∧
    (chanOf (parkedTask e.1 e.2) 2).full = e.2 ∧ (chanOf (parkedTask e.1 e.2) 2).pushers = [] ∧ (chanOf (parkedTask e.1 e.2) 2).poppers = [] := by
  decide +kernel

/-- The restored split waits at its channel again (R297). -/
theorem test_restore_parked :
    gives (exec (.crewRestore 0) (parkedAway (.pop 2 119) [])) (fun t => (Table.get? t.tasks placedTask).map (fun y =>
      ((chanOf y 2).poppers, (chanOf y 2).pushers)) = some ([(0, 0)], [])) ∧
    gives (exec (.crewRestore 0) (parkedAway (.push 2 (lanes id)) [lanes id])) (fun t => (Table.get? t.tasks placedTask).map (fun y =>
      ((chanOf y 2).poppers, (chanOf y 2).pushers)) = some ([], [(0, 0)])) := by decide +kernel

/-- The words of a stack's moves lie in a whole area; an open window without a loaded set. -/
theorem test_witness_Regions_words : (deep 16).areaMeets (pennantAreaOf 0 0) (4 * (16 - 16)) 4 = none ∧
    (deep 17).areaMeets (pennantAreaOf 0 0) (4 * (17 - 17)) 4 = none := by decide +kernel

def windowOnly : State := onC (fun k => { k with sets := [], lastCtr := [(0, List.replicate 16 7)] }) capturing
theorem test_witness_WaitsAndHints_set : Ready (.rdctr 40 15) (view windowOnly) windowOnly ∧
    (Table.get? windowOnly.hub.ctxs (view windowOnly).task.ctx).map Ctx.capture = some (some 0) ∧
    Table.get? (view windowOnly).core.sets (view windowOnly).task.ctx = none := by decide +kernel
/-- RDCTR gives the value last written back (R314). -/
theorem test_rdctr_set : after (exec (.rdctr 40 15) windowOnly) (fun g => g.sval 0 40 = 7) = true := by decide +kernel

end Sys2Proof.Tests
end

section
/-! PROOFS. Memory stays in its canonical form (O50): of every operation that makes up a step, either that it leaves memory as
it was (`_mem`), or that it keeps the form (`_wf`), in the order of the model's definitions; then of every step. -/

namespace Sys2Proof.Machine

/-! What a choice between states leaves, and folds. -/

@[simp] theorem State.mem_ite (c : Prop) [Decidable c] (a b : State) :
    (if c then a else b).mem = if c then a.mem else b.mem := by split <;> rfl
@[simp] theorem Memory.wf_ite (c : Prop) [Decidable c] (a b : List Host.Cell) :
    Memory.wf (if c then a else b) = if c then Memory.wf a else Memory.wf b := by split <;> rfl

/-- A fold of steps that leave memory leaves it. -/
@[simp] theorem State.mem_foldl {α : Type} (f : State → α → State) (l : List α) (s : State)
    (hf : ∀ s x, (f s x).mem = s.mem) : (l.foldl f s).mem = s.mem := by
  induction l generalizing s with
  | nil => rfl
  | cons x xs ih => rw [List.foldl_cons, ih, hf]

/-- A fold of steps that keep the form keeps it, as the `_wf` lemmas state it: in the unfolded form of `State.canonical`, in
which the `_mem` lemmas rewrite. -/
@[simp] theorem State.wf_foldl {α : Type} (f : State → α → State) (l : List α) (s : State)
    (hf : ∀ s x, Memory.wf s.mem → Memory.wf (f s x).mem) (h : Memory.wf s.mem) : Memory.wf (l.foldl f s).mem :=
  State.canonical_foldl f hf l s h

/-- As `State.wf_foldl`, of a fold that carries a second value. -/
theorem foldl_fst_wf {α β : Type} (f : State × β → α → State × β) (hf : ∀ r x, Memory.wf r.1.mem → Memory.wf (f r x).1.mem)
    (l : List α) (r : State × β) (h : Memory.wf r.1.mem) : Memory.wf (l.foldl f r).1.mem := by
  induction l generalizing r with
  | nil => exact h
  | cons x xs ih => exact ih _ (hf r x h)

/-! The writers of `Laws/Memory`, in that form. -/

@[simp] theorem State.putBytes_wf (s : State) (pa : Nat) (bs : List Byte) (h : Memory.wf s.mem) :
    Memory.wf (s.putBytes pa bs).mem := putBytes_canonical s pa bs h
@[simp] theorem writeRaw_wf (s : State) (cells : List (Nat × Byte)) (h : Memory.wf s.mem) :
    Memory.wf (writeRaw s cells).mem := writeRaw_canonical s cells h
@[simp] theorem writeCells_wf (s : State) (cells : List (Nat × Byte)) (h : Memory.wf s.mem) :
    Memory.wf (writeCells s cells).mem := writeCells_canonical s cells h
@[simp] theorem writeWord_wf (s : State) (pa : Nat) (x : W64) (h : Memory.wf s.mem) : Memory.wf (writeWord s pa x).mem :=
  writeWord_canonical s pa x h
@[simp] theorem State.storeTask_wf (s : State) (tid : Nat) (t : Task) (h : Memory.wf s.mem) :
    Memory.wf (s.storeTask tid t).mem := storeTask_canonical s tid t h
@[simp] theorem State.taskOp_wf (s : State) (tid : Nat) (f : Task → Task) (h : Memory.wf s.mem) :
    Memory.wf (s.taskOp tid f).mem := taskOp_canonical s tid f h
@[simp] theorem State.drainStores_wf (s : State) (c : Nat) (h : Memory.wf s.mem) : Memory.wf (s.drainStores c).mem :=
  drainStores_canonical s c h

/-! Where a step may answer no state, or something beside it: the form of the state that it answers. -/

/-- The next state, where there is one, has memory in canonical form. -/
def canonicalSome (o : Option State) : Prop := ∀ t, o = some t → Memory.wf t.mem
/-- The next state of an outcome, where there is one, has memory in canonical form. -/
def canonicalNext (r : Result) : Prop := ∀ t, r = .next t → Memory.wf t.mem
/-- The state that an instruction's effect leaves has memory in canonical form. -/
def Act.canonical : Act → Prop
  | .next s | .goto _ s | .placed s => Memory.wf s.mem
  | .trap _ _ | .trapAfter _ _ => True
/-- The state that an access leaves has memory in canonical form. -/
def Shown.canonical : Shown → Prop
  | .done s | .held s _ => Memory.wf s.mem
  | .trap _ _ | .absent _ => True
/-- The state that SPAWN's answer leaves has memory in canonical form. -/
def Spawned.canonical : Spawned → Prop
  | .answer s _ => Memory.wf s.mem
  | .trap _ | .absent _ => True
/-- The state that an admin command leaves has memory in canonical form. -/
def Answer.canonical : Answer → Prop
  | .done s _ _ | .wait s _ => Memory.wf s.mem

section
variable (s : State) (c : Prop) [Decidable c]

@[simp] theorem canonicalSome_none : canonicalSome none := fun _ h => nomatch h
@[simp] theorem canonicalSome_some : canonicalSome (some s) ↔ Memory.wf s.mem := by simp [canonicalSome]
@[simp] theorem canonicalSome_ite (a b : Option State) :
    canonicalSome (if c then a else b) ↔ (c → canonicalSome a) ∧ (¬c → canonicalSome b) := by split <;> simp [*]
@[simp] theorem canonicalSome_map {α : Type} (f : α → State) (o : Option α) :
    canonicalSome (o.map f) ↔ ∀ x, o = some x → Memory.wf (f x).mem := by cases o <;> simp
@[simp] theorem canonicalSome_bind {α : Type} (f : α → Option State) (o : Option α) :
    canonicalSome (o.bind f) ↔ ∀ x, o = some x → canonicalSome (f x) := by cases o <;> simp
@[simp] theorem canonicalSome_orElse (a : Option State) (b : Unit → Option State) :
    canonicalSome (a.orElse b) ↔ canonicalSome a ∧ (a = none → canonicalSome (b ())) := by cases a <;> simp
@[simp] theorem canonicalSome_or (a b : Option State) :
    canonicalSome (a.or b) ↔ canonicalSome a ∧ (a = none → canonicalSome b) := by cases a <;> simp
@[simp] theorem canonicalSome_findSome {α : Type} (f : α → Option State) (l : List α) (h : ∀ x, canonicalSome (f x)) :
    canonicalSome (l.findSome? f) := by
  intro t ht
  obtain ⟨x, _, hx⟩ := List.exists_of_findSome?_eq_some ht
  exact h x t hx
@[simp] theorem canonicalSome_getD (o : Option State) (ho : canonicalSome o) (h : Memory.wf s.mem) :
    Memory.wf (o.getD s).mem := by
  cases o with
  | none => exact h
  | some t => exact ho t rfl

@[simp] theorem canonicalNext_next : canonicalNext (.next s) ↔ Memory.wf s.mem := by simp [canonicalNext]
@[simp] theorem canonicalNext_fault (r : Fault) : canonicalNext (.fault r) := fun _ h => nomatch h
@[simp] theorem canonicalNext_refused (r : Refusal) : canonicalNext (.refused r) := fun _ h => nomatch h
@[simp] theorem canonicalNext_ite (a b : Result) :
    canonicalNext (if c then a else b) ↔ (c → canonicalNext a) ∧ (¬c → canonicalNext b) := by split <;> simp [*]

@[simp] theorem Act.canonical_next : (Act.next s).canonical ↔ Memory.wf s.mem := .rfl
@[simp] theorem Act.canonical_goto (pc : W64) : (Act.goto pc s).canonical ↔ Memory.wf s.mem := .rfl
@[simp] theorem Act.canonical_placed : (Act.placed s).canonical ↔ Memory.wf s.mem := .rfl
@[simp] theorem Act.canonical_trap (n : Nat) (x : W64) : (Act.trap n x).canonical := trivial
@[simp] theorem Act.canonical_trapAfter (n : Nat) (x : W64) : (Act.trapAfter n x).canonical := trivial
@[simp] theorem Act.canonical_ite (a b : Act) :
    (if c then a else b).canonical ↔ (c → a.canonical) ∧ (¬c → b.canonical) := by split <;> simp [*]

@[simp] theorem Shown.canonical_done : (Shown.done s).canonical ↔ Memory.wf s.mem := .rfl
@[simp] theorem Shown.canonical_held (w : Wait) : (Shown.held s w).canonical ↔ Memory.wf s.mem := .rfl
@[simp] theorem Shown.canonical_trap (n : Nat) (x : W64) : (Shown.trap n x).canonical := trivial
@[simp] theorem Shown.canonical_absent (vas : List Nat) : (Shown.absent vas).canonical := trivial
@[simp] theorem Shown.canonical_ite (a b : Shown) :
    (if c then a else b).canonical ↔ (c → a.canonical) ∧ (¬c → b.canonical) := by split <;> simp [*]

@[simp] theorem Spawned.canonical_answer (x : W64) : (Spawned.answer s x).canonical ↔ Memory.wf s.mem := .rfl
@[simp] theorem Spawned.canonical_trap (n : Nat) : (Spawned.trap n).canonical := trivial
@[simp] theorem Spawned.canonical_absent (vas : List Nat) : (Spawned.absent vas).canonical := trivial
@[simp] theorem Spawned.canonical_ite (a b : Spawned) :
    (if c then a else b).canonical ↔ (c → a.canonical) ∧ (¬c → b.canonical) := by split <;> simp [*]

@[simp] theorem Answer.canonical_done (n k : Nat) : (Answer.done s n k).canonical ↔ Memory.wf s.mem := .rfl
@[simp] theorem Answer.canonical_wait (w : AdminWait) : (Answer.wait s w).canonical ↔ Memory.wf s.mem := .rfl
@[simp] theorem Answer.canonical_ite (a b : Answer) :
    (if c then a else b).canonical ↔ (c → a.canonical) ∧ (¬c → b.canonical) := by split <;> simp [*]

end

/-! `Machine/Memory`. -/

@[simp] theorem State.noteTiles_mem (s : State) (hits : Nat → Nat → Bool) : (s.noteTiles hits).mem = s.mem := by
  simp [State.noteTiles]

/-! `Machine/Ops`. -/

@[simp] theorem State.endCycle_mem (s : State) : s.endCycle.mem = s.mem := by simp [State.endCycle]
@[simp] theorem State.storeArea_wf (s : State) (n : Nat) (bs : List Byte) (hs : Memory.wf s.mem) :
    Memory.wf (s.storeArea n bs).mem := by simp [State.storeArea, hs]
@[simp] theorem State.writeRecord_wf (s : State) (r : FaultRec) (hs : Memory.wf s.mem) :
    Memory.wf (s.writeRecord r).mem := by simp [State.writeRecord, hs]
@[simp] theorem State.addRecord_wf (s : State) (r : FaultRec) (hs : Memory.wf s.mem) : Memory.wf (s.addRecord r).mem := by
  simp [State.addRecord, hs]
@[simp] theorem State.addRecords_wf (s : State) (c : Nat) (w : Who) (kind op : Nat) (vas : List Nat)
    (hs : Memory.wf s.mem) : Memory.wf (s.addRecords c w kind op vas).mem := by
  unfold State.addRecords
  simp +contextual [hs]

@[simp] theorem State.freeSlot_wf (s : State) (tid : Nat) (hs : Memory.wf s.mem) : Memory.wf (s.freeSlot tid).mem := by
  unfold State.freeSlot
  split <;> simp [hs]

@[simp] theorem State.withdraw_mem (s : State) (c slot lane tid : Nat) : (s.withdraw c slot lane tid).mem = s.mem := by
  simp [State.withdraw]
@[simp] theorem State.endGroup_mem (s : State) (c slot : Nat) : (s.endGroup c slot).mem = s.mem := by
  unfold State.endGroup
  split <;> simp

@[simp] theorem State.stopGroup_mem (s : State) (c slot : Nat) : (s.stopGroup c slot).mem = s.mem := by
  unfold State.stopGroup
  split <;> simp

@[simp] theorem State.stopTask_wf (s : State) (root tid : Nat) (hs : Memory.wf s.mem) :
    Memory.wf (s.stopTask root tid).mem := by
  unfold State.stopTask
  split <;> simp [hs]

@[simp] theorem State.beginUnwind_wf (s : State) (tid status : Nat) (hs : Memory.wf s.mem) :
    Memory.wf (s.beginUnwind tid status).mem := by
  unfold State.beginUnwind
  (repeat' split) <;> simp +contextual [hs]

@[simp] theorem State.stopOrdered_wf (s : State) (root tid : Nat) (hs : Memory.wf s.mem) :
    Memory.wf (s.stopOrdered root tid).mem := by
  unfold State.stopOrdered
  simp +contextual [hs]

@[simp] theorem endRoots_wf (test : Task → Bool) (status : Nat) (s : State) (hs : Memory.wf s.mem) :
    Memory.wf (endRoots test status s).mem := by
  unfold endRoots
  refine State.wf_foldl _ _ _ (fun t e ht => ?_) hs
  (repeat' split) <;> simp [ht]

@[simp] theorem loseContext_wf (ctx : Nat) (s : State) (hs : Memory.wf s.mem) : Memory.wf (loseContext ctx s).mem := by
  simp [loseContext, hs]
@[simp] theorem exhaust_wf (v : View) (cost : Nat) (s : State) (hs : Memory.wf s.mem) :
    Memory.wf (exhaust v cost s).mem := by simp [exhaust, hs]
@[simp] theorem endByTrap_wf (v : View) (cause : Nat) (pc tval : W64) (s : State) (hs : Memory.wf s.mem) :
    Memory.wf (endByTrap v cause pc tval s).mem := by simp [endByTrap, hs]
@[simp] theorem State.noteTrap_mem (s : State) : s.noteTrap.mem = s.mem := by
  unfold State.noteTrap
  split <;> simp

@[simp] theorem trapEntry_wf (sel : Sel) (cause : Nat) (tpc tval : W64) (s : State) (hs : Memory.wf s.mem) :
    Memory.wf (trapEntry sel cause tpc tval s).mem := by
  unfold trapEntry
  split <;> simp [hs]

@[simp] theorem undoDebit_mem (v : View) (s : State) : (undoDebit v s).mem = s.mem := by
  unfold undoDebit
  split <;> simp

@[simp] theorem takeTrap_wf (sel : Sel) (cause : Nat) (tval : W64) (s : State) (hs : Memory.wf s.mem) :
    Memory.wf (takeTrap sel cause tval s).mem := by
  unfold takeTrap
  split <;> simp [hs]

@[simp] theorem State.deliverMatrix_mem (s : State) (sel : Sel) (f : MatFault) : (s.deliverMatrix sel f).mem = s.mem := by
  simp [State.deliverMatrix]
@[simp] theorem chargeIssue_wf (v : View) (cost : Nat) (s : State) (hs : Memory.wf s.mem) :
    Memory.wf (chargeIssue v cost s).mem := by simp [chargeIssue, hs]
@[simp] theorem setPc_mem (sel : Sel) (pc : W64) (s : State) : (setPc sel pc s).mem = s.mem := by simp [setPc]
@[simp] theorem issueFrom_wf (i : Instr) (body : View → State → Act) (v : View) (s : State)
    (hbody : ∀ (v : View) (s : State), Memory.wf s.mem → (body v s).canonical) (hs : Memory.wf s.mem) :
    Memory.wf (issueFrom i body v s).mem := by
  have hc : Memory.wf (chargeIssue v (costOf v i) s).mem := by simp [hs]
  have hb := hbody v _ hc
  unfold issueFrom
  dsimp only
  split
  · simp [hs]
  · split
    · simp [hs]
    · cases e : body v (chargeIssue v (costOf v i) s) <;> rw [e] at hb <;> simp_all

@[simp] theorem issueAt_wf (i : Instr) (go : View → State → State) (v : View) (s : State)
    (hgo : ∀ (v : View) (s : State), Memory.wf s.mem → Memory.wf (go v s).mem) (hs : Memory.wf s.mem) :
    Memory.wf (issueAt i go v s).mem := by
  unfold issueAt
  (repeat' split) <;> simp [hgo, hs]

@[simp] theorem State.dropScalars_mem (lost : List Nat) (v : View) (g0 : Group) (s t : State) :
    (State.dropScalars lost v g0 s t).mem = t.mem := by simp [State.dropScalars]
@[simp] theorem State.dropElements_mem (v : View) (found : List MatOp) (s t : State) :
    (State.dropElements v found s t).mem = t.mem := by simp [State.dropElements]
@[simp] theorem State.keepFirst_mem (i : Instr) (v : View) (x : Together) (s t : State) :
    (State.keepFirst i v x s t).mem = t.mem := by
  unfold State.keepFirst
  (repeat' split) <;> simp

@[simp] theorem State.endIssue_mem (i : Instr) (v : View) (s t : State) : (State.endIssue i v s t).mem = t.mem := by
  unfold State.endIssue
  split <;> simp

@[simp] theorem issueWith_wf (i : Instr) (go : View → State → State) (s : State)
    (hgo : ∀ (v : View) (s : State), Memory.wf s.mem → Memory.wf (go v s).mem) (hs : Memory.wf s.mem) :
    canonicalNext (issueWith i go s) := by
  unfold issueWith
  (repeat' split) <;> simp +contextual [hgo, hs]

@[simp] theorem issue_wf (i : Instr) (body : View → State → Act) (s : State)
    (hbody : ∀ (v : View) (s : State), Memory.wf s.mem → (body v s).canonical) (hs : Memory.wf s.mem) :
    canonicalNext (issue i body s) := by
  exact issueWith_wf _ _ _ (fun _ _ h => issueFrom_wf _ _ _ _ hbody h) hs

@[simp] theorem canonicalNext_event (e : Option State) : canonicalNext (event e) ↔ canonicalSome e := by
  cases e <;> simp [event]

/-! `Machine/Splits`. -/

@[simp] theorem State.storeSplitArea_wf (s : State) (c slot : Nat) (hs : Memory.wf s.mem) :
    Memory.wf (s.storeSplitArea c slot).mem := by
  unfold State.storeSplitArea
  split <;> simp [hs]

@[simp] theorem areaTurn_wf (s : State) (hs : Memory.wf s.mem) : canonicalSome (areaTurn s) := by simp [areaTurn, hs]
@[simp] theorem State.syncArea_wf (c slot : Nat) (before : Group) (s : State) (hs : Memory.wf s.mem) :
    Memory.wf (State.syncArea c slot before s).mem := by simp [State.syncArea, hs]
@[simp] theorem State.meetArea_wf (s : State) (met : Option AreaState) (c slot area kind : Nat) (w : Who)
    (go : State → State) (hs : Memory.wf s.mem) (hgo : ∀ s : State, Memory.wf s.mem → Memory.wf (go s).mem) :
    Memory.wf (s.meetArea met c slot area kind w go).mem := by
  unfold State.meetArea
  split <;> simp [hs, hgo]

@[simp] theorem State.areaMove_wf (s : State) (c slot area kind : Nat) (w : Who) (go : State → State)
    (hs : Memory.wf s.mem) (hgo : ∀ s : State, Memory.wf s.mem → Memory.wf (go s).mem) :
    Memory.wf (s.areaMove c slot area kind w go).mem := by
  unfold State.areaMove
  simp +contextual [hs, hgo]

@[simp] theorem withArea_wf (v : View) (area lo len cost : Nat) (go : State → Act) (s : State)
    (hgo : ∀ s : State, Memory.wf s.mem → (go s).canonical) (hs : Memory.wf s.mem) :
    (withArea v area lo len cost go s).canonical := by
  unfold withArea
  split <;> simp [hgo, hs]

@[simp] theorem State.joinOrders_mem (c slot : Nat) (mask : W32) (s : State) :
    (State.joinOrders c slot mask s).mem = s.mem := by simp [State.joinOrders]
@[simp] theorem State.mergeMeets_wf (c slot n : Nat) (s : State) (hs : Memory.wf s.mem) :
    Memory.wf (State.mergeMeets c slot n s).mem := by
  induction n generalizing s with
  | zero => exact hs
  | succ n ih =>
    unfold State.mergeMeets
    (repeat' split)
    · exact hs
    · exact hs
    · exact ih _ (by simp [hs])

/-! `Machine/Image`. -/

@[simp] theorem State.storeImage_wf (s : State) (tid : Nat) (hs : Memory.wf s.mem) :
    Memory.wf (s.storeImage tid).mem := by
  unfold State.storeImage
  split <;> simp [hs]

@[simp] theorem imageTurn_wf (s : State) (hs : Memory.wf s.mem) : canonicalSome (imageTurn s) := by simp [imageTurn, hs]
@[simp] theorem State.storeFrameArea_wf (s : State) (c slot : Nat) (hs : Memory.wf s.mem) :
    Memory.wf (s.storeFrameArea c slot).mem := by
  unfold State.storeFrameArea
  split <;> simp [hs]

/-! `Machine/Scalar`. -/

@[simp] theorem scalarBody_wf (d : Nat) (x : View → W64) (v : View) (s : State) (hs : Memory.wf s.mem) :
    (scalarBody d x v s).canonical := by simp [scalarBody, hs]
@[simp] theorem divideBody_wf (d a b : Nat) (f : W64 → W64 → W64) (v : View) (s : State) (hs : Memory.wf s.mem) :
    (divideBody d a b f v s).canonical := by simp [divideBody, hs]

/-! `Machine/Control`. -/

@[simp] theorem brvSplit_wf (v : View) (taken : W32) (target : W64) (s : State) (hs : Memory.wf s.mem) :
    Memory.wf (brvSplit v taken target s).mem := by simp [brvSplit, hs]
@[simp] theorem brvBody_wf (idx : Nat) (off : BitVec 19) (v : View) (s : State) (hs : Memory.wf s.mem) :
    (brvBody idx off v s).canonical := by
  unfold brvBody
  (repeat' split) <;> simp +contextual [hs]

@[simp] theorem requestFrame_mem (i : Instr) (v : View) (d : Nat × Bool) (s : State) :
    (requestFrame i v d s).mem = s.mem := by simp [requestFrame]
@[simp] theorem issueOrRequest_wf (i : Instr) (body : View → State → Act) (v : View) (s : State)
    (hbody : ∀ (v : View) (s : State), Memory.wf s.mem → (body v s).canonical) (hs : Memory.wf s.mem) :
    Memory.wf (issueOrRequest i body v s).mem := by
  unfold issueOrRequest
  (repeat' split) <;> simp +contextual [hbody, hs]

@[simp] theorem allocFrame_mem (v : View) (fr : Nat) (grans : List Nat) (s : State) :
    (allocFrame v fr grans s).mem = s.mem := by simp [allocFrame]
@[simp] theorem callBody_wf (demand : Nat) (t : W64) (v : View) (s : State) (hs : Memory.wf s.mem) :
    (callBody demand t v s).canonical := by
  unfold callBody
  split <;> simp [hs]

@[simp] theorem callDirect_wf (demand : Nat) (off : BitVec 18) (v : View) (s : State) (hs : Memory.wf s.mem) :
    (callDirect demand off v s).canonical := by simp [callDirect, hs]
@[simp] theorem callIndirect_wf (demand a : Nat) (v : View) (s : State) (hs : Memory.wf s.mem) :
    (callIndirect demand a v s).canonical := by
  unfold callIndirect
  split <;> simp [hs]

@[simp] theorem leaveFrames_mem (v : View) (dest : Nat) (s : State) : (leaveFrames v dest s).mem = s.mem := by
  unfold leaveFrames
  dsimp only
  split <;> simp

@[simp] theorem retBody_wf (v : View) (s : State) (hs : Memory.wf s.mem) : (retBody v s).canonical := by
  unfold retBody
  split <;> simp [hs]

@[simp] theorem unwindBody_wf (a : Nat) (v : View) (s : State) (hs : Memory.wf s.mem) : (unwindBody a v s).canonical := by
  unfold unwindBody
  dsimp only
  (repeat' split) <;> simp [hs]

@[simp] theorem fgrowBody_wf (k : Nat) (v : View) (s : State) (hs : Memory.wf s.mem) : (fgrowBody k v s).canonical := by
  unfold fgrowBody
  split <;> simp [hs]

@[simp] theorem fshrinkBody_wf (k : Nat) (v : View) (s : State) (hs : Memory.wf s.mem) :
    (fshrinkBody k v s).canonical := by simp [fshrinkBody, hs]
@[simp] theorem meetBody_wf (v : View) (s : State) (hs : Memory.wf s.mem) : (meetBody v s).canonical := by
  unfold meetBody
  dsimp only
  (repeat' split) <;> simp [hs]

theorem grantHead_mem (c : Nat) (s : State) (r : FrameReq) (v : View) (t : State) (e : grantHead c s = some (r, v, t)) :
    t.mem = s.mem := by
  unfold grantHead at e
  dsimp only at e
  (repeat' split at e)
  · cases e
  · cases e
  · cases e
  · simp only [Option.map_eq_some_iff, Prod.mk.injEq] at e
    obtain ⟨_, _, _, _, rfl⟩ := e
    simp

@[simp] theorem runGranted_wf (i : Instr) (v : View) (s : State) (hs : Memory.wf s.mem) :
    Memory.wf (runGranted i v s).mem := by
  unfold runGranted
  (repeat' split) <;> simp +contextual [hs]

@[simp] theorem frameGrant_wf (c : Nat) (s : State) (hs : Memory.wf s.mem) : canonicalSome (frameGrant c s) := by
  unfold frameGrant
  split
  · simp
  · next r v s1 e =>
    have h1 := grantHead_mem _ _ _ _ _ e
    dsimp only
    split
    · simp only [canonicalSome_some]
      exact issueAt_wf _ _ _ _ (fun v s h => runGranted_wf _ _ _ h) (by rw [h1]; exact hs)
    · simp

@[simp] theorem grantShared_wf (c : Nat) (s0 : State) (n : Nat) (s : State) (hs : Memory.wf s.mem) :
    Memory.wf (grantShared c s0 n s).mem := by
  induction n generalizing s with
  | zero => exact hs
  | succ n ih =>
    unfold grantShared
    split
    · exact hs
    · next r v s1 e =>
      dsimp only
      split
      · exact ih _ (runGranted_wf _ _ _ (by rw [grantHead_mem _ _ _ _ _ e]; exact hs))
      · exact hs

/-! `Machine/Vector`. -/

@[simp] theorem vectorBody_wf (d : Nat) (f : View → Nat → W32) (v : View) (s : State) (hs : Memory.wf s.mem) :
    (vectorBody d f v s).canonical := by simp [vectorBody, hs]
@[simp] theorem clippingBody_wf (d : Nat) (f : View → Nat → W32 × Bool) (v : View) (s : State) (hs : Memory.wf s.mem) :
    (clippingBody d f v s).canonical := by simp [clippingBody, hs]
@[simp] theorem laneDivideBody_wf (d a b : Nat) (f : W32 → W32 → W32) (v : View) (s : State) (hs : Memory.wf s.mem) :
    (laneDivideBody d a b f v s).canonical := by simp [laneDivideBody, hs]
@[simp] theorem predicateBody_wf (d : Nat) (f : View → W32) (v : View) (s : State) (hs : Memory.wf s.mem) :
    (predicateBody d f v s).canonical := by simp [predicateBody, hs]

/-! `Machine/FullEmpty`. -/

@[simp] theorem State.crossed_mem (s : State) (c ctx : Nat) (pas : List Nat) : (s.crossed c ctx pas).mem = s.mem := by
  simp [State.crossed]
@[simp] theorem answerSplit_wf (s : State) (c slot lane d : Nat) (x : W64) (hs : Memory.wf s.mem) :
    Memory.wf (answerSplit s c slot lane d x).mem := by simp [answerSplit, hs]
@[simp] theorem writeCopied_wf (s : State) (all : List (Nat × Byte × Bool)) (hs : Memory.wf s.mem) :
    Memory.wf (writeCopied s all).mem := by
  unfold writeCopied
  apply State.canonical_foldl _ (fun t e ht => mereWrite_canonical t _ _ _ _ ht)
  unfold State.canonical
  rw [mereDrop_mem]
  exact Memory.wf_putAll _ hs

@[simp] theorem parkOnFaults_wf (s : State) (c slot lane : Nat) (w : Who) (a : Access) (vas : List Nat)
    (hs : Memory.wf s.mem) : Memory.wf (parkOnFaults s c slot lane w a vas).mem := by simp [parkOnFaults, hs]
@[simp] theorem enqPark_mem (s : State) (c slot lane d : Nat) (block image : W64) (deadline : Nat) (onTail : Bool)
    (pa : Nat) : (enqPark s c slot lane d block image deadline onTail pa).mem = s.mem := by simp [enqPark]
@[simp] theorem enqTurn_wf (s : State) (c slot lane d : Nat) (block image : W64) (deadline : Nat) (hs : Memory.wf s.mem) :
    Memory.wf (enqTurn s c slot lane d block image deadline).1.mem := by
  unfold enqTurn
  dsimp only
  (repeat' split) <;> try simp [hs]
  refine answerSplit_wf _ _ _ _ _ _ (writeWord_wf _ _ _ ?_)
  rw [setFull_mem]
  exact writeCopied_wf _ _ (by simp [hs])

theorem trySplit_wf (s : State) (pa c slot lane : Nat) (hs : Memory.wf s.mem) (r : State × List Nat)
    (e : trySplit s pa c slot lane = some r) : Memory.wf r.1.mem := by
  unfold trySplit at e
  (repeat' split at e) <;> simp at e <;> obtain ⟨-, rfl⟩ | rfl := e <;> simp [hs]

theorem tryHub_wf (s : State) (pa op : Nat) (hs : Memory.wf s.mem) (r : State × List Nat)
    (e : tryHub s pa op = some r) : Memory.wf r.1.mem := by
  unfold tryHub at e
  (repeat' split at e) <;> simp at e <;> subst e <;> simp [hs]

theorem tryEntry_wf (s : State) (x : TarnEntry) (hs : Memory.wf s.mem) (r : State × List Nat)
    (e : tryEntry s x = some r) : Memory.wf r.1.mem := by
  unfold tryEntry at e
  split at e
  · exact trySplit_wf _ _ _ _ _ hs _ e
  · exact tryHub_wf _ _ _ hs _ e

@[simp] theorem walkPass_wf (l : List TarnEntry) (s : State) (words : List Nat) (any : Bool) (hs : Memory.wf s.mem) :
    Memory.wf (walkPass l s words any).1.mem := by
  induction l generalizing s words any with
  | nil => exact hs
  | cons x xs ih =>
    unfold walkPass
    split
    · next r e => exact ih _ _ _ (tryEntry_wf { s with tarn := s.tarn.erase x } _ hs _ e)
    · exact ih _ _ _ hs

@[simp] theorem walkWords_wf (n : Nat) (l : List Nat) (s : State) (hs : Memory.wf s.mem) : Memory.wf (walkWords n l s).mem := by
  induction n generalizing l s with
  | zero => exact hs
  | succ n ih =>
    cases l with
    | nil => exact hs
    | cons pa rest =>
      unfold walkWords
      dsimp only
      split
      · exact ih _ _ (walkPass_wf _ _ _ _ hs)
      · exact ih _ _ hs

@[simp] theorem walk_wf (words : List Nat) (s : State) (hs : Memory.wf s.mem) : Memory.wf (walk words s).mem := by
  simp [walk, hs]
@[simp] theorem firmwareWord_wf (s : State) (pa : Nat) (x : W64) (hs : Memory.wf s.mem) :
    Memory.wf (firmwareWord s pa x).mem := by simp [firmwareWord, hs]
@[simp] theorem fillWord_wf (s : State) (pa : Nat) (x : W64) (hs : Memory.wf s.mem) :
    Memory.wf (fillWord s pa x).mem := by simp [fillWord, hs]

/-! `Machine/LoadStore`. -/

@[simp] theorem showLoad_wf (s : State) (c : Nat) (w : Who) (frame : Nat) (a : Access) (hs : Memory.wf s.mem) :
    (showLoad s c w frame a).canonical := by simp [showLoad, hs]
@[simp] theorem showStore_wf (s : State) (c : Nat) (w : Who) (a : Access) (hs : Memory.wf s.mem) :
    (showStore s c w a).canonical := by simp [showStore, hs]
@[simp] theorem atomicSteps_wf (w : Who) (a : Access) (l : List LaneReq) (s : State) (acc : List (Nat × W64 × Option W64))
    (hs : Memory.wf s.mem) : Memory.wf (atomicSteps w a l s acc).1.mem := by
  induction l generalizing s acc with
  | nil => exact hs
  | cons r rs ih =>
    unfold atomicSteps
    split
    · exact ih _ _ hs
    · split
      · exact ih _ _ hs
      · apply ih; split
        · exact writeCells_wf _ _ hs
        · exact hs

@[simp] theorem showAtomic_wf (s : State) (c : Nat) (w : Who) (a : Access) (hs : Memory.wf s.mem) :
    (showAtomic s c w a).canonical := by simp [showAtomic, hs]
@[simp] theorem parkInTarn_wf (s : State) (c : Nat) (w : Who) (pa : Nat) (a : Access) (hs : Memory.wf s.mem) :
    (parkInTarn s c w pa a).canonical := by simp [parkInTarn, hs]
@[simp] theorem showWord_wf (s : State) (c : Nat) (w : Who) (a : Access) (hs : Memory.wf s.mem) :
    (showWord s c w a).canonical := by
  unfold showWord
  (repeat' split) <;> simp [hs]

@[simp] theorem present.presentOpen_wf (c : Nat) (w : Who) (frame : Nat) (a : Access) (s : State) (hs : Memory.wf s.mem) :
    (present.presentOpen c w frame a s).canonical := by
  unfold present.presentOpen
  (repeat' split) <;> simp [hs]

@[simp] theorem present_wf (s : State) (c : Nat) (w : Who) (frame : Nat) (a : Access) (hs : Memory.wf s.mem) :
    (present s c w frame a).canonical := by
  unfold present
  split <;> simp [hs]

@[simp] theorem accessBody_wf (i : Instr) (v : View) (s : State) (hs : Memory.wf s.mem) :
    (accessBody i v s).canonical := by
  have hp := present_wf s v.sel.core v.who v.fr (accessOf v i) hs
  unfold accessBody
  dsimp only
  split <;> simp_all

@[simp] theorem fenceBody_wf (k : FenceKind) (sc : Scope) (v : View) (s : State) (hs : Memory.wf s.mem) :
    (fenceBody k sc v s).canonical := by
  unfold fenceBody
  split <;> simp [hs]

@[simp] theorem landReturn_mem (s : State) (c : Nat) (o : LoadOp) : (landReturn s c o).mem = s.mem := by
  unfold landReturn
  dsimp only
  (repeat' split) <;> simp

@[simp] theorem loadReturn_wf (c slot n : Nat) (s : State) (hs : Memory.wf s.mem) :
    canonicalSome (loadReturn c slot n s) := by
  unfold loadReturn
  dsimp only
  (repeat' split) <;> simp [hs]

@[simp] theorem performStore_wf (c n : Nat) (lands : Bool) (s : State) (hs : Memory.wf s.mem) :
    canonicalSome (performStore c n lands s) := by
  unfold performStore
  split <;> simp [hs]

@[simp] theorem markerComplete_wf (c n : Nat) (s : State) (hs : Memory.wf s.mem) :
    canonicalSome (markerComplete c n s) := by
  unfold markerComplete
  dsimp only
  (repeat' split) <;> simp [hs]

/-! `Machine/Engines`. -/

@[simp] theorem noteTile_mem (v : View) (k : TileOp) (s : State) : (noteTile v k s).1.mem = s.mem := by
  unfold noteTile
  (repeat' split) <;> rfl

@[simp] theorem endTile_mem (s : State) (c tid : Nat) (tile ev : Option Nat) : (endTile s c tid tile ev).mem = s.mem := by
  unfold endTile
  split <;> simp

@[simp] theorem mfmtBody_wf (a : Nat) (v : View) (s : State) (hs : Memory.wf s.mem) : (mfmtBody a v s).canonical := by
  unfold mfmtBody
  dsimp only
  split <;> simp [hs]

@[simp] theorem addMat_mem (v : View) (o : MatOp) (s : State) : (addMat v o s).mem = s.mem := by simp [addMat]
@[simp] theorem mmBody_wf (d a b : Nat) (v : View) (s : State) (hs : Memory.wf s.mem) : (mmBody d a b v s).canonical := by
  unfold mmBody
  simp [hs]

@[simp] theorem matWaits_wf (s : State) (c : Nat) (o : MatOp) (vas : List Nat) (hs : Memory.wf s.mem) :
    Memory.wf (matWaits s c o vas).mem := by simp [matWaits, hs]
@[simp] theorem mmmBody_wf (d a b : Nat) (v : View) (s : State) (hs : Memory.wf s.mem) :
    (mmmBody d a b v s).canonical := by
  unfold mmmBody
  dsimp only
  (repeat' split) <;> simp [hs]

@[simp] theorem tldBody_wf (d a : Nat) (v : View) (s : State) (hs : Memory.wf s.mem) : (tldBody d a v s).canonical := by
  unfold tldBody
  dsimp only
  split <;> simp [hs]

@[simp] theorem aclrBody_wf (d : Nat) (v : View) (s : State) (hs : Memory.wf s.mem) : (aclrBody d v s).canonical := by
  simp [aclrBody, hs]
@[simp] theorem agetBody_wf (d a : Nat) (v : View) (s : State) (hs : Memory.wf s.mem) : (agetBody d a v s).canonical := by
  simp [agetBody, hs]
@[simp] theorem aputBody_wf (d a : Nat) (v : View) (s : State) (hs : Memory.wf s.mem) : (aputBody d a v s).canonical := by
  simp [aputBody, hs]
@[simp] theorem landMove_mem (c : Nat) (o : MatOp) (s : State) : (landMove c o s).mem = s.mem := by
  unfold landMove
  split <;> simp

@[simp] theorem drainOp_mem (c : Nat) (residue dual : BitVec 4) (s : State) (o : MatOp) :
    (drainOp c residue dual s o).mem = s.mem := by simp [drainOp]
@[simp] theorem matrixDrain_wf (c slot n : Nat) (residue dual : BitVec 4) (s : State) (hs : Memory.wf s.mem) :
    canonicalSome (matrixDrain c slot n residue dual s) := by
  unfold matrixDrain
  (repeat' split) <;> simp [hs]

@[simp] theorem startPass_mem (c : Nat) (o : MatOp) (s : State) : (startPass c o s).mem = s.mem := by
  unfold startPass
  dsimp only
  rw [State.mem_foldl _ _ _ (fun s x => by split <;> rfl)]
  rfl

@[simp] theorem passTurn_wf (s : State) (hs : Memory.wf s.mem) : canonicalSome (passTurn s) := by simp [passTurn, hs]
@[simp] theorem tldComplete_wf (c slot n : Nat) (s : State) (hs : Memory.wf s.mem) :
    canonicalSome (tldComplete c slot n s) := by
  unfold tldComplete
  dsimp only
  (repeat' split) <;> simp [hs]

@[simp] theorem mmmRerun_wf (c slot n : Nat) (s : State) (hs : Memory.wf s.mem) :
    canonicalSome (mmmRerun c slot n s) := by
  unfold mmmRerun
  split <;> simp [hs]

@[simp] theorem addCopy_wf (v : View) (d len cost : Nat) (rows : List CopyRow) (s : State) (hs : Memory.wf s.mem) :
    Memory.wf (addCopy v d len cost rows s).mem := by
  unfold addCopy
  dsimp only
  simp [hs]

@[simp] theorem copyStart_wf (v : View) (d len cost : Nat) (rows : List CopyRow) (s : State) (hs : Memory.wf s.mem) :
    (copyStart v d len cost rows s).canonical := by
  unfold copyStart
  split <;> simp [hs]

@[simp] theorem cpyBody_wf (d a b : Nat) (v : View) (s : State) (hs : Memory.wf s.mem) :
    (cpyBody d a b v s).canonical := by simp [cpyBody, hs]
@[simp] theorem issueUnlessFull_wf (i : Instr) (body : View → State → Act) (v : View) (s : State)
    (hbody : ∀ (v : View) (s : State), Memory.wf s.mem → (body v s).canonical) (hs : Memory.wf s.mem) :
    Memory.wf (issueUnlessFull i body v s).mem := by
  unfold issueUnlessFull
  (repeat' split) <;> simp +contextual [hbody, hs]

@[simp] theorem cpy2Body_wf (d a : Nat) (v : View) (s : State) (hs : Memory.wf s.mem) : (cpy2Body d a v s).canonical := by
  simp [cpy2Body, hs]
@[simp] theorem State.refuseUnits_wf (s : State) (moves : List (Nat × Nat)) (hs : Memory.wf s.mem) :
    Memory.wf (s.refuseUnits moves).mem := by
  unfold State.refuseUnits
  simp +contextual [hs]

@[simp] theorem State.copyUnits_wf (s : State) (c : Nat) (w : Who) (moves : List (Nat × Nat)) (hs : Memory.wf s.mem) :
    Memory.wf (s.copyUnits c w moves).mem := by simp [State.copyUnits, hs]
@[simp] theorem copyToken_wf (s : State) (c : Nat) (o : CopyOp) (hs : Memory.wf s.mem) :
    Memory.wf (copyToken s c o).mem := by simp [copyToken, hs]
@[simp] theorem copyComplete_wf (c n : Nat) (s : State) (hs : Memory.wf s.mem) : canonicalSome (copyComplete c n s) := by
  unfold copyComplete
  split <;> simp [hs]

@[simp] theorem copyCancel_wf (c n : Nat) (s : State) (hs : Memory.wf s.mem) : canonicalSome (copyCancel c n s) := by
  unfold copyCancel
  dsimp only
  (repeat' split) <;> simp [hs]

@[simp] theorem serveChan_mem (c tid ch n : Nat) (s : State) : (serveChan c tid ch n s).mem = s.mem := by
  induction n generalizing s with
  | zero => rfl
  | succ n ih =>
    unfold serveChan
    dsimp only
    (repeat' split) <;> simp [ih]

@[simp] theorem serveShared_mem (c tid ch : Nat) (s0 s : State) : (serveShared c tid ch s0 s).mem = s.mem := by
  unfold serveShared
  split <;> simp

@[simp] theorem serveCycle_mem (c : Nat) (s0 s : State) : (serveCycle c s0 s).mem = s.mem := by
  unfold serveCycle
  rw [State.mem_foldl]
  intro t x
  split
  · rfl
  · rw [State.mem_foldl]
    intro t x
    split <;> simp

@[simp] theorem pushBody_wf (a ch : Nat) (v : View) (s : State) (hs : Memory.wf s.mem) :
    (pushBody a ch v s).canonical := by simp [pushBody, hs]
@[simp] theorem popBody_wf (d ch : Nat) (v : View) (s : State) (hs : Memory.wf s.mem) : (popBody d ch v s).canonical := by
  unfold popBody
  dsimp only
  (repeat' split) <;> simp [hs]

@[simp] theorem enqBegin_wf (s : State) (c : Nat) (w : Who) (d : Nat) (block image : W64) (deadline : Nat)
    (hs : Memory.wf s.mem) : Memory.wf (enqBegin s c w d block image deadline).mem := by
  have turn : ∀ t : State, Memory.wf t.mem → Memory.wf (walk (enqTurn t c w.slot w.lane d block image deadline).2
      (enqTurn t c w.slot w.lane d block image deadline).1).mem := fun t h => walk_wf _ _ (enqTurn_wf _ _ _ _ _ _ _ _ h)
  unfold enqBegin
  dsimp only
  (repeat' split)
  · simp [hs]
  · exact turn _ (by simp [hs])
  · simp [hs]

@[simp] theorem enqBody_wf (d a b : Nat) (v : View) (s : State) (hs : Memory.wf s.mem) :
    (enqBody d a b v s).canonical := by
  unfold enqBody
  dsimp only
  (repeat' split) <;> simp [hs]

@[simp] theorem enqExpire_wf (c slot n : Nat) (s : State) (hs : Memory.wf s.mem) :
    canonicalSome (enqExpire c slot n s) := by
  unfold enqExpire
  (repeat' split) <;> simp [hs]

/-! `Machine/Tasks`. -/

@[simp] theorem State.noteTurn_mem (s : State) (c key : Nat) : (s.noteTurn c key).mem = s.mem := by simp [State.noteTurn]
@[simp] theorem State.send_mem (s : State) (m : Msg) : (s.send m).mem = s.mem := by simp [State.send]
@[simp] theorem sendAndWait_wf (v : View) (d : Nat) (h : W64) (n : Named) (k : MsgKind) (s : State) (hs : Memory.wf s.mem) :
    (sendAndWait v d h n k s).canonical := by simp [sendAndWait, hs]
@[simp] theorem grantBody_wf (d a b : Nat) (v : View) (s : State) (hs : Memory.wf s.mem) :
    (grantBody d a b v s).canonical := by
  unfold grantBody
  dsimp only
  (repeat' split) <;> simp [hs]

@[simp] theorem cancelBody_wf (d a : Nat) (v : View) (s : State) (hs : Memory.wf s.mem) :
    (cancelBody d a v s).canonical := by
  unfold cancelBody
  dsimp only
  (repeat' split) <;> simp [hs]

@[simp] theorem signalBody_wf (a : Nat) (v : View) (s : State) (hs : Memory.wf s.mem) : (signalBody a v s).canonical := by
  unfold signalBody
  dsimp only
  (repeat' split) <;> simp [hs]

@[simp] theorem State.startSweep_wf (tid : Nat) (s : State) (hs : Memory.wf s.mem) :
    Memory.wf (State.startSweep tid s).mem := by
  unfold State.startSweep
  split <;> simp [hs]

@[simp] theorem taskResident_wf (c : Nat) (s : State) (hs : Memory.wf s.mem) : canonicalSome (taskResident c s) := by
  unfold taskResident
  (repeat' split) <;> simp [hs]

@[simp] theorem State.writeTcb_wf (s : State) (key : Nat) (t : Task) (args : List Byte) (hs : Memory.wf s.mem) :
    Memory.wf (s.writeTcb key t args).mem := by
  unfold State.writeTcb
  dsimp only
  split <;> simp [hs]

@[simp] theorem State.create_wf (s : State) (key : Nat) (t : Task) (args : List Byte) (hs : Memory.wf s.mem) :
    Memory.wf (s.create key t args).mem := by simp [State.create, hs]
@[simp] theorem State.modKids_wf (s : State) (tid : Nat) (f : Nat → Nat) (hs : Memory.wf s.mem) :
    Memory.wf (s.modKids tid f).mem := by
  unfold State.modKids
  split <;> simp [hs]

@[simp] theorem spawnTask_wf (s : State) (c : Nat) (w : Who) (frame : Nat) (va amt : W64) (paid : Nat)
    (hs : Memory.wf s.mem) : (spawnTask s c w frame va amt paid).canonical := by
  unfold spawnTask
  dsimp only
  (repeat' split) <;> try simp [hs]
  all_goals exact State.modKids_wf _ _ _ (State.create_wf _ _ _ _ (by simp [hs]))

@[simp] theorem spawnBody_wf (d a b : Nat) (v : View) (s : State) (hs : Memory.wf s.mem) :
    (spawnBody d a b v s).canonical := by
  have hp := spawnTask_wf (s.signal v.sel.core v.task.ctx 43) v.sel.core v.who v.fr (v.rs a) (spawnAmount v b)
    (v.debited (.spawn d a b) - 8) hs
  unfold spawnBody
  dsimp only
  split <;> simp_all

@[simp] theorem joinBody_wf (d : Nat) (v : View) (s : State) (hs : Memory.wf s.mem) : (joinBody d v s).canonical := by
  simp [joinBody, hs]
@[simp] theorem joinComplete_wf (c slot n : Nat) (s : State) (hs : Memory.wf s.mem) :
    canonicalSome (joinComplete c slot n s) := by
  unfold joinComplete
  (repeat' split) <;> simp [hs]

@[simp] theorem State.exitSplit_wf (s : State) (sel : Sel) (hs : Memory.wf s.mem) : Memory.wf (s.exitSplit sel).mem := by
  unfold State.exitSplit
  split <;> simp [hs]

@[simp] theorem doneBody_wf (v : View) (s : State) (hs : Memory.wf s.mem) : (doneBody v s).canonical := by
  simp [doneBody, hs]
@[simp] theorem yieldBody_wf (v : View) (s : State) (hs : Memory.wf s.mem) : (yieldBody v s).canonical := by
  simp [yieldBody, hs]
@[simp] theorem takeBody_wf (d : Nat) (v : View) (s : State) (hs : Memory.wf s.mem) : (takeBody d v s).canonical := by
  unfold takeBody
  (repeat' split) <;> simp [hs]

@[simp] theorem ctxWrite_wf (s : State) (ctx asid va : Nat) (bs : List Byte) (hs : Memory.wf s.mem) :
    Memory.wf (ctxWrite s ctx asid va bs).mem := by simp [ctxWrite, hs]
@[simp] theorem stampWrite_wf (s : State) (ctx asid va : Nat) (bs : List Byte) (hs : Memory.wf s.mem) :
    Memory.wf (stampWrite s ctx asid va bs).mem := by simp [stampWrite, hs]
@[simp] theorem State.loadSet_mem (s : State) (c ctx : Nat) : (s.loadSet c ctx).mem = s.mem := by
  unfold State.loadSet
  split <;> simp

@[simp] theorem State.writeSet_wf (s : State) (c ctx : Nat) (hs : Memory.wf s.mem) :
    Memory.wf (s.writeSet c ctx).mem := by
  unfold State.writeSet
  split <;> simp [hs]

@[simp] theorem State.releaseSet_wf (s : State) (c ctx : Nat) (preempted : Bool) (hs : Memory.wf s.mem) :
    Memory.wf (s.releaseSet c ctx preempted).mem := by simp [State.releaseSet, hs]
@[simp] theorem setTurn_wf (s : State) (hs : Memory.wf s.mem) : canonicalSome (setTurn s) := by simp [setTurn, hs]
@[simp] theorem placeGroups_mem (c : Nat) (l : List (Nat × Group)) (s : State) : (placeGroups c l s).mem = s.mem := by
  induction l generalizing s with
  | nil => rfl
  | cons x xs ih => unfold placeGroups; rw [ih]; simp

@[simp] theorem crewStart_wf (c : Nat) (s : State) (hs : Memory.wf s.mem) : canonicalSome (crewStart c s) := by
  unfold crewStart
  dsimp only
  (repeat' split) <;> simp [hs]

@[simp] theorem State.deliver_wf (s : State) (tid rem status : Nat) (hs : Memory.wf s.mem) :
    Memory.wf (s.deliver tid rem status).mem := by
  unfold State.deliver
  (repeat' split) <;> simp [hs]

@[simp] theorem drainingComplete_wf (tid : Nat) (s : State) (hs : Memory.wf s.mem) :
    canonicalSome (drainingComplete tid s) := by
  unfold drainingComplete
  split <;> simp [hs]

theorem takeMsg_mem (s : State) (n : Nat) (m : Msg) (t : State) (e : takeMsg s n = some (m, t)) : t.mem = s.mem := by
  unfold takeMsg at e
  dsimp only at e
  (repeat' split at e) <;> simp at e <;> obtain ⟨_, rfl⟩ := e <;> simp

@[simp] theorem returnDelivery_wf (n : Nat) (s : State) (hs : Memory.wf s.mem) : canonicalSome (returnDelivery n s) := by
  unfold returnDelivery
  split
  · simp
  · next m s0 e =>
    have hm : Memory.wf s0.mem := by rw [takeMsg_mem _ _ _ _ e]; exact hs
    split <;> simp [hm]

@[simp] theorem State.giveBack_mem (s : State) (tid units : Nat) : (s.giveBack tid units).mem = s.mem := by
  unfold State.giveBack
  split <;> simp

@[simp] theorem State.answerMsg_wf (s : State) (m : Msg) (x : W64) (status : Nat) (hs : Memory.wf s.mem) :
    Memory.wf (s.answerMsg m x status).mem := by
  unfold State.answerMsg
  (repeat' split) <;> simp [hs]

@[simp] theorem grantApply_wf (n : Nat) (s : State) (hs : Memory.wf s.mem) : canonicalSome (grantApply n s) := by
  unfold grantApply
  split
  · simp
  · next m s0 e =>
    have hm : Memory.wf s0.mem := by rw [takeMsg_mem _ _ _ _ e]; exact hs
    dsimp only
    (repeat' split) <;> simp [hm]

@[simp] theorem signalApply_wf (n : Nat) (s : State) (hs : Memory.wf s.mem) : canonicalSome (signalApply n s) := by
  unfold signalApply
  split
  · simp
  · next m s0 e =>
    have hm : Memory.wf s0.mem := by rw [takeMsg_mem _ _ _ _ e]; exact hs
    (repeat' split) <;> simp [hm]

@[simp] theorem cancelApply_wf (n : Nat) (s : State) (hs : Memory.wf s.mem) : canonicalSome (cancelApply n s) := by
  unfold cancelApply
  split
  · simp
  · next m s0 e =>
    have hm : Memory.wf s0.mem := by rw [takeMsg_mem _ _ _ _ e]; exact hs
    dsimp only
    (repeat' split) <;> try simp [hm]
    all_goals exact State.answerMsg_wf _ _ _ _ (by simp [hm])

@[simp] theorem unwindOrder_wf (tid : Nat) (s : State) (hs : Memory.wf s.mem) : canonicalSome (unwindOrder tid s) := by
  unfold unwindOrder
  (repeat' split) <;> simp [hs]

@[simp] theorem unwindingComplete_wf (tid : Nat) (s : State) (hs : Memory.wf s.mem) :
    canonicalSome (unwindingComplete tid s) := by
  unfold unwindingComplete
  split
  · simp
  · split
    · simp
    · have hm : ∀ l : List (Nat × Task), ∀ t : State, Memory.wf t.mem →
          Memory.wf (l.foldl (fun st e => (st.freeSlot e.1).releaseSet e.2.place e.2.ctx false) t).mem :=
        fun l t ht => State.wf_foldl _ l t (fun s x h => by simp [h]) ht
      dsimp only
      split
      · exact (canonicalSome_some _).2 (State.taskOp_wf _ _ _ (hm _ _ (by simpa using hs)))
      · refine (canonicalSome_some _).2 (State.deliver_wf _ _ _ _ ?_)
        exact hm _ _ (by simpa using hs)

/-! `Machine/System`. -/

@[simp] theorem mfsBody_wf (d sr : Nat) (v : View) (s : State) (hs : Memory.wf s.mem) : (mfsBody d sr v s).canonical := by
  simp [mfsBody, hs]
@[simp] theorem mtsBody_wf (sr a : Nat) (v : View) (s : State) (hs : Memory.wf s.mem) : (mtsBody sr a v s).canonical := by
  simp [mtsBody, hs]
@[simp] theorem eretBody_wf (v : View) (s : State) (hs : Memory.wf s.mem) : (eretBody v s).canonical := by
  simp [eretBody, hs]
@[simp] theorem waitcBody_wf (l st cp mx : Nat) (v : View) (s : State) (hs : Memory.wf s.mem) :
    (waitcBody l st cp mx v s).canonical := by simp [waitcBody, hs]
@[simp] theorem waitcResume_wf (c slot n : Nat) (s : State) (hs : Memory.wf s.mem) :
    canonicalSome (waitcResume c slot n s) := by
  unfold waitcResume
  (repeat' split) <;> simp [hs]

@[simp] theorem State.requestLine_mem (s : State) (c asid block : Nat) : (s.requestLine c asid block).mem = s.mem := by
  simp [State.requestLine]
@[simp] theorem ipfBody_wf (off : BitVec 18) (v : View) (s : State) (hs : Memory.wf s.mem) :
    (ipfBody off v s).canonical := by
  unfold ipfBody
  dsimp only
  (repeat' split) <;> simp [hs]

@[simp] theorem safeBody_wf (code : BitVec 25) (v : View) (s : State) (hs : Memory.wf s.mem) :
    (safeBody code v s).canonical := by simp [safeBody, hs]
@[simp] theorem stopCheck_mem (v : View) (region : BitVec 24) (entering : Bool) (s : State) :
    (stopCheck v region entering s).mem = s.mem := by
  unfold stopCheck
  (repeat' split) <;> simp

@[simp] theorem State.storePennant_wf (s : State) (c slot i : Nat) (x : BitVec 24) (hs : Memory.wf s.mem) :
    Memory.wf (s.storePennant c slot i x).mem := by simp [State.storePennant, hs]
@[simp] theorem pushPennant_mem (region : BitVec 24) (v : View) (s : State) : (pushPennant region v s).mem = s.mem := by
  simp [pushPennant]
@[simp] theorem enterBody_wf (region : BitVec 24) (v : View) (s : State) (hs : Memory.wf s.mem) :
    (enterBody region v s).canonical := by
  unfold enterBody
  (repeat' split) <;> simp +contextual [hs]

@[simp] theorem leaveBody_wf (v : View) (s : State) (hs : Memory.wf s.mem) : (leaveBody v s).canonical := by
  simp [leaveBody, hs]
@[simp] theorem rdctrBody_wf (d ctr : Nat) (v : View) (s : State) (hs : Memory.wf s.mem) :
    (rdctrBody d ctr v s).canonical := by simp [rdctrBody, hs]
@[simp] theorem execIllegalInstruction_wf (word : W32) (s : State) (hs : Memory.wf s.mem) :
    canonicalNext (execIllegalInstruction word s) := by
  unfold execIllegalInstruction
  split <;> simp [hs]

/-! `Machine/Save`. -/

@[simp] theorem State.rejoinChannel_mem (c slot : Nat) (s : State) (sp : Split) :
    (State.rejoinChannel c slot s sp).mem = s.mem := by
  unfold State.rejoinChannel
  (repeat' split) <;> simp

@[simp] theorem escapeStop_mem (c slot : Nat) (g : Group) (s : State) : (escapeStop c slot g s).mem = s.mem := by
  simp [escapeStop]
@[simp] theorem escapeWrite_wf (c slot : Nat) (g : Group) (s : State) (hs : Memory.wf s.mem) :
    Memory.wf (escapeWrite c slot g s).mem := by simp [escapeWrite, hs]
@[simp] theorem escapeSpill_wf (c : Nat) (s : State) (hs : Memory.wf s.mem) : canonicalSome (escapeSpill c s) := by
  unfold escapeSpill
  (repeat' split) <;> simp +contextual [hs]

@[simp] theorem escapeBack_wf (c : Nat) (x : Victim) (g : Group) (s : State) (hs : Memory.wf s.mem) :
    Memory.wf (escapeBack c x g s).mem := by simp [escapeBack, hs]
@[simp] theorem escapeRefill_wf (c : Nat) (s : State) (hs : Memory.wf s.mem) : canonicalSome (escapeRefill c s) := by
  unfold escapeRefill
  (repeat' split) <;> simp +contextual [hs]

@[simp] theorem beginSave_mem (tid : Nat) (forced : Bool) (t : Task) (s : State) :
    (beginSave tid forced t s).mem = s.mem := by simp [beginSave]
@[simp] theorem saveCrew_wf (tid : Nat) (forced : Bool) (s : State) (hs : Memory.wf s.mem) :
    canonicalSome (saveCrew tid forced s) := by
  unfold saveCrew
  split
  · simp
  · exact (canonicalSome_some _).2 (State.releaseSet_wf _ _ _ _ (by simp [hs]))

@[simp] theorem crewSave_wf (tid : Nat) (s : State) (hs : Memory.wf s.mem) : canonicalSome (crewSave tid s) := by
  unfold crewSave
  (repeat' split) <;> simp [hs]

@[simp] theorem forcedSave_wf (tid : Nat) (s : State) (hs : Memory.wf s.mem) : canonicalSome (forcedSave tid s) := by
  unfold forcedSave
  (repeat' split) <;> simp [hs]

@[simp] theorem State.storePennants_wf (s : State) (c slot : Nat) (g : Group) (hs : Memory.wf s.mem) :
    Memory.wf (s.storePennants c slot g).mem := by simp [State.storePennants, hs]
@[simp] theorem State.dueMove_wf (s : State) (met : Option AreaState) (c slot area : Nat) (g : Group) (go : State → State)
    (hs : Memory.wf s.mem) (hgo : ∀ s : State, Memory.wf s.mem → Memory.wf (go s).mem) :
    Memory.wf (s.dueMove met c slot area g go).mem := by
  unfold State.dueMove
  (repeat' split) <;> simp +contextual [hs, hgo]

@[simp] theorem dueTurn_wf (s : State) (hs : Memory.wf s.mem) : canonicalSome (dueTurn s) := by
  have pennants : ∀ (st : State) (a b c d f : Nat) (g : Group) (m : Option AreaState), Memory.wf st.mem →
      Memory.wf (if f = 0 then st else st.dueMove m a b c g (fun y => y.storePennants a b g)).mem := by
    intro st a b c d f g m h
    split
    · exact h
    · exact State.dueMove_wf _ _ _ _ _ _ _ h (fun t ht => by simp [ht])
  unfold dueTurn
  refine canonicalSome_findSome _ _ fun e => (canonicalSome_map _ _).2 fun x _ => ?_
  dsimp only
  split
  · exact pennants _ _ _ _ 0 _ _ _ (by simpa using hs)
  · exact State.dueMove_wf _ _ _ _ _ _ _ (by simpa using hs) (fun t ht => pennants _ _ _ _ 0 _ _ _ (by simp [ht]))

@[simp] theorem restoreGroups_mem (c tid : Nat) (l : List SavedGroup) (a : Allotment) (s : State) :
    (restoreGroups c tid l a s).mem = s.mem := by
  induction l generalizing a s with
  | nil => rfl
  | cons x xs ih =>
    unfold restoreGroups
    dsimp only
    rw [ih, State.mem_foldl _ _ _ (fun t sp => State.rejoinChannel_mem _ _ t sp)]
    rfl

@[simp] theorem crewRestore_wf (c : Nat) (s : State) (hs : Memory.wf s.mem) : canonicalSome (crewRestore c s) := by
  unfold crewRestore
  dsimp only
  (repeat' split) <;> simp [hs]

/-! `Machine/CoreSteps`. -/

@[simp] theorem meetBoundExpiry_wf (c slot n : Nat) (s : State) (hs : Memory.wf s.mem) :
    canonicalSome (meetBoundExpiry c slot n s) := by
  unfold meetBoundExpiry
  (repeat' split) <;> simp [hs]

@[simp] theorem splitFusion_wf (c slot i j : Nat) (s : State) (hs : Memory.wf s.mem) :
    canonicalSome (splitFusion c slot i j s) := by
  unfold splitFusion
  (repeat' split) <;> simp [hs]

@[simp] theorem State.bringBack_wf (c slot : Nat) (g : Group) (signals : List Nat) (s : State) (hs : Memory.wf s.mem) :
    Memory.wf (State.bringBack c slot g signals s).mem := by
  unfold State.bringBack
  simp +contextual [hs]

@[simp] theorem splitRefill_wf (c slot : Nat) (s : State) (hs : Memory.wf s.mem) :
    canonicalSome (splitRefill c slot s) := by
  unfold splitRefill
  (repeat' split) <;> simp +contextual [hs]

@[simp] theorem splitRotation_wf (c slot : Nat) (s : State) (hs : Memory.wf s.mem) :
    canonicalSome (splitRotation c slot s) := by
  unfold splitRotation
  (repeat' split) <;> simp +contextual [hs]

@[simp] theorem activeSetAdmit_wf (c side : Nat) (s : State) (hs : Memory.wf s.mem) :
    canonicalSome (activeSetAdmit c side s) := by
  unfold activeSetAdmit
  dsimp only
  (repeat' split) <;> simp [hs]

@[simp] theorem State.addLine_mem (s : State) (c : Nat) (l : ILine) : (s.addLine c l).mem = s.mem := by
  simp [State.addLine]
@[simp] theorem icacheLineFill_wf (c n : Nat) (s : State) (hs : Memory.wf s.mem) :
    canonicalSome (icacheLineFill c n s) := by
  unfold icacheLineFill
  (repeat' split) <;> simp [hs]

@[simp] theorem State.dropLines_mem (s : State) (f : Nat → Nat → Bool) : (s.dropLines f).mem = s.mem := by
  simp [State.dropLines]
@[simp] theorem stampRecordWrite_wf (tid tile : Nat) (s : State) (hs : Memory.wf s.mem) :
    canonicalSome (stampRecordWrite tid tile s) := by
  unfold stampRecordWrite
  (repeat' split) <;> simp [hs]

/-! `Machine/Faults`. -/

@[simp] theorem faultRingRoom_wf (s : State) (hs : Memory.wf s.mem) : canonicalSome (faultRingRoom s) := by
  unfold faultRingRoom
  split <;> simp [hs]

@[simp] theorem forwardRecord_wf (s0 : State) (r : FaultRec) (hs0 : Memory.wf s0.mem) :
    canonicalSome (forwardRecord s0 r) := by simp [forwardRecord, hs0]
@[simp] theorem faultRecordService_wf (s : State) (hs : Memory.wf s.mem) : canonicalSome (faultRecordService s) := by
  unfold faultRecordService
  (repeat' split) <;> simp [hs]

@[simp] theorem State.resolve_mem (s : State) : s.resolve.mem = s.mem := by simp [State.resolve]
@[simp] theorem State.serveAnew_mem (s : State) (p : Page) (copying : Bool) : (s.serveAnew p copying).mem = s.mem := by
  simp [State.serveAnew]
@[simp] theorem State.copyPhys_wf (s : State) (dst src n : Nat) (hs : Memory.wf s.mem) :
    Memory.wf (s.copyPhys dst src n).mem := by
  exact Memory.wf_putAll _ (Memory.wf_filter _ hs)

@[simp] theorem State.modPage_mem (s : State) (asid va : Nat) (f : Page → Page) : (s.modPage asid va f).mem = s.mem := by
  simp [State.modPage]
@[simp] theorem backingCopyComplete_wf (n : Nat) (s : State) (hs : Memory.wf s.mem) :
    canonicalSome (backingCopyComplete n s) := by
  unfold backingCopyComplete
  (repeat' split) <;> simp [hs]

@[simp] theorem replyToHub_mem (s : State) (r : FaultRec) : (replyToHub s r).mem = s.mem := by simp [replyToHub]
@[simp] theorem replyToEngine_mem (s : State) (r : FaultRec) : (replyToEngine s r).mem = s.mem := by simp [replyToEngine]
@[simp] theorem State.dropSplit_mem (s : State) (c slot lane : Nat) : (s.dropSplit c slot lane).mem = s.mem := by
  unfold State.dropSplit
  dsimp only
  (repeat' split) <;> simp

@[simp] theorem presentAgain_wf (s : State) (c slot lane frame : Nat) (w : Who) (a : Access) (hs : Memory.wf s.mem) :
    Memory.wf (presentAgain s c slot lane frame w a).mem := by
  unfold presentAgain
  split
  · simp [hs]
  · split
    · have hp := spawnTask_wf s c w frame (a.reqs.headD ⟨0, 0, 0, 0⟩).va (a.reqs.headD ⟨0, 0, 0, 0⟩).x (a.cost - 8) hs
      dsimp only
      split
      · simp [hs]
      · simp [hs]
      · next e => rw [e] at hp; exact answerSplit_wf _ _ _ _ _ _ hp
    · dsimp only
      (repeat' split) <;> simp [hs]
    · have hp := present_wf s c w frame a hs
      split <;> simp_all

@[simp] theorem tarnRetry_wf (c slot n : Nat) (s : State) (hs : Memory.wf s.mem) :
    canonicalSome (tarnRetry c slot n s) := by
  unfold tarnRetry
  dsimp only
  (repeat' split) <;> simp [hs]

@[simp] theorem presentStopped_wf (s : State) (c slot lane frame : Nat) (w : Who) (a : Access) (hs : Memory.wf s.mem) :
    Memory.wf (presentStopped s c slot lane frame w a).mem := by
  have hp := present_wf s c w frame a hs
  unfold presentStopped
  extract_lets full
  cases full with
  | true => simp [hs]
  | false => cases e : present s c w frame a <;> rw [e] at hp <;> simp_all

@[simp] theorem replyToSplit_wf (s : State) (r : FaultRec) (g : Group) (sp : Split) (hs : Memory.wf s.mem) :
    Memory.wf (replyToSplit s r g sp).mem := by
  unfold replyToSplit
  (repeat' split) <;> simp [hs]

@[simp] theorem dropReply_wf (s : State) (r : FaultRec) (hs : Memory.wf s.mem) : Memory.wf (dropReply s r).mem := by
  unfold dropReply
  (repeat' split) <;> simp [hs]

@[simp] theorem faultReply.savedReply_wf (s0 : State) (r : FaultRec) (hs0 : Memory.wf s0.mem) :
    Memory.wf (faultReply.savedReply s0 r).mem := by
  unfold faultReply.savedReply
  split <;> simp [hs0]

@[simp] theorem faultReply_wf (n : Nat) (s : State) (hs : Memory.wf s.mem) : canonicalSome (faultReply n s) := by
  unfold faultReply
  (repeat' split) <;> simp [hs]

/-! `Machine/Hub`. -/

@[simp] theorem emptySlot_wf (s : State) (pa : Nat) (hs : Memory.wf s.mem) : Memory.wf (emptySlot s pa).mem := by
  simp [emptySlot, hs]
@[simp] theorem retirePart_wf (s : State) (block : Nat) (slotOf : Nat → Option Nat) (part : Nat) (hs : Memory.wf s.mem) :
    Memory.wf (retirePart s block slotOf part).mem := by
  unfold retirePart
  dsimp only
  (repeat' split) <;> simp [hs]

@[simp] theorem retireQueue_wf (q : Nat) (s : State) (hs : Memory.wf s.mem) : canonicalSome (retireQueue q s) := by
  unfold retireQueue
  split <;> simp [hs]

@[simp] theorem takePacket_wf (s : State) (q : Nat) (x : Queue) (r : RingHead) (p : Packet) (cw : W64) (wait : HubWait)
    (hs : Memory.wf s.mem) : Memory.wf (takePacket s q x r p cw wait).mem := by simp [takePacket, hs]
@[simp] theorem packetStep_wf (q : Nat) (p : Packet) (kind : Nat) (checks : State → Queue → List (Nat × Bool))
    (start : State → Queue → Nat → Option State) (s : State)
    (hstart : ∀ (t : State) x n, Memory.wf t.mem → canonicalSome (start t x n)) (hs : Memory.wf s.mem) :
    canonicalSome (packetStep q p kind checks start s) := by
  unfold packetStep
  dsimp only
  (repeat' split) <;> simp [hs, hstart]

@[simp] theorem State.hubWait_mem (s : State) (op : Nat) (w : HubWait) : (s.hubWait op w).mem = s.mem := by
  simp [State.hubWait]
@[simp] theorem State.hubDue_mem (s : State) (op status result : Nat) : (s.hubDue op status result).mem = s.mem := by
  simp [State.hubDue]
@[simp] theorem State.hubRecords_wf (s : State) (ctx asid kind op : Nat) (vas : List Nat) (hs : Memory.wf s.mem) :
    Memory.wf (s.hubRecords ctx asid kind op vas).mem := by
  unfold State.hubRecords
  simp +contextual [hs]

@[simp] theorem launchStart_wf (p : Packet) (s0 s : State) (x : Queue) (op : Nat)
    (hs : Memory.wf s.mem) : canonicalSome (launchStart p s0 s x op) := by simp [launchStart, hs]
@[simp] theorem sweepCrews_wf (x : Queue) (b : List Byte) (root id first alw n : Nat) (handle : W64) (l : List Nat) (s : State)
    (hs : Memory.wf s.mem) : Memory.wf (sweepCrews x b root id first alw n handle l s).mem := by
  induction l generalizing s with
  | nil => exact hs
  | cons i is ih =>
    unfold sweepCrews
    dsimp only
    split
    · exact ih _ hs
    · exact ih _ (State.create_wf _ _ _ _ hs)

@[simp] theorem sweepStart_wf (p : Packet) (s0 s : State) (x : Queue) (op : Nat)
    (hs : Memory.wf s.mem) : canonicalSome (sweepStart p s0 s x op) := by
  unfold sweepStart
  dsimp only
  (repeat' split)
  · simp
  · simp [hs]
  all_goals
    exact (canonicalSome_some _).2 (sweepCrews_wf _ _ _ _ _ _ _ _ _ _
      (State.startSweep_wf _ _ (State.writeTcb_wf _ _ _ _ hs)))

@[simp] theorem hubCopyComplete_wf (op : Nat) (s : State) (hs : Memory.wf s.mem) :
    canonicalSome (hubCopyComplete op s) := by
  unfold hubCopyComplete
  dsimp only
  (repeat' split) <;> simp [hs]

@[simp] theorem presentWord_wf (s : State) (o : HubOp) (x : Queue) (va : Nat) (need : Need) (waits : Nat → HubWait)
    (hs : Memory.wf s.mem) : canonicalSome (presentWord s o x va need waits) := by
  unfold presentWord
  (repeat' split)
  · simp [hs]
  · simp [hs]
  · next r e => simp [tryHub_wf _ _ _ hs _ e]
  · simp [hs]
  · simp

@[simp] theorem presentOp_wf (s : State) (o : HubOp) (hs : Memory.wf s.mem) : canonicalSome (presentOp s o) := by
  unfold presentOp
  (repeat' split) <;> simp [hs]

@[simp] theorem startWord_wf (s : State) (op : Nat) (w : HubWait) (hs : Memory.wf s.mem) :
    Memory.wf (startWord s op w).mem := by
  unfold startWord
  dsimp only
  split <;> simp [hs]

@[simp] theorem State.modCtx_mem (s : State) (ctx : Nat) (f : Ctx → Ctx) : (s.modCtx ctx f).mem = s.mem := by
  simp [State.modCtx]
@[simp] theorem openCapture_mem (s : State) (ctx block : Nat) : (openCapture s ctx block).mem = s.mem := by
  simp [openCapture]
@[simp] theorem closeCapture_wf (s : State) (ctx : Nat) (hs : Memory.wf s.mem) : Memory.wf (closeCapture s ctx).mem := by
  unfold closeCapture
  simp +contextual [hs]

@[simp] theorem completeOp_wf (s : State) (o : HubOp) (status result : Nat) (hs : Memory.wf s.mem) :
    Memory.wf (completeOp s o status result).mem := by
  unfold completeOp
  (repeat' split) <;> simp [hs]

@[simp] theorem opTurn_wf (s : State) (o : HubOp) (hs : Memory.wf s.mem) : canonicalSome (opTurn s o) := by
  unfold opTurn
  split <;> simp [hs]

@[simp] theorem rejectReserved_wf (s : State) (q : Nat) (hs : Memory.wf s.mem) : canonicalSome (rejectReserved s q) := by
  unfold rejectReserved
  split <;> simp [hs]

/-! `Machine/Reset`. -/

@[simp] theorem abortOps_mem (asid : Nat) (s : State) : (abortOps asid s).mem = s.mem := by simp [abortOps]
@[simp] theorem doomAsid.stopAgain_mem (asid : Nat) (s : State) : (doomAsid.stopAgain asid s).mem = s.mem := by
  simp [doomAsid.stopAgain]
@[simp] theorem doomAsid_wf (asid status : Nat) (s : State) (hs : Memory.wf s.mem) :
    Memory.wf (doomAsid asid status s).mem := by simp [doomAsid, hs]
@[simp] theorem clearFull_wf (s : State) (pa len : Nat) (hs : Memory.wf s.mem) : Memory.wf (clearFull s pa len).mem := by
  simp [clearFull, hs]
@[simp] theorem State.forgetContexts_mem (s : State) (asid : Nat) (ctxs : List Nat) :
    (s.forgetContexts asid ctxs).mem = s.mem := by simp [State.forgetContexts]
@[simp] theorem asidRecycle_wf (asid : Nat) (s : State) (hs : Memory.wf s.mem) : canonicalSome (asidRecycle asid s) := by
  unfold asidRecycle
  (repeat' split) <;> simp +contextual [hs]

@[simp] theorem settleStores_wf (c : Nat) (s : State) (hs : Memory.wf s.mem) : Memory.wf (settleStores c s).mem := by
  unfold settleStores
  simp +contextual [hs]

@[simp] theorem settleCopy_wf (s : State) (o : CopyOp) (hs : Memory.wf s.mem) : Memory.wf (settleCopy s o).mem := by
  simp [settleCopy, hs]
@[simp] theorem restartTask_wf (tid : Nat) (s : State) (hs : Memory.wf s.mem) : Memory.wf (restartTask tid s).mem := by
  unfold restartTask
  (repeat' split) <;> simp +contextual [hs]

@[simp] theorem coreReset_wf (c : Nat) (command : Bool) (s : State) (hs : Memory.wf s.mem) :
    Memory.wf (coreReset c command s).mem := by
  have h1 := settleStores_wf c s hs
  have h2 := State.wf_foldl (fun st o => if keepsCopy (settleStores c s) o then st else settleCopy st o)
    ((settleStores c s).core c).copies _ (fun s x h => by split <;> simp [h]) h1
  unfold coreReset
  dsimp only
  simp only [State.modCore_mem]
  refine State.wf_foldl _ _ _ (fun s x h => ?_) (State.wf_foldl _ _ _ (fun s x h => ?_) ?_)
  · (repeat' split) <;> simp [h]
  · split <;> simp [h]
  · rw [State.mem_foldl _ _ _ (fun s x => by simp), State.modCore_mem, State.mem_foldl _ _ _ (fun s x => by simp)]
    exact h2

@[simp] theorem adminWord_wf (s : State) (cw : W64) (status result : Nat) (hs : Memory.wf s.mem) :
    Memory.wf (adminWord s cw status result).mem := by simp [adminWord, hs]
@[simp] theorem adminDone_wf (s : State) (cw : W64) (status result : Nat) (hs : Memory.wf s.mem) :
    Memory.wf (adminDone s cw status result).mem := by simp [adminDone, hs]
@[simp] theorem adminEnd_wf (s : State) (cw : W64) (hs : Memory.wf s.mem) : Memory.wf (adminEnd s cw).mem := by
  unfold adminEnd
  simp +contextual [hs]

@[simp] theorem coreReturn_wf (c : Nat) (s : State) (hs : Memory.wf s.mem) : canonicalSome (coreReturn c s) := by
  unfold coreReturn
  dsimp only
  (repeat' split) <;> simp [hs]

/-! `Machine/Admin`. -/

@[simp] theorem takeAdmin_wf (s : State) (r : RingHead) (p : Packet) (hs : Memory.wf s.mem) :
    Memory.wf (takeAdmin s r p).mem := by simp [takeAdmin, hs]
@[simp] theorem retireAdmin_wf (s : State) (hs : Memory.wf s.mem) : canonicalSome (retireAdmin s) := by
  simp [retireAdmin, hs]
@[simp] theorem adminReject_wf (s : State) (p : Packet) (o : Nat) (hs : Memory.wf s.mem) :
    Memory.wf (adminReject s p o).mem := by simp [adminReject, hs]
@[simp] theorem adminStep_wf (p : Packet) (kind : Nat) (checks : State → List (Nat × Bool)) (run : State → Answer) (s : State)
    (hrun : ∀ t : State, Memory.wf t.mem → (run t).canonical) (hs : Memory.wf s.mem) :
    canonicalSome (adminStep p kind checks run s) := by
  unfold adminStep
  split
  · simp
  · next r p' _ =>
    split
    · simp
    · have hr := hrun _ (takeAdmin_wf s r p hs)
      dsimp only
      split
      · simp [hs]
      · cases e : run (takeAdmin s r p) <;> rw [e] at hr <;> simp_all

@[simp] theorem stampNamed_wf (s : State) (ctx asid : Nat) (sbuf : W64) (hs : Memory.wf s.mem) :
    Memory.wf (stampNamed s ctx asid sbuf).mem := by simp [stampNamed, hs]
@[simp] theorem ctxCreateRun_wf (p : Packet) (s : State) (hs : Memory.wf s.mem) : (ctxCreateRun p s).canonical := by
  unfold ctxCreateRun
  split <;> simp [hs]

@[simp] theorem ctxSetRun_wf (p : Packet) (s : State) (hs : Memory.wf s.mem) : (ctxSetRun p s).canonical := by
  simp [ctxSetRun, hs]
@[simp] theorem fillBlock_wf (s : State) (q : Nat) (hs : Memory.wf s.mem) : canonicalSome (fillBlock s q) := by
  unfold fillBlock
  split <;> simp [hs]

@[simp] theorem queueCreateRun_wf (p : Packet) (s : State) (hs : Memory.wf s.mem) : (queueCreateRun p s).canonical := by
  unfold queueCreateRun
  split <;> simp [hs]

@[simp] theorem retireAll_wf (q : Nat) (s : State) (hs : Memory.wf s.mem) : Memory.wf (retireAll q s).mem := by
  unfold retireAll
  have one : ∀ x : State, Memory.wf x.mem → Memory.wf ((retireQueue q x).getD x).mem := fun x hx => by simp [hx]
  exact one _ (one _ (one _ hs))

@[simp] theorem abortSlot_wf (q block t slot : Nat) (s : State) (hs : Memory.wf s.mem) :
    Memory.wf (abortSlot q block t slot s).mem := by
  unfold abortSlot
  split
  · exact hs
  · simp only [State.modHub_mem]
    exact retirePart_wf _ _ _ _ (emptySlot_wf _ _ (writeRaw_wf _ _ (takePacket_wf _ _ _ _ _ _ _ hs)))

@[simp] theorem flushSlots_wf (q block : Nat) (slotOf : Nat → Option Nat) (l : List Nat) (s : State) (hs : Memory.wf s.mem) :
    Memory.wf (flushSlots q block slotOf l s).mem := by
  induction l generalizing s with
  | nil => exact hs
  | cons t ts ih =>
    unfold flushSlots
    split
    · apply ih; split
      · exact abortSlot_wf _ _ _ _ _ hs
      · exact hs
    · exact ih _ hs

@[simp] theorem flushQueue_wf (q : Nat) (s : State) (hs : Memory.wf s.mem) : canonicalSome (flushQueue q s) := by
  unfold flushQueue
  (repeat' split) <;> simp [hs]

@[simp] theorem queueDestroyRun_wf (p : Packet) (s : State) (hs : Memory.wf s.mem) : (queueDestroyRun p s).canonical := by
  have := retireAll_wf p.w10.toNat s hs
  simp [queueDestroyRun, this]

@[simp] theorem State.dropPageLines_mem (s : State) (p : Page) : (s.dropPageLines p).mem = s.mem := by
  simp [State.dropPageLines]
@[simp] theorem replacePage_wf (s : State) (old : Option Page) (new : Page) (hs : Memory.wf s.mem) :
    Memory.wf (replacePage s old new).mem := by
  unfold replacePage
  split <;> simp [hs]

@[simp] theorem mapRun_wf (p : Packet) (s : State) (hs : Memory.wf s.mem) : (mapRun p s).canonical := by simp [mapRun, hs]
@[simp] theorem State.forgetPage_mem (s : State) (asid va : Nat) : (s.forgetPage asid va).mem = s.mem := by
  simp [State.forgetPage]
@[simp] theorem unmapPage_wf (s : State) (p : Page) (hs : Memory.wf s.mem) : Memory.wf (unmapPage s p).mem := by
  simp [unmapPage, hs]
@[simp] theorem protectRun_wf (p : Packet) (s : State) (hs : Memory.wf s.mem) : (protectRun p s).canonical := by
  unfold protectRun
  split <;> simp [hs]

@[simp] theorem preemptRun_wf (p : Packet) (s : State) (hs : Memory.wf s.mem) : (preemptRun p s).canonical := by
  unfold preemptRun
  dsimp only
  split <;> simp [hs]

@[simp] theorem countersRun_wf (p : Packet) (s : State) (hs : Memory.wf s.mem) : (countersRun p s).canonical := by
  unfold countersRun
  dsimp only
  split <;> simp [hs]

@[simp] theorem applyRevocation_mem (ctx : Nat) (s : State) : (applyRevocation ctx s).mem = s.mem := by
  unfold applyRevocation
  split <;> simp

@[simp] theorem debugStep_wf (p : Packet) (op : Nat) (checks : State → List (Nat × Bool)) (run : State → Answer) (s : State)
    (hrun : ∀ t : State, Memory.wf t.mem → (run t).canonical) (hs : Memory.wf s.mem) :
    canonicalSome (debugStep p op checks run s) := by
  unfold debugStep
  split
  · simp
  · exact adminStep_wf _ _ _ _ _ (fun t ht => hrun _ ht) (by simp [hs])

@[simp] theorem attestRun_wf (p : Packet) (s : State) (hs : Memory.wf s.mem) : (attestRun p s).canonical := by
  simp [attestRun, hs]
@[simp] theorem adminStray_wf (s : State) (hs : Memory.wf s.mem) : canonicalSome (adminStray s) := by
  unfold adminStray
  split <;> simp [hs]

@[simp] theorem destroyTurn_wf (s : State) (hs : Memory.wf s.mem) : canonicalSome (destroyTurn s) := by
  unfold destroyTurn
  split <;> simp [hs]

@[simp] theorem hubTurn_wf (s : State) (hs : Memory.wf s.mem) : canonicalSome (hubTurn s) := by
  unfold hubTurn
  refine (canonicalSome_orElse _ _).2 ⟨by simp [hs], fun _ => (canonicalSome_orElse _ _).2 ⟨by simp [hs], fun _ => ?_⟩⟩
  refine (canonicalSome_orElse _ _).2 ⟨by simp [hs], fun _ => (canonicalSome_orElse _ _).2 ⟨by simp [hs], fun _ => ?_⟩⟩
  exact canonicalSome_findSome _ _ fun q => rejectReserved_wf s q hs

/-! `Machine/World`. -/

@[simp] theorem onLive_wf (s : State) (c slot : Nat) (ok : Group → Bool) (f : Group → Group) (hs : Memory.wf s.mem) :
    canonicalSome (onLive s c slot ok f) := by
  unfold onLive
  split <;> simp [hs]

@[simp] theorem loseAsids_wf (structureCode : Nat) (asids : List Nat) (s : State) (hs : Memory.wf s.mem) :
    Memory.wf (loseAsids structureCode asids s).mem := by
  unfold loseAsids
  simp +contextual [hs]

@[simp] theorem uncorrectable_wf (site : ErrSite) (s : State) (hs : Memory.wf s.mem) :
    canonicalSome (uncorrectable site s) := by
  unfold uncorrectable
  (repeat' split) <;> simp +contextual [hs]

@[simp] theorem securityAlarm_wf (sensor : Nat) (s : State) (hs : Memory.wf s.mem) :
    canonicalSome (securityAlarm sensor s) := by simp [securityAlarm, hs]
@[simp] theorem replayBlock_wf (s : State) (block : Nat) (slotOf : Nat → Option Nat) (hs : Memory.wf s.mem) :
    Memory.wf (replayBlock s block slotOf).1.mem := by
  unfold replayBlock
  dsimp only
  split
  · exact hs
  · exact retirePart_wf _ _ _ _ (retirePart_wf _ _ _ _ (writeRaw_wf _ _ hs))

@[simp] theorem replayQueue_wf (s : State) (q : Nat) (x : Queue) (hs : Memory.wf s.mem) :
    Memory.wf (replayQueue s q x).1.mem := by
  unfold replayQueue
  dsimp only
  split <;> simp [hs]

@[simp] theorem watchdogRestart_wf (s : State) (hs : Memory.wf s.mem) : canonicalSome (watchdogRestart s) := by
  unfold watchdogRestart
  split
  · simp
  · simp only [canonicalSome_some, State.modHub_mem]
    exact foldl_fst_wf _ (fun r x h => by simp [h]) _ _ (foldl_fst_wf _ (fun r x h => by simp [h]) _ _ hs)

@[simp] theorem helasLinkChange_wf (port : Nat) (up : Bool) (s : State) (hs : Memory.wf s.mem) :
    canonicalSome (helasLinkChange port up s) := by simp [helasLinkChange, hs]
@[simp] theorem helasInboundWrite_wf (port pa : Nat) (data : BitVec 512) (poison : Bool) (s : State)
    (hs : Memory.wf s.mem) : canonicalSome (helasInboundWrite port pa data poison s) := by simp [helasInboundWrite, hs]
@[simp] theorem cxlMemRead_wf (pa : Nat) (s : State) (hs : Memory.wf s.mem) : canonicalSome (cxlMemRead pa s) := by
  simp [cxlMemRead, hs]
@[simp] theorem cxlMemWrite_wf (pa : Nat) (data : BitVec 512) (poison : Bool) (s : State) (hs : Memory.wf s.mem) :
    canonicalSome (cxlMemWrite pa data poison s) := by simp [cxlMemWrite, hs]
@[simp] theorem eventWrite_wf (s : State) (hs : Memory.wf s.mem) : canonicalSome (eventWrite s) := by
  unfold eventWrite
  split <;> simp [hs]

@[simp] theorem nameAdmin_wf (block : Nat) (s : State) (hs : Memory.wf s.mem) : Memory.wf (nameAdmin block s).mem := by
  simp [nameAdmin, hs]
@[simp] theorem bar0RegisterWrite_wf (offset : Nat) (value : W64) (s : State) (hs : Memory.wf s.mem) :
    canonicalSome (bar0RegisterWrite offset value s) := by simp [bar0RegisterWrite, hs]

/-! The dispatch. -/

/-- Every arm of `exec` is one call of its meaning: of an instruction that issues, the body keeps the form; of a step without
an encoding, its event does; of a packet, its start, or its run, does. -/
@[simp] theorem exec_wf (i : Instr) (s : State) (hs : Memory.wf s.mem) : canonicalNext (exec i s) := by
  cases i with
  | illegalInstruction w => exact execIllegalInstruction_wf w s hs
  | add | sub | mul | mulh | mulhu | min | max | minu | maxu | and | or | xor | andn | shl | shr | sar | rol | clz | popc | mov
  | cmp | sel | addi | andi | ori | xori | shli | shri | sari | li | lih | vlane | vred | pcnt | div | divu | rem | remu | bz
  | bnz
  | brv | jmp | trap | brk | ret | unwind | fshrink | meet | ld | lds | st | amo | cas | vamo | fld | ftake | fput | ffill | vld
  | vst | vldc | vstc | touch | fence | vadd | vsub | vmul | vfma | vmin | vmax | vabs | vneg | vand | vor | vxor | vshl | vshr
  | vsar | vsrrI32 | vsrrI16x2 | vrcp | vrsq | vexp2 | vlog2 | vsel | vmov | vbcast | vslide | vshfl | vscan | vdot2I16
  | vadd2I16 | vcvt | vdiv | vdivu | vrem | vremu | vcmp | pand | por | pxor | pnot | mfmt | mm | mmm | tld | aclr | aget | aput
  | take | push | pop | spawn | join | done | grant | signal | cancel | enq | yield | mfs | mts | eret | waitc | nop | ipf | safe
  | enter | leave | rdctr => exact issue_wf _ _ _ (fun _ _ h => by simp [h]) hs
  | jr a => exact issue_wf _ _ _ (fun v t h => by cases jumpTrap (v.rs a) <;> simp [h]) hs
  | call d off => exact issueWith_wf _ _ _ (fun _ _ h => issueOrRequest_wf _ _ _ _ (callDirect_wf _ _) h) hs
  | callr d a => exact issueWith_wf _ _ _ (fun _ _ h => issueOrRequest_wf _ _ _ _ (callIndirect_wf _ _) h) hs
  | fgrow k => exact issueWith_wf _ _ _ (fun _ _ h => issueOrRequest_wf _ _ _ _ (fgrowBody_wf _) h) hs
  | cpy d a b => exact issueWith_wf _ _ _ (fun _ _ h => issueUnlessFull_wf _ _ _ _ (cpyBody_wf _ _ _) h) hs
  | cpy2 d a => exact issueWith_wf _ _ _ (fun _ _ h => issueUnlessFull_wf _ _ _ _ (cpy2Body_wf _ _) h) hs
  | meetBoundExpiry | splitFusion | splitRefill | splitRotation | frameGrant | escapeSpill | escapeRefill | activeSetAdmit
  | icacheLineFill | loadReturn | storePerformed | mereWriteLand | waitcResume | copyComplete | copyCancelReport | matrixDrain
  | tldComplete | mmmRerun | faultRingRoom | faultRecordService | backingCopyComplete | faultReply | tarnRetry | enqDeadline
  | joinComplete | taskResident | crewStart | drainingComplete | returnDelivery | grantApply | signalApply | cancelApply
  | unwindOrder | unwindingComplete | crewSave | forcedSave | crewRestore | stampRecordWrite | releaseMarkerComplete
  | uncorrectableError | coreReturnToService | securityAlarm | watchdogRestart | bringUp | powerLimitThrottle | provisioning
  | helasLinkChange | helasInboundWrite | cxlMemRead | cxlMemWrite | eventWrite  | bar0RegisterWrite
  | hubCopyComplete => exact (canonicalNext_event _).2 (by simp [hs])
  | admqWrite x => simp [exec, execAdmqWrite, hs]
  | alarmClear x => simp [exec, execAlarmClear, hs]
  | asidRecycle asid =>
    refine (canonicalNext_event _).2 ((canonicalSome_map _ _).2 fun t ht => ?_)
    have h := asidRecycle_wf asid s hs t ht
    (repeat' split) <;> simp [h]
  | launch | sweep | copy | waitword | fillword | captureStart | captureStop | grantPacket | inval | cancelPacket | fencePacket =>
    exact (canonicalNext_event _).2 (packetStep_wf _ _ _ _ _ _ (fun _ _ _ h => by simp [h]) hs)
  | ctxCreate | ctxSet | queueCreate | queueDestroy | map | protect | asidTeardown | preempt | coreReset | counters | attest
  | alarmPolicy | powerLimit | helasWindow =>
    exact (canonicalNext_event _).2 (adminStep_wf _ _ _ _ _ (fun _ h => by simp [h]) hs)
  | debugSetStop | debugClearStop | debugRead | debugStageEdit =>
    exact (canonicalNext_event _).2 (debugStep_wf _ _ _ _ _ (fun _ h => by simp [h]) hs)
  | debugHaltCommand p | debugResume p =>
    refine (canonicalNext_event _).2 (debugStep_wf _ _ _ _ _ (fun t h => ?_) hs)
    cases debugGroup t p <;> simp [h]
  | debugCommit p =>
    refine (canonicalNext_event _).2 (debugStep_wf _ _ _ _ _ (fun t h => ?_) hs)
    cases debugGroup t p <;> cases ctxAt t (debugCtx p) <;> simp [h]

/-! `Machine/Schedule`. -/

@[simp] theorem missFetch_mem (v : View) (s : State) : (missFetch v s).mem = s.mem := by simp [missFetch]
@[simp] theorem State.seePage_mem (s : State) (c asid pc : Nat) : (s.seePage c asid pc).mem = s.mem := by
  unfold State.seePage
  split <;> simp

@[simp] theorem parkFetch_wf (v : View) (s : State) (hs : Memory.wf s.mem) : Memory.wf (parkFetch v s).mem := by
  simp [parkFetch, hs]
@[simp] theorem runSelected_wf (sel : Sel) (s : State) (hs : Memory.wf s.mem) : canonicalNext (runSelected sel s) := by
  unfold runSelected
  (repeat' split) <;> simp [hs]

@[simp] theorem State.bookGroup_mem (s : State) (sel : Sel) : (s.bookGroup sel).mem = s.mem := by simp [State.bookGroup]
@[simp] theorem runSplit_wf (sel : Sel) (s : State) (hs : Memory.wf s.mem) : canonicalNext (runSplit sel s) := by
  simp [runSplit, hs]
@[simp] theorem State.markShared_mem (first : Sel) (parts : List (Sel × Split)) (s : State) :
    (State.markShared first parts s).mem = s.mem := by simp [State.markShared]
@[simp] theorem expireMet_wf (c slot n : Nat) (s : State) (hs : Memory.wf s.mem) : Memory.wf (expireMet c slot n s).mem := by
  induction n generalizing s with
  | zero => exact hs
  | succ n ih =>
    unfold expireMet
    (repeat' split)
    · exact hs
    · exact ih _ (by simp [hs])
    · exact ih _ (by simp [hs])
    · exact hs

@[simp] theorem endShared_wf (first : Sel) (parts : List (Sel × Split)) (x : Together) (s : State) (hs : Memory.wf s.mem) :
    Memory.wf (endShared first parts x s).mem := by simp [endShared, hs]
@[simp] theorem turnOf_wf (sel : Sel) (sp : Split) (t : State) (ht : Memory.wf t.mem) :
    canonicalNext (turnOf sel sp t) := by
  unfold turnOf
  dsimp only
  (repeat' split)
  · simp
  · simp [ht]
  · next e =>
    have h := runSelected_wf _ _ (by simpa using ht) _ e
    simp [h]
  · simp
  · simp
  · simp

@[simp] theorem runShared_wf (s : State) (first : Sel) (parts l : List (Sel × Split)) (x : Together) (t : State)
    (hs : Memory.wf s.mem) (ht : Memory.wf t.mem) : canonicalNext (runShared s first parts l x t) := by
  induction l generalizing x t with
  | nil => simp [runShared, ht]
  | cons p rest ih =>
    unfold runShared
    (repeat' split)
    · simp [hs]
    · next e _ _ _ _ => exact ih _ _ (turnOf_wf _ _ _ ht _ e)
    · next e _ _ => exact (canonicalNext_next _).2 (turnOf_wf _ _ _ ht _ e)
    · exact ih _ _ ht
    · exact ih _ _ ht

@[simp] theorem runTogether_wf (sels : List Sel) (s : State) (hs : Memory.wf s.mem) :
    canonicalNext (runTogether sels s) := by
  unfold runTogether
  (repeat' split) <;> simp [hs]

@[simp] theorem runSide_wf (sels : List Sel) (s : State) (hs : Memory.wf s.mem) : canonicalNext (runSide sels s) := by
  unfold runSide
  split <;> simp [hs]

@[simp] theorem endSides_wf (c : Nat) (sides : List (List Sel)) (s0 s : State)
    (hs : Memory.wf s.mem) : Memory.wf (endSides c sides s0 s).mem := by
  unfold endSides
  dsimp only
  simp only [State.advance_mem]
  exact State.wf_foldl _ _ _ (fun s x h => by split <;> simp [h]) (by simp [hs])

@[simp] theorem runSides_wf (sides : List (List Sel)) (s : State) (hs : Memory.wf s.mem) :
    canonicalNext (runSides sides s) := by
  have turn : ∀ (sels : List Sel) (ahead : List (Nat × Bool)) (st : State), Memory.wf st.mem →
      Memory.wf (match runSide sels { st with hold := true, ahead := ahead } with
        | .next st' => st'
        | .fault _ | .refused _ => st).mem := by
    intro sels ahead st h
    split
    · next e => exact runSide_wf _ _ (by exact h) _ e
    · exact h
    · exact h
  unfold runSides
  split
  · exact runSide_wf _ _ hs
  · exact (canonicalNext_next _).2 (endSides_wf _ _ _ _ (turn _ _ _ (turn _ _ _ hs)))
  · simp

@[simp] theorem asNext_wf (r : Result) (hr : canonicalNext r) : canonicalSome (asNext r) := by
  cases r with
  | next s => simpa [asNext] using hr
  | fault r => simp [asNext]
  | refused r => simp [asNext]

@[simp] theorem tileTurn_wf (s : State) (hs : Memory.wf s.mem) : canonicalSome (tileTurn s) := by simp [tileTurn, hs]
@[simp] theorem firstEnabled_wf (s : State) (l : List Instr) (hs : Memory.wf s.mem) :
    canonicalSome (firstEnabled s l) := by
  exact canonicalSome_findSome _ _ fun i => asNext_wf _ (exec_wf i s hs)

@[simp] theorem urgent_wf (s : State) (hs : Memory.wf s.mem) : canonicalSome (urgent s) := by
  have turns : ∀ turn ∈ [dueTurn, areaTurn, imageTurn, setTurn, hubTurn, passTurn, tileTurn], canonicalSome (turn s) := by
    simp [hs]
  refine (canonicalSome_orElse _ _).2 ⟨fun t ht => ?_, fun _ => firstEnabled_wf _ _ hs⟩
  obtain ⟨turn, hm, e⟩ := List.exists_of_findSome?_eq_some ht
  exact turns turn hm t e

@[simp] theorem hostStore_wf (pa : Nat) (value : W64) (poison : Bool) (s : State) (hs : Memory.wf s.mem) :
    Memory.wf (hostStore pa value poison s).mem := by simp [hostStore, hs]
@[simp] theorem areaChange_mem (n : Nat) (now : Option AreaState) (s : State) : (areaChange n now s).mem = s.mem := by
  simp [areaChange]
@[simp] theorem takeInput_wf (s : State) (hs : Memory.wf s.mem) : Memory.wf (takeInput s).mem := by
  unfold takeInput
  dsimp only
  (repeat' split) <;> try simp [hs]
  exact canonicalSome_getD _ _ (asNext_wf _ (exec_wf _ _ hs)) hs

@[simp] theorem perform_wf (m : Choice) (s : State) (hs : Memory.wf s.mem) : canonicalNext (perform m s) := by
  unfold perform
  split <;> simp [hs]

@[simp] theorem choose_mem (s : State) : (choose s).2.mem = s.mem := by
  unfold choose
  split <;> rfl

/-- A step keeps the form: what happens at once, and each move that may happen. -/
theorem step_wf (s : State) (hs : Memory.wf s.mem) : canonicalNext (step s) := by
  unfold step
  split
  · next t e => exact (canonicalNext_next t).2 (urgent_wf s hs t e)
  · exact perform_wf _ _ (by rw [choose_mem]; exact hs)

end Sys2Proof.Machine

/-- Settles O50: every operation that makes up a step writes memory by `Memory.putAll` alone, which keeps the form. -/
theorem memoryCanonical : Obligations.MemoryCanonical := by
  unfold Obligations.MemoryCanonical
  exact fun s t h e => Sys2Proof.Machine.step_wf s h t e
end

section
/-! PROOFS. Stores performed (O23): a store to plain memory, the one byte of a store through the Mere map, and the oldest marker. -/

namespace Sys2Proof.Machine

/-! The bytes a write covers. -/

/-- One byte covers no unit of more bytes than one. -/
theorem covers_single (pa pa' n : Nat) (b : Byte) (hn : 2 ≤ n) : covers [(pa, b)] pa' n = false := by
  simp only [covers, List.any_cons, List.any_nil, Bool.or_false, List.all_eq_false, decide_eq_true_eq]
  by_cases h : pa = pa' / n * n
  · exact ⟨1, by simp [upto]; omega, by omega⟩
  · exact ⟨0, by simp [upto]; omega, by omega⟩

/-- Discarding bytes of a write of one byte leaves the poisoned units as they are. -/
theorem clearUnits_filter_single (poison : List Nat) (pa : Nat) (b : Byte) (f : Nat × Byte → Bool) :
    clearUnits poison ([(pa, b)].filter f) = poison := by
  have none : ∀ u, covers [] u 64 = false := fun u => by simp [covers, upto]; exact ⟨0, by omega⟩
  cases h : f (pa, b) <;> simp [clearUnits, h, covers_single, none]

/-! The Mere map. The match of `mereGrain`, `mereLands` and `mereRead` on the place of an address is opened at the function
alone, before the address is named: the kernel must never compute that place, whose offset lies beyond 2^36. -/

theorem two_le_mereGrain (pa : Nat) : 2 ≤ mereGrain pa := by
  suffices h : ∀ f, f = mereGrain → 2 ≤ f pa from h _ rfl
  intro f hf
  delta mereGrain at hf
  subst hf
  dsimp only
  generalize mereAt (mereOffset pa) = m
  cases m <;> simp

/-- The places of the frame and group views (R203). -/
def MereAt.isView : MereAt → Bool
  | .frameV _ _ _ _ | .frameS _ _ _ _ | .groupV _ _ _ _ | .groupS _ _ _ _ => true
  | .scratch | .tile _ _ | .acc _ _ | .granule _ _ | .query _ | .nothing => false

/-- Whether an address lands between issue cycles is told by its place (R203). -/
theorem mereLands_eq (pa : Nat) : mereLands pa = (isMere pa && (mereAt (mereOffset pa)).isView) := by
  suffices h : ∀ f, f = mereLands → ∀ e m, e = isMere pa → m = mereAt (mereOffset pa) → f pa = (e && m.isView) from
    h _ rfl _ _ rfl rfl
  intro f hf e m he hm
  delta mereLands at hf
  subst hf
  dsimp only
  rw [← he, ← hm]
  clear he hm
  cases m <;> rfl

/-- A write of one byte, as a step of any kind takes it. -/
theorem foldl_covers_single {α : Type} (step : α → Nat → Byte → Bool → Bool → α) (a : α) (pa : Nat) (b : Byte) :
    [(pa, b)].foldl (fun x c => step x c.1 c.2 (covers [(pa, b)] c.1 (mereGrain c.1)) false) a = step a pa b false false := by
  simp [covers_single pa pa (mereGrain pa) b (two_le_mereGrain pa)]

/-- A write of firmware's of one byte of the Mere map (R203). -/
theorem writeRaw_single (s : State) (pa : Nat) (b : Byte) (h : isMere pa = true) :
    writeRaw s [(pa, b)] = mereWrite (mereDrop s [pa]) pa b false false := by
  have hplain : [(pa, b)].filter (fun c => !isMere c.1) = [] := by simp [h]
  have hmere : [(pa, b)].filter (fun c => isMere c.1) = [(pa, b)] := by simp [h]
  unfold writeRaw
  rw [clearUnits_filter_single, hplain, hmere]
  exact foldl_covers_single mereWrite _ _ _

/-- What a write of one byte drops: nothing, where it is not dropped. -/
theorem mereDrop_none (s : State) (pa : Nat) (h : dropOwner s pa = none) : mereDrop s [pa] = s := by
  simp [mereDrop, h]
theorem mereDrop_some (s : State) (pa c tid gid : Nat) (h : dropOwner s pa = some (c, tid, gid)) :
    mereDrop s [pa] = s.countStale c tid gid := by
  simp [mereDrop, h, addOnce]

/-- A byte written where a register, or the storage of a tile or accumulator, holds it. -/
theorem mereStore_edit {s : State} {c g pa : Nat} {m : MereAt} {b : Byte} {f : Group → Group} (hc : c < Config.cores)
    (hr : (s.core c).inReset = false) (hm : m ≠ .scratch) (he : mereEdit (s.core c) c m b false false = some (g, f)) :
    mereStore s c m pa b false false = s.modGroup c g f := by
  simp [mereStore, Nat.not_le.mpr hc, hr, hm, he]

/-! One byte replaced in a word. -/

theorem getLsbD_255 (w i : Nat) : (BitVec.ofNat w 255).getLsbD i = (decide (i < w) && decide (i < 8)) := by
  rw [BitVec.getLsbD_ofNat, show 255 = 2 ^ 8 - 1 from rfl, Nat.testBit_two_pow_sub_one]

/-- Byte i of a word in which byte k has been replaced. -/
theorem extract_putByte {w : Nat} (x : BitVec w) (k i : Nat) (b : Byte) (hi : 8 * i + 8 ≤ w) :
    (putByte x k b).extractLsb' (8 * i) 8 = if i = k then b else x.extractLsb' (8 * i) 8 := by
  ext j hj
  have hw : 8 * i + j < w := by omega
  simp only [putByte, BitVec.getElem_extractLsb', BitVec.getLsbD_or, BitVec.getLsbD_and, BitVec.getLsbD_not,
    BitVec.getLsbD_shiftLeft, getLsbD_255, BitVec.getLsbD_setWidth, hw, decide_true, Bool.true_and]
  split
  · next e =>
    subst e
    have h1 : ¬(8 * i + j < 8 * i) := by omega
    have h2 : 8 * i + j - 8 * i = j := by omega
    have h3 : j < w := by omega
    simp [h2, hj, h3]
  · next e =>
    by_cases h1 : 8 * i + j < 8 * k
    · simp [h1, BitVec.getElem_extractLsb']
    · have h2 : ¬(8 * i + j - 8 * k < 8) := by omega
      have h3 : b.getLsbD (8 * i + j - 8 * k) = false := BitVec.getLsbD_of_ge _ _ (by omega)
      simp [h2, h3, BitVec.getElem_extractLsb']

/-- Byte j of a vector register in which byte k has been replaced (R203). -/
theorem VReg.byte_putByte (r : VReg) (k j : Nat) (b : Byte) (hl : r.lanes.length = 32) (hj : j < 128) :
    ((r.putByte k b false false).byte j).1 = if j = k then b else (r.byte j).1 := by
  simp only [VReg.byte, VReg.putByte, laneAt, List.getD_eq_getElem?_getD, getElem?_changeAt]
  have hx : j / 4 < r.lanes.length := by omega
  split
  · next e =>
    rw [List.getElem?_eq_getElem hx]
    simp only [Option.map_some, Option.getD_some]
    rw [extract_putByte _ _ _ _ (by omega)]
    by_cases h : j = k
    · simp [h]
    · rw [if_neg (by omega), if_neg h]
  · next e => rw [if_neg (by rintro rfl; exact e rfl)]


/-! One byte of the Mere map, as the store that carries it finds the device. -/

section
variable {s : State} {c n pa : Nat} {o : StoreOp} {b : Byte} {m : MereAt} (h : MereByte s c n o pa b m)
include h

theorem MereByte.isMere : isMere pa = true := by simpa [Machine.isMere] using h.mere

theorem MereByte.lands : mereLands pa = m.isView := by rw [mereLands_eq, h.isMere, h.place, Bool.true_and]

/-- The byte is written at its place, after it has been counted where it is dropped. -/
theorem MereByte.writeCells (ho : blockFixed s pa = false) :
    writeCells s o.cells = mereStore (mereDrop s [pa]) (mereCore pa) m pa b false false := by
  have hopen : openCells s [(pa, b)] = [(pa, b)] := by simp [openCells, ho]
  unfold Machine.writeCells
  rw [h.cell, clearUnits_filter_single, hopen, writeRaw_single _ _ _ h.isMere, mereWrite, h.place]

end

/-- A byte of the closed fields of a block changes nothing (R11, R327). -/
theorem writeCells_closed (s : State) (pa : Nat) (b : Byte) (ho : blockFixed s pa = true) : writeCells s [(pa, b)] = s := by
  have hopen : openCells s [(pa, b)] = [] := by simp [openCells, ho]
  unfold writeCells
  rw [clearUnits_filter_single, hopen]
  have h0 : clearUnits s.poison [] = s.poison := clearUnits_filter_single s.poison 0 0 (fun _ => false)
  simp [writeRaw, Memory.putAll, mereDrop, h0]

/-! The store performed. -/

/-- A core's store of a number, taken from those outstanding. -/
def State.dropStore (s : State) (c n : Nat) : State := s.modCore c (fun k => { k with stores := dropAt k.stores n })

section
variable (s : State) (c n : Nat)
@[simp] theorem State.dropStore_tick : (s.dropStore c n).tick = s.tick := rfl
@[simp] theorem State.dropStore_tasks : (s.dropStore c n).tasks = s.tasks := rfl
@[simp] theorem State.dropStore_mem : (s.dropStore c n).mem = s.mem := rfl
@[simp] theorem State.dropStore_poison : (s.dropStore c n).poison = s.poison := rfl
@[simp] theorem State.dropStore_full : (s.dropStore c n).full = s.full := rfl
@[simp] theorem State.dropStore_tarn : (s.dropStore c n).tarn = s.tarn := rfl
@[simp] theorem State.dropStore_group? (c' g : Nat) : (s.dropStore c n).group? c' g = s.group? c' g :=
  s.group?_modCore c _ rfl c' g
@[simp] theorem State.dropStore_stores : ((s.dropStore c n).core c).stores = dropAt (s.core c).stores n := by
  simp [dropStore, State.core_modCore]
@[simp] theorem State.dropStore_loose (c' : Nat) : ((s.dropStore c n).core c').loose = (s.core c').loose := by
  unfold dropStore; rw [State.core_modCore]; split
  · next h => rw [h]
  · rfl
end

/-- A store that may be performed and lands is written, and is outstanding no more (R203, R234). -/
theorem exec_mereWriteLand {s : State} {c n : Nat} {o : StoreOp} (h : (s.core c).stores[n]? = some o)
    (hm : mayPerform (s.core c) n o = true) (hl : o.cells.any (fun x => mereLands x.1) = true) :
    exec (.mereWriteLand c n) s = .next ((writeCells s o.cells).dropStore c n) := by
  have hp : performStore c n true s = some ((writeCells s o.cells).dropStore c n) := by
    simp [performStore, h, hm, hl, State.dropStore]
  change event (performStore c n true s) = _
  rw [hp]; rfl

theorem exec_storePerformed {s : State} {c n : Nat} {o : StoreOp} (h : (s.core c).stores[n]? = some o)
    (hm : mayPerform (s.core c) n o = true) (hl : o.cells.any (fun x => mereLands x.1) = false) :
    exec (.storePerformed c n) s = .next ((writeCells s o.cells).dropStore c n) := by
  have hp : performStore c n false s = some ((writeCells s o.cells).dropStore c n) := by
    simp [performStore, h, hm, hl, State.dropStore]
  change event (performStore c n false s) = _
  rw [hp]; rfl

/-- A change of a group leaves what the core holds beside its groups. -/
@[simp] theorem State.modGroup_stores (s : State) (c g c' : Nat) (f : Group → Group) :
    ((s.modGroup c g f).core c').stores = (s.core c').stores := by
  unfold State.modGroup
  split
  · unfold State.putGroup; rw [State.core_modCore]; split
    · next h => rw [h]
    · rfl
  · rfl

theorem SameMemory.refl (s : State) : SameMemory s s := ⟨fun _ => rfl, rfl, rfl⟩

/-- What a store that changes one group leaves, and the group after it. -/
structure EditedGroup (s t : State) (c n c' w : Nat) (g' : Group) : Prop where
  memory : SameMemory s t
  tasks  : t.tasks = s.tasks
  others : OthersOf c' w s t
  stores : (t.core c).stores = dropAt (s.core c).stores n
  group  : t.group? c' w = some g'

theorem editedGroup_modGroup {s : State} {c' w : Nat} {g : Group} (c n : Nat) (f : Group → Group)
    (hg : s.group? c' w = some g) : EditedGroup s ((s.modGroup c' w f).dropStore c n) c n c' w (f g) where
  memory := ⟨fun _ => by simp, by simp, by simp⟩
  tasks := by simp
  others := fun c2 n2 h2 => by rw [State.dropStore_group?, State.group?_modGroup, if_neg h2]
  stores := by simp
  group := by rw [State.dropStore_group?, State.group?_modGroup]; simp [hg]

section
variable {s : State} {c n pa : Nat} {o : StoreOp} {b : Byte} {m : MereAt} (h : MereByte s c n o pa b m)
include h

/-- A byte of the frame or group view lands (R203). -/
theorem MereByte.exec_land (hv : m.isView = true) :
    exec (.mereWriteLand c n) s = .next ((Machine.writeCells s o.cells).dropStore c n) :=
  exec_mereWriteLand h.here h.may (by simp [h.cell, h.lands, hv])

/-- A byte of the physical view or the query page is performed (R201, R234). -/
theorem MereByte.exec_perform (hv : m.isView = false) :
    exec (.storePerformed c n) s = .next ((Machine.writeCells s o.cells).dropStore c n) :=
  exec_storePerformed h.here h.may (by simp [h.cell, h.lands, hv])

/-- Whose `stale` the byte counts in, where it is dropped. -/
theorem MereByte.dropOwner_eq : dropOwner s pa =
    if m.isView && ((s.core (mereCore pa)).viewOwner m).isNone then
      ((s.core (mereCore pa)).staleOwner m).map (fun g => (mereCore pa, g)) else none := by
  unfold dropOwner
  simp only [h.lands, h.core, h.service, h.place, decide_true, Bool.not_false, Bool.and_true]

/-- A byte that is not dropped counts nowhere. -/
theorem MereByte.mereDrop_eq (hv : m.isView = true → ((s.core (mereCore pa)).viewOwner m).isSome = true) :
    mereDrop s [pa] = s := by
  apply mereDrop_none
  rw [h.dropOwner_eq]
  cases hm : m.isView
  · rfl
  · simp [Option.isNone_eq_false_iff.2 (hv hm)]

/-- A byte that a register or an element that a group holds takes. -/
theorem MereByte.writeCells_edit {w : Nat} {f : Group → Group} (ho : blockFixed s pa = false) (hs : m ≠ .scratch)
    (hv : m.isView = true → ((s.core (mereCore pa)).viewOwner m).isSome = true)
    (he : mereEdit (s.core (mereCore pa)) (mereCore pa) m b false false = some (w, f)) :
    Machine.writeCells s o.cells = s.modGroup (mereCore pa) w f := by
  rw [h.writeCells ho, h.mereDrop_eq hv, mereStore_edit h.core h.service hs he]
end

/-! Registers. -/

/-- A put of a scalar other than S0 keeps all else. -/
theorem Group.kept_putS (g : Group) (fr d : Nat) (x : SReg) : Kept g (g.putS fr d x) fr [.s d] := by
  refine ⟨?_, by simp, fun fr' => Group.frame_bare_putS ..⟩
  intro fr' r hr
  cases r with
  | s n =>
    simp only [SameReg, Group.readS_putS]
    by_cases h0 : n = 0
    · simp [h0, Group.readS]
    · rw [if_neg h0, if_neg]
      rintro ⟨rfl, hd⟩
      refine hr ⟨by simp, fun hf => hd.resolve_left ?_⟩
      simpa [RegRef.frameLocal] using hf
  | v n => simp [SameReg]
  | p n => simp [SameReg, Group.readP]
  | t n => simp [SameReg, Group.readT]
  | a n q => simp [SameReg, Group.readA]

theorem Group.readT_putT (g : Group) (n n' : Nat) (t : Tile) : (g.putT n t).readT n' = if n' = n then t else g.readT n' := by
  simp [Group.readT, Group.putT, Table.getD_set]
theorem Group.readA_putA (g : Group) (n n' : Nat) (a : Acc) : (g.putA n a).readA n' = if n' = n then a else g.readA n' := by
  simp [Group.readA, Group.putA, Table.getD_set]

/-- A put of a tile keeps all else. -/
theorem Group.kept_putT (g : Group) (fr n : Nat) (t : Tile) : Kept g (g.putT n t) fr [.t n] := by
  refine ⟨?_, rfl, fun _ => rfl⟩
  intro fr' r hr
  cases r with
  | t n' =>
    have : n' ≠ n := by rintro rfl; exact hr ⟨by simp, by simp [RegRef.frameLocal]⟩
    simp [SameReg, Group.readT_putT, this]
  | s n => rfl
  | v n => rfl
  | p n => rfl
  | a n q => exact ⟨rfl, rfl, fun _ _ _ => rfl⟩

/-! The places. -/

theorem mereAt_frameS {off slot gen reg k : Nat} (h : mereAt off = .frameS slot gen reg k) : 32 ≤ reg ∧ k < 8 := by
  unfold mereAt at h
  simp only at h
  split at h <;> (repeat' split at h) <;> simp at h
  omega
theorem mereAt_groupS {off slot gen reg k : Nat} (h : mereAt off = .groupS slot gen reg k) : 1 ≤ reg ∧ reg < 32 ∧ k < 8 := by
  unfold mereAt at h
  simp only at h
  split at h <;> (repeat' split at h) <;> simp at h
  omega
theorem mereAt_frameV {off slot gen reg k : Nat} (h : mereAt off = .frameV slot gen reg k) : reg < 120 ∧ k < 128 := by
  unfold mereAt at h
  simp only at h
  split at h <;> (repeat' split at h) <;> simp at h
  omega
theorem mereAt_groupV {off slot gen reg k : Nat} (h : mereAt off = .groupV slot gen reg k) : 120 ≤ reg ∧ k < 128 := by
  unfold mereAt at h
  simp only at h
  split at h <;> (repeat' split at h) <;> simp at h
  omega
theorem mereAt_tile {off e k : Nat} (h : mereAt off = .tile e k) : k < 1536 := by
  unfold mereAt at h
  simp only at h
  split at h <;> (repeat' split at h) <;> simp at h
  next hk => simp at hk; omega
theorem mereAt_acc {off e k : Nat} (h : mereAt off = .acc e k) : k < 1024 := by
  unfold mereAt at h
  simp only at h
  split at h <;> (repeat' split at h) <;> simp at h
  omega

section
variable {s : State} {c n pa slot gen reg k fr owner : Nat} {o : StoreOp} {b : Byte} {m : MereAt} {g : Group}

/-- A byte stored through the frame or group view lands in its scalar (R203). -/
theorem scalarByte_lands
    (hm : (m = .frameS slot gen reg k ∧ fr = slot) ∨ (m = .groupS slot gen reg k ∧ fr = 0)) (h : MereByte s c n o pa b m)
    (ho : blockFixed s pa = false) (hw : (s.core (mereCore pa)).viewOwner m = some owner)
    (hg : s.group? (mereCore pa) owner = some g) :
    ∃ t g', exec (.mereWriteLand c n) s = .next t ∧ EditedGroup s t c n (mereCore pa) owner g' ∧
      Kept g g' fr [.s reg] ∧ (g'.readS fr reg).val = putByte (g.readS fr reg).val k b ∧
      (g'.readS fr reg).poison = (g.readS fr reg).poison := by
  have hview : m.isView = true := by rcases hm with ⟨rfl, _⟩ | ⟨rfl, _⟩ <;> rfl
  have hedit : mereEdit (s.core (mereCore pa)) (mereCore pa) m b false false =
      some (owner, fun x => x.putS fr reg ((x.readS fr reg).putByte k b false false)) := by
    rcases hm with ⟨rfl, rfl⟩ | ⟨rfl, rfl⟩ <;> simp [mereEdit, hw]
  have hreg : reg ≠ 0 ∧ (reg < 32 ∨ fr = fr) := by
    rcases hm with ⟨rfl, _⟩ | ⟨rfl, _⟩
    · have := mereAt_frameS h.place; omega
    · have := mereAt_groupS h.place; omega
  have hcells := h.writeCells_edit ho (by rcases hm with ⟨rfl, _⟩ | ⟨rfl, _⟩ <;> simp) (fun _ => by rw [hw]; rfl) hedit
  refine ⟨_, _, h.exec_land hview, hcells ▸ editedGroup_modGroup c n _ hg, Group.kept_putS .., ?_, ?_⟩ <;>
    simp [Group.readS_putS, hreg.1, SReg.putByte]

/-- A byte stored through the frame or group view lands in its vector register (R203). -/
theorem vectorByte_lands
    (hm : (m = .frameV slot gen reg k ∧ fr = slot) ∨ (m = .groupV slot gen reg k ∧ fr = 0)) (h : MereByte s c n o pa b m)
    (ho : blockFixed s pa = false) (hw : (s.core (mereCore pa)).viewOwner m = some owner)
    (hg : s.group? (mereCore pa) owner = some g) (hl : (g.lanes fr reg).length = 32) :
    ∃ t g', exec (.mereWriteLand c n) s = .next t ∧ EditedGroup s t c n (mereCore pa) owner g' ∧
      Kept g g' fr [.v reg] ∧ (g'.readV fr reg).poison = (g.readV fr reg).poison ∧
      ∀ j, j < 128 → ((g'.readV fr reg).byte j).1 = if j = k then b else ((g.readV fr reg).byte j).1 := by
  have hview : m.isView = true := by rcases hm with ⟨rfl, _⟩ | ⟨rfl, _⟩ <;> rfl
  have hedit : mereEdit (s.core (mereCore pa)) (mereCore pa) m b false false =
      some (owner, fun x => x.putV fr reg ((x.readV fr reg).putByte k b false false)) := by
    rcases hm with ⟨rfl, rfl⟩ | ⟨rfl, rfl⟩ <;> simp [mereEdit, hw]
  have hcells := h.writeCells_edit ho (by rcases hm with ⟨rfl, _⟩ | ⟨rfl, _⟩ <;> simp) (fun _ => by rw [hw]; rfl) hedit
  refine ⟨_, _, h.exec_land hview, hcells ▸ editedGroup_modGroup c n _ hg, Group.kept_putV .., ?_, fun j hj => ?_⟩
  · simp [Group.readV_putV, VReg.putByte]
  · rw [Group.readV_putV, if_pos ⟨rfl, .inr rfl⟩]
    exact VReg.byte_putByte _ k j b hl hj
end

section
variable {s : State} {c n pa e k num owner : Nat} {o : StoreOp} {b : Byte} {g : Group}

/-- A byte stored through the physical view lands in the tile that holds its element (R201). -/
theorem tileByte_performed (h : MereByte s c n o pa b (.tile e k)) (ho : blockFixed s pa = false)
    (hw : (s.core (mereCore pa)).tileOwner (modelElem (mereCore pa) 1 e) = some (owner, num))
    (hg : s.group? (mereCore pa) owner = some g) (hl : (g.readT num).bytes.length = 1536) :
    ∃ t g', exec (.storePerformed c n) s = .next t ∧ EditedGroup s t c n (mereCore pa) owner g' ∧ Kept g g' 0 [.t num] ∧
      ∀ j, j < 1536 → (g'.readT num).bytes.getD j 0 = if j = k then b else (g.readT num).bytes.getD j 0 := by
  have hedit : mereEdit (s.core (mereCore pa)) (mereCore pa) (.tile e k) b false false = some (owner, fun x =>
      x.putT num { x.readT num with bytes := changeAt (x.readT num).bytes k (fun _ => b) }) := by simp [mereEdit, hw]
  have hcells := h.writeCells_edit ho (by simp) (by simp [MereAt.isView]) hedit
  refine ⟨_, _, h.exec_perform rfl, hcells ▸ editedGroup_modGroup c n _ hg, Group.kept_putT .., fun j hj => ?_⟩
  have hj' : j < (g.readT num).bytes.length := by omega
  simp only [Group.readT_putT, if_true, List.getD_eq_getElem?_getD, getElem?_changeAt]
  split
  · simp [List.getElem?_eq_getElem hj']
  · rfl

/-- A byte stored through the physical view lands in the vector register that holds its granule (R201). -/
theorem granuleByte_performed {i fr : Nat} (h : MereByte s c n o pa b (.granule e k)) (ho : blockFixed s pa = false)
    (hw : (s.core (mereCore pa)).granOwner (modelElem (mereCore pa) 0 e) = some (owner, fr, i))
    (hg : s.group? (mereCore pa) owner = some g) (hl : (g.lanes fr (8 * i + k / 128)).length = 32) :
    ∃ t g', exec (.storePerformed c n) s = .next t ∧ EditedGroup s t c n (mereCore pa) owner g' ∧
      Kept g g' fr [.v (8 * i + k / 128)] ∧
      ∀ j, j < 128 → ((g'.readV fr (8 * i + k / 128)).byte j).1 =
        if j = k % 128 then b else ((g.readV fr (8 * i + k / 128)).byte j).1 := by
  have hedit : mereEdit (s.core (mereCore pa)) (mereCore pa) (.granule e k) b false false = some (owner, fun x =>
      x.putV fr (8 * i + k / 128) ((x.readV fr (8 * i + k / 128)).putByte (k % 128) b false false)) := by
    simp [mereEdit, hw]
  have hcells := h.writeCells_edit ho (by simp) (by simp [MereAt.isView]) hedit
  refine ⟨_, _, h.exec_perform rfl, hcells ▸ editedGroup_modGroup c n _ hg, Group.kept_putV .., fun j hj => ?_⟩
  rw [Group.readV_putV, if_pos ⟨rfl, .inr rfl⟩]
  exact VReg.byte_putByte _ _ j b hl hj

/-- One value of an accumulator in which a byte has been replaced is kept, unless it holds the byte. -/
theorem Group.kept_putA_vals (g : Group) (num k : Nat) (f : W32 → W32) :
    Kept g (g.putA num { g.readA num with vals := changeAt (g.readA num).vals (k / 4) f }) 0
      [.a num 0, .a num 1, .a num 2, .a num 3] := by
  refine ⟨?_, rfl, fun _ => rfl⟩
  intro fr' r hr
  cases r with
  | a n q =>
    simp only [SameReg, Group.readA_putA]
    split
    · next hn =>
      subst hn
      have hq : ¬q < 4 := fun hq => by
        refine hr ⟨?_, by simp [RegRef.frameLocal]⟩
        have : q = 0 ∨ q = 1 ∨ q = 2 ∨ q = 3 := by omega
        rcases this with rfl | rfl | rfl | rfl <;> simp
      exact ⟨rfl, rfl, fun h => absurd h hq⟩
    · exact ⟨rfl, rfl, fun _ _ _ => rfl⟩
  | s n => rfl
  | v n => rfl
  | p n => rfl
  | t n => rfl

/-- A byte stored through the physical view lands in the accumulator that holds its element (R201). -/
theorem accByte_performed (h : MereByte s c n o pa b (.acc e k)) (ho : blockFixed s pa = false)
    (hw : (s.core (mereCore pa)).accOwner (modelElem (mereCore pa) 2 e) = some (owner, num))
    (hg : s.group? (mereCore pa) owner = some g) (hl : (g.readA num).vals.length = 256) :
    ∃ t g', exec (.storePerformed c n) s = .next t ∧ EditedGroup s t c n (mereCore pa) owner g' ∧
      Kept g g' 0 [.a num 0, .a num 1, .a num 2, .a num 3] ∧
      ∀ j, j < 1024 → ((g'.readA num).vals.getD (j / 4) 0).extractLsb' (8 * (j % 4)) 8 =
        if j = k then b else ((g.readA num).vals.getD (j / 4) 0).extractLsb' (8 * (j % 4)) 8 := by
  have hedit : mereEdit (s.core (mereCore pa)) (mereCore pa) (.acc e k) b false false = some (owner, fun x =>
      x.putA num { x.readA num with vals := changeAt (x.readA num).vals (k / 4) (fun v => putByte v (k % 4) b) }) := by
    simp [mereEdit, hw]
  have hcells := h.writeCells_edit ho (by simp) (by simp [MereAt.isView]) hedit
  refine ⟨_, _, h.exec_perform rfl, hcells ▸ editedGroup_modGroup c n _ hg, Group.kept_putA_vals ..,
    fun j hj => ?_⟩
  have hx : j / 4 < (g.readA num).vals.length := by omega
  simp only [Group.readA_putA, if_true, List.getD_eq_getElem?_getD, getElem?_changeAt]
  split
  · next hjk =>
    rw [List.getElem?_eq_getElem hx]
    simp only [Option.map_some, Option.getD_some]
    rw [extract_putByte _ _ _ _ (by omega)]
    by_cases hj : j = k
    · simp [hj]
    · rw [if_neg (by omega), if_neg hj]
  · next hjk => rw [if_neg (by rintro rfl; exact hjk rfl)]
end

/-! Bytes that are dropped. -/

/-- Reading a table whose values have been replaced. -/
theorem Table.get?_map {α β : Type} (t : Table α) (f : α → β) (k : Nat) :
    Table.get? (t.map (fun e => (e.1, f e.2))) k = (Table.get? t k).map f := by
  induction t with
  | nil => rfl
  | cons e t ih =>
    obtain ⟨j, x⟩ := e
    simp only [List.map_cons, Table.get?]
    split
    · rfl
    · exact ih

/-- What a table reads for a number is in it. -/
theorem Table.mem_of_get? {α : Type} {t : Table α} {k : Nat} {x : α} (h : Table.get? t k = some x) : (k, x) ∈ t := by
  induction t with
  | nil => simp [Table.get?] at h
  | cons e t ih =>
    obtain ⟨j, y⟩ := e
    simp only [Table.get?] at h
    split at h
    · next hk => subst hk; rw [Option.some.inj h]; exact List.mem_cons_self
    · exact List.mem_cons_of_mem _ (ih h)

/-- What of a group says which frames' registers it holds. -/
def Group.holding (g : Group) : Bool × Table Frame := (g.out, g.frames)

theorem Core.frameOwner_eq (k : Core) (fr : Nat) : k.frameOwner fr =
    ((k.groups.map (fun e => (e.1, e.2.holding))).find? (fun e => !e.2.1 && (Table.get? e.2.2 fr).isSome)).map Prod.fst := by
  simp only [Core.frameOwner, List.find?_map, Option.map_map]
  rfl

/-- Whose register a view names depends on the generations and on the frames that the groups hold. -/
theorem Core.viewOwner_congr {k k' : Core} (hs : k'.sgen = k.sgen) (hg : k'.ggen = k.ggen)
    (h : k'.groups.map (fun e => (e.1, e.2.holding)) = k.groups.map (fun e => (e.1, e.2.holding))) (m : MereAt) :
    k'.viewOwner m = k.viewOwner m := by
  have hframe : ∀ fr, k'.frameOwner fr = k.frameOwner fr := fun fr => by rw [Core.frameOwner_eq, h, ← Core.frameOwner_eq]
  have hget : ∀ n, (Table.get? k'.groups n).map Group.holding = (Table.get? k.groups n).map Group.holding := fun n => by
    rw [← Table.get?_map, h, Table.get?_map]
  have hsome : ∀ n, (Table.get? k'.groups n).isSome = (Table.get? k.groups n).isSome := fun n => by
    simpa using congrArg Option.isSome (hget n)
  have hsgen : ∀ fr, k'.sgenOf fr = k.sgenOf fr := fun fr => by simp [Core.sgenOf, hs]
  have hggen : ∀ n, k'.ggenOf n = k.ggenOf n := fun n => by simp [Core.ggenOf, hg]
  cases m with
  | frameV slot gen reg _ =>
    simp only [Core.viewOwner, hframe, hsgen]
    cases k.frameOwner slot with
    | none => rfl
    | some g =>
      have hx := hget g
      rcases hk : Table.get? k.groups g with _ | x <;> rcases hk' : Table.get? k'.groups g with _ | y <;>
        simp [hk, hk', Group.holding] at hx ⊢
      rw [show y.frame slot = x.frame slot by simp [Group.frame, hx.2]]
  | frameS slot gen _ _ => simp only [Core.viewOwner, hframe, hsgen]
  | groupV slot gen _ _ => simp only [Core.viewOwner, hsome, hggen]
  | groupS slot gen _ _ => simp only [Core.viewOwner, hsome, hggen]
  | scratch => rfl
  | tile _ _ => rfl
  | acc _ _ => rfl
  | granule _ _ => rfl
  | query _ => rfl
  | nothing => rfl

/-- A byte of the frame or group view whose slot is not held changes nothing (R203). -/
theorem mereStore_dropped {s : State} {c pa : Nat} {m : MereAt} {b : Byte} (hv : m.isView = true)
    (hw : (s.core c).viewOwner m = none) : mereStore s c m pa b false false = s := by
  cases m <;> simp [MereAt.isView] at hv <;> simp [mereStore, mereEdit, hw, MereAt.chanAt, MereAt.loose]

/-- A count in `stale` leaves whose register a view names. -/
theorem State.viewOwner_bumpStale {s : State} {c w : Nat} {g : Group} (hg : s.group? c w = some g) (m : MereAt) :
    ((s.bumpStale c w).core c).viewOwner m = (s.core c).viewOwner m := by
  simp only [State.bumpStale, State.modGroup, hg, State.signal, State.raise, State.putGroup, State.core_modCore, if_true]
  apply Core.viewOwner_congr
  · rfl
  · rfl
  · exact Table.map_set _ _ _ g (fun e => (e.1, e.2.holding)) hg rfl

@[simp] theorem State.signal_stores (s : State) (c ctx n c' : Nat) : ((s.signal c ctx n).core c').stores = (s.core c').stores := by
  unfold State.signal State.raise
  rw [State.core_modCore]
  split
  · next h => rw [h]
  · rfl

/-- A dropped byte counts in `stale` of the group to which its slot belonged, and changes nothing else (R203). -/
theorem droppedByte_resident {s : State} {c n pa owner : Nat} {b : Byte} {o : StoreOp} {g : Group} {m : MereAt}
    (hl : mereLands pa = true) (h : MereByte s c n o pa b m) (ho : blockFixed s pa = false)
    (hw : (s.core (mereCore pa)).viewOwner m = none) (hs : (s.core (mereCore pa)).staleOwner m = some (g.task, g.gid))
    (hg : s.group? (mereCore pa) owner = some g)
    (hu : ∀ e ∈ (s.core (mereCore pa)).groups, e.2.task = g.task → e.2.gid = g.gid → e.1 = owner) :
    ∃ t, exec (.mereWriteLand c n) s = .next t ∧
      EditedGroup s t c n (mereCore pa) owner { g with stale := bumpStop g.stale } := by
  have hv : m.isView = true := by rw [← h.lands, hl]
  have hd : mereDrop s [pa] = s.countStale (mereCore pa) g.task g.gid :=
    mereDrop_some _ _ _ _ _ (by rw [h.dropOwner_eq]; simp [hv, hw, hs])
  have hc : s.countStale (mereCore pa) g.task g.gid = s.bumpStale (mereCore pa) owner := by
    have hmem := Table.mem_of_get? hg
    unfold State.countStale
    split
    · next e he =>
      have hp := List.find?_some he
      simp only [Bool.and_eq_true, decide_eq_true_eq] at hp
      rw [hu e (List.mem_of_find?_eq_some he) hp.1 hp.2]
    · next he => exact absurd (List.find?_eq_none.1 he _ hmem) (by simp)
  have hw' := (State.viewOwner_bumpStale hg m).trans hw
  have hcells : Machine.writeCells s o.cells = s.bumpStale (mereCore pa) owner := by
    rw [h.writeCells ho, hd, hc, mereStore_dropped hv hw']
  refine ⟨_, h.exec_land hv, ?_⟩
  rw [hcells]
  have e := editedGroup_modGroup c n (fun x => { x with stale := bumpStop x.stale }) hg
  obtain ⟨memory, tasks, others, stores, group⟩ := e
  refine ⟨⟨fun a => ?_, ?_, ?_⟩, ?_, fun c' n' hn => ?_, ?_, ?_⟩
  · simp [State.bumpStale]
  · simp [State.bumpStale]
  · simp [State.bumpStale]
  · simp [State.bumpStale]
  · simpa [State.bumpStale] using others c' n' hn
  · simp [State.bumpStale]
  · simpa [State.bumpStale] using group

/-- A dropped byte of a slot whose group has been saved counts in the saved group (R203). -/
theorem droppedByte_saved {s : State} {c n pa tid gid : Nat} {b : Byte} {o : StoreOp} {m : MereAt}
    (hl : mereLands pa = true) (h : MereByte s c n o pa b m) (ho : blockFixed s pa = false)
    (hw : (s.core (mereCore pa)).viewOwner m = none) (hs : (s.core (mereCore pa)).staleOwner m = some (tid, gid))
    (hu : ∀ e ∈ (s.core (mereCore pa)).groups, ¬(e.2.task = tid ∧ e.2.gid = gid)) :
    exec (.mereWriteLand c n) s = .next ((s.modTask tid (fun t =>
      { t with saved := t.saved.map (fun x => if x.group.gid = gid then x.countStale else x) })).dropStore c n) := by
  have hv : m.isView = true := by rw [← h.lands, hl]
  have hd : mereDrop s [pa] = s.countStale (mereCore pa) tid gid :=
    mereDrop_some _ _ _ _ _ (by rw [h.dropOwner_eq]; simp [hv, hw, hs])
  have hfind : (s.core (mereCore pa)).groups.find? (fun e => decide (e.2.task = tid) && decide (e.2.gid = gid)) = none := by
    rw [List.find?_eq_none]
    intro e he
    simpa using hu e he
  have hc : s.countStale (mereCore pa) tid gid = s.modTask tid (fun t =>
      { t with saved := t.saved.map (fun x => if x.group.gid = gid then x.countStale else x) }) := by
    unfold State.countStale
    rw [hfind]
  rw [h.exec_land hv, h.writeCells ho, hd, hc]
  congr 2
  exact mereStore_dropped hv hw

/-! Bytes of elements that nobody holds, and of the query page. -/

/-- A place of the physical view that no group's register and no full slot of a channel holds (R201). -/
def Unheld (s : State) (c : Nat) (m : MereAt) (e k : Nat) : Prop :=
  (m = .tile e k ∧ (s.core c).tileOwner (modelElem c 1 e) = none) ∨
  (m = .acc e k ∧ (s.core c).accOwner (modelElem c 2 e) = none) ∨
  (m = .granule e k ∧ (s.core c).granOwner (modelElem c 0 e) = none ∧ s.chanByte c (modelElem c 0 e) k = none)

/-- A byte written to an element that nobody holds is kept there (R201). -/
theorem mereStore_unheld {s : State} {c pa e k : Nat} {m : MereAt} (b : Byte) (hc : c < Config.cores)
    (hr : (s.core c).inReset = false) (h : Unheld s c m e k) : ∃ key, m.loose c = some key ∧
      mereStore s c m pa b false false = s.modCore c (fun x => x.looseWrite key b false false) := by
  rcases h with ⟨rfl, h⟩ | ⟨rfl, h⟩ | ⟨rfl, h, h'⟩
  · exact ⟨_, rfl, by simp [mereStore, Nat.not_le.mpr hc, hr, mereEdit, h, MereAt.chanAt, MereAt.loose]⟩
  · exact ⟨_, rfl, by simp [mereStore, Nat.not_le.mpr hc, hr, mereEdit, h, MereAt.chanAt, MereAt.loose]⟩
  · exact ⟨_, rfl, by simp [mereStore, Nat.not_le.mpr hc, hr, mereEdit, h, h', MereAt.chanAt, MereAt.loose]⟩

/-- A byte of an element that nobody holds reads as it is kept there (R201). -/
theorem mereRead_unheld {s : State} {pa e k key : Nat} {m : MereAt} {x : Byte × Bool} (hc : mereCore pa < Config.cores)
    (hp : mereAt (mereOffset pa) = m) (h : Unheld s (mereCore pa) m e k) (hk : m.loose (mereCore pa) = some key)
    (hl : Table.get? (s.core (mereCore pa)).loose key = some x) : ∃ q, mereRead s none pa = (x.1, q) := by
  suffices hh : ∀ f, f = mereRead → ∀ core off, core = mereCore → off = mereOffset → ∃ q, f s none pa = (x.1, q) from
    hh _ rfl _ _ rfl rfl
  intro f hf core off hcore hoff
  delta mereRead at hf
  rw [← hcore, ← hoff] at hf
  rw [← hcore] at hc h hk hl
  rw [← hoff] at hp
  clear hcore hoff
  subst hf
  dsimp only
  rw [if_neg (Nat.not_le.2 hc), hp]
  refine ⟨(s.core (core pa)).loosePoison key, ?_⟩
  rcases h with ⟨rfl, h⟩ | ⟨rfl, h⟩ | ⟨rfl, h, h'⟩ <;> cases hk
  · simp [h, Core.looseRead, hl]
  · simp [h, Core.looseRead, hl]
  · simp [h, h', Core.looseRead, hl]

/-- A byte stored to an element that nobody holds is read back from it (R201). -/
theorem unheldByte_performed {s : State} {c n pa e k : Nat} {b : Byte} {o : StoreOp} {m : MereAt}
    (h : MereByte s c n o pa b m) (ho : blockFixed s pa = false) (hu : Unheld s (mereCore pa) m e k) :
    ∃ t, exec (.storePerformed c n) s = .next t ∧ SameMemory s t ∧ t.tasks = s.tasks ∧
      (∀ c' g, t.group? c' g = s.group? c' g) ∧ (mereRead t none pa).1 = b := by
  have hv : m.isView = false := by rcases hu with ⟨rfl, _⟩ | ⟨rfl, _⟩ | ⟨rfl, _⟩ <;> rfl
  obtain ⟨key, hkey, hstore⟩ := mereStore_unheld (pa := pa) b h.core h.service hu
  refine ⟨_, h.exec_perform hv, ?_⟩
  rw [h.writeCells ho, h.mereDrop_eq (by simp [hv]), hstore]
  refine ⟨⟨fun _ => rfl, rfl, rfl⟩, rfl, fun c' g => ?_, ?_⟩
  · rw [State.dropStore_group?]; exact s.group?_modCore _ _ rfl c' g
  · have hgroups : (((s.modCore (mereCore pa) (fun x => x.looseWrite key b false false)).dropStore c n).core
        (mereCore pa)).groups = (s.core (mereCore pa)).groups := by
      simp only [State.dropStore, State.core_modCore]
      split
      · next hc => simp [← hc, Core.looseWrite]
      · simp [Core.looseWrite]
    have hu' : Unheld ((s.modCore (mereCore pa) (fun x => x.looseWrite key b false false)).dropStore c n) (mereCore pa) m e k := by
      unfold Unheld Core.tileOwner Core.accOwner Core.granOwner
      rw [hgroups]
      exact hu
    obtain ⟨q, hq⟩ := mereRead_unheld (x := (b, (s.core (mereCore pa)).loosePoison key)) h.core h.place hu' hkey
      (by rw [State.dropStore_loose, State.core_modCore]; simp [Core.looseWrite])
    rw [hq]

/-- A byte stored to the query page changes nothing (R204). -/
theorem queryByte_performed {s : State} {c n pa off : Nat} {b : Byte} {o : StoreOp} (h : MereByte s c n o pa b (.query off)) :
    exec (.storePerformed c n) s = .next (s.dropStore c n) := by
  rw [h.exec_perform rfl]
  cases ho : blockFixed s pa with
  | true => rw [h.cell, writeCells_closed s pa b ho]
  | false =>
    rw [h.writeCells ho, h.mereDrop_eq (by simp [MereAt.isView])]
    simp [mereStore, mereEdit, MereAt.chanAt, MereAt.loose]

/-! The oldest marker. -/

/-- The oldest marker completes once no store issued before it is outstanding (R243). -/
theorem exec_releaseMarkerComplete {s : State} {c : Nat} {m : Marker} {rest : List Marker}
    (hm : (s.core c).markers = m :: rest) (ho : ∀ o ∈ (s.core c).stores, m.number ≤ o.epoch) :
    exec (.releaseMarkerComplete c 0) s = .next (s.modCore c (fun x => { x with markers := rest })) := by
  have hall : (s.core c).stores.all (fun o => decide (m.number ≤ o.epoch)) = true := by simpa using ho
  have hp : markerComplete c 0 s = some (s.modCore c (fun x => { x with markers := rest })) := by
    simp only [markerComplete, hm, hall]; rfl
  change event (markerComplete c 0 s) = _
  rw [hp]; rfl

/-! Plain memory. -/

/-- The last write of a byte is what it reads. -/
theorem Memory.get_putAll_last (m : List Host.Cell) (l r : List (Nat × Byte)) (a : Nat) (b : Byte) (h : ∀ e ∈ r, e.1 ≠ a) :
    Memory.get (Memory.putAll m (l ++ (a, b) :: r)) a = b := by
  have happ : Memory.putAll m (l ++ (a, b) :: r) = Memory.putAll (Memory.put (Memory.putAll m l) a b) r := by
    simp [Memory.putAll]
  rw [happ, Memory.get_putAll_of_notMem _ _ _ h, Memory.get_put, if_pos rfl]

/-- A write of bytes outside the Mere map: the open ones to memory, and the poison of what it covers (R279). -/
theorem writeCells_plain (s : State) (cells : List (Nat × Byte)) (hm : ∀ c ∈ cells, isMere c.1 = false) :
    writeCells s cells = { s with
      mem := Memory.putAll s.mem (openCells s cells)
      poison := clearUnits (clearUnits s.poison cells) (openCells s cells) } := by
  have hopen : ∀ c ∈ openCells s cells, isMere c.1 = false := fun c hc => hm c (List.mem_filter.1 hc).1
  have hplain : (openCells s cells).filter (fun c => !isMere c.1) = openCells s cells :=
    List.filter_eq_self.2 fun c hc => by simp [hopen c hc]
  have hmere : (openCells s cells).filter (fun c => isMere c.1) = [] := List.filter_eq_nil_iff.2 fun c hc => by simp [hopen c hc]
  have hkeep : ∀ (st : State) (l : List (Nat × Byte)), (∀ c ∈ l, isMere c.1 = false) →
      l.filter (fun c => !discards st c.1) = l := fun st l hl => List.filter_eq_self.2 fun c hc => by simp [discards, hl c hc]
  unfold writeCells writeRaw
  simp only [hkeep _ _ hm, hkeep _ _ hopen, hplain, hmere, List.foldl_nil, List.map_nil]
  rfl

theorem covers_unit_iff (cells : List (Nat × Byte)) (u : Nat) :
    covers cells (64 * u) 64 = true ↔ ∀ k, k < 64 → ∃ e ∈ cells, e.1 = 64 * u + k := by
  have hu : 64 * u / 64 * 64 = 64 * u := by omega
  simp only [covers, upto, List.all_eq_true, List.any_eq_true, decide_eq_true_eq, List.mem_range, hu]

/-- A unit is poisoned after a write of clean bytes if it was and the write does not cover it whole (R279). -/
theorem mem_clearUnits (poison : List Nat) (cells : List (Nat × Byte)) (u : Nat) :
    u ∈ clearUnits poison cells ↔ u ∈ poison ∧ ¬∀ k, k < 64 → ∃ e ∈ cells, e.1 = 64 * u + k := by
  rw [← covers_unit_iff]
  simp [clearUnits]

/-- A store to plain memory is performed whole (R201, R234, R279). -/
theorem plainStore_performed {s : State} {c n : Nat} {o : StoreOp} (h : (s.core c).stores[n]? = some o)
    (hm : mayPerform (s.core c) n o = true) (hp : ∀ e ∈ o.cells, e.1 < Config.mereBase) :
    ∃ t, exec (.storePerformed c n) s = .next t ∧ t.tick = s.tick ∧ t.tasks = s.tasks ∧ t.full = s.full ∧ t.tarn = s.tarn ∧
      (t.core c).stores = dropAt (s.core c).stores n ∧ (∀ c' g, t.group? c' g = s.group? c' g) ∧
      (∀ a, (∀ e ∈ o.cells, e.1 ≠ a) ∨ blockFixed s a = true → Memory.get t.mem a = Memory.get s.mem a) ∧
      (∀ l a b r, o.cells = l ++ (a, b) :: r → (∀ e ∈ r, e.1 ≠ a) → blockFixed s a = false → Memory.get t.mem a = b) ∧
      ∀ u, u ∈ t.poison ↔ u ∈ s.poison ∧ ¬∀ k, k < 64 → ∃ e ∈ o.cells, e.1 = 64 * u + k := by
  have hmere : ∀ e ∈ o.cells, isMere e.1 = false := fun e he => by simpa [isMere] using hp e he
  have hlands : o.cells.any (fun x => mereLands x.1) = false :=
    List.any_eq_false.2 fun e he => by rw [mereLands_eq, hmere e he]; simp
  refine ⟨_, exec_storePerformed h hm hlands, ?_⟩
  rw [writeCells_plain s o.cells hmere]
  refine ⟨rfl, rfl, rfl, rfl, by simp; rfl, fun c' g => by simp; rfl, fun a ha => ?_, fun l a b r hc hr ho => ?_, fun u => ?_⟩
  · refine Memory.get_putAll_of_notMem _ _ _ fun e he => ?_
    obtain ⟨he, ho⟩ := List.mem_filter.1 he
    rcases ha with ha | ha
    · exact ha e he
    · rintro rfl; simp [ha] at ho
  · have hopen : openCells s o.cells = openCells s l ++ (a, b) :: openCells s r := by simp [openCells, hc, ho]
    simp only [State.dropStore_mem, hopen]
    exact Memory.get_putAll_last _ _ _ _ _ fun e he => hr e (List.mem_filter.1 he).1
  · simp only [State.dropStore_poison, mem_clearUnits]
    refine ⟨fun hh => hh.1, fun hh => ⟨hh, fun hopen => hh.2 fun k hk => ?_⟩⟩
    obtain ⟨e, he, hek⟩ := hopen k hk
    exact ⟨e, (List.mem_filter.1 he).1, hek⟩

end Sys2Proof.Machine

open Sys2Proof.Machine in
/-- Settles O23: a plain store by the write of its open cells, one byte of the Mere map by its place. -/
theorem storesPerformed : Obligations.StoresPerformed := by
  unfold Obligations.StoresPerformed
  refine ⟨fun s c n o h hm hp => plainStore_performed h hm hp, ?_, ?_, ?_, ?_, ?_, ?_, ?_, ?_, ?_, ?_⟩
  · intro s c n pa slot gen reg k fr owner b o g m hm h ho hw hg
    obtain ⟨t, g', he, ⟨memory, tasks, others, stores, group⟩, hk, hval, hpoison⟩ := scalarByte_lands hm h ho hw hg
    exact ⟨t, g', he, memory, tasks, others, stores, group, hk, hval, hpoison⟩
  · intro s c n pa slot gen reg k fr owner b o g m hm h ho hw hg hl
    obtain ⟨t, g', he, ⟨memory, tasks, others, stores, group⟩, hk, hpoison, hbyte⟩ := vectorByte_lands hm h ho hw hg hl
    exact ⟨t, g', he, memory, tasks, others, stores, group, hk, hpoison, hbyte⟩
  · intro s c n pa owner b o g m hl h ho hw hs hg hu
    obtain ⟨t, he, memory, tasks, others, stores, group⟩ := droppedByte_resident hl h ho hw hs hg hu
    exact ⟨t, he, memory, tasks, others, stores, group⟩
  · intro s c n pa tid gid b o m hl h ho hw hs hu
    exact ⟨_, droppedByte_saved hl h ho hw hs hu, ⟨fun _ => rfl, rfl, rfl⟩, fun _ _ => by simp, by simp, rfl⟩
  · intro s c n pa e k num owner b o g h ho hw hg hl
    obtain ⟨t, g', he, ⟨memory, tasks, others, _, group⟩, hk, hbyte⟩ := tileByte_performed h ho hw hg hl
    exact ⟨t, g', he, memory, tasks, others, group, hk, hbyte⟩
  · intro s c n pa e k num owner b o g h ho hw hg hl
    obtain ⟨t, g', he, ⟨memory, tasks, others, _, group⟩, hk, hbyte⟩ := accByte_performed h ho hw hg hl
    exact ⟨t, g', he, memory, tasks, others, group, hk, hbyte⟩
  · intro s c n pa e k i fr owner b o g h ho hw hg hl
    obtain ⟨t, g', he, ⟨memory, tasks, others, _, group⟩, hk, hbyte⟩ := granuleByte_performed h ho hw hg hl
    exact ⟨t, g', he, memory, tasks, others, group, hk, hbyte⟩
  · exact fun s c n pa e k b o m h ho hu => unheldByte_performed h ho hu
  · exact fun s c n pa off b o h => ⟨_, queryByte_performed h, ⟨fun _ => rfl, rfl, rfl⟩, rfl, by simp, by simp, by simp⟩
  · intro s c m rest hm ho
    refine ⟨_, exec_releaseMarkerComplete hm ho, ⟨fun _ => rfl, rfl, rfl⟩, rfl, ?_, ?_, s.group?_modCore c _ rfl⟩ <;>
      simp [State.core_modCore]
end

section
/-! PROOFS. What the device stores in the range that firmware keeps, and fault records (R212, R341). -/

namespace Sys2Proof.Machine

/-- An event that happens. -/
theorem event_some {e : Option State} {t : State} (h : e = some t) : event e = .next t := by rw [h]; rfl

/-! Bytes that the device stores, and fault records. -/

@[simp] theorem length_leBytes (n x : Nat) : (leBytes n x).length = n := by
  induction n generalizing x with
  | zero => rfl
  | succ n ih => simp [leBytes, ih]

/-- A byte of an image is one of those from its start on. -/
theorem within_of_mem_imageCells {pa : Nat} {bs : List Byte} {e : Nat × Byte} (h : e ∈ imageCells pa bs) :
    Within e.1 pa bs.length := by
  simp only [imageCells, List.mem_map, Prod.exists] at h
  obtain ⟨k, b, hkb, rfl⟩ := h
  have hk := (List.of_mem_zip hkb).1
  simp only [upto, List.mem_range] at hk
  simp only [Within]
  omega

section
variable (s : State) (pa : Nat) (bs : List Byte)
@[simp] theorem State.putBytes_tick : (s.putBytes pa bs).tick = s.tick := rfl
@[simp] theorem State.putBytes_tasks : (s.putBytes pa bs).tasks = s.tasks := rfl
@[simp] theorem State.putBytes_full : (s.putBytes pa bs).full = s.full := rfl
@[simp] theorem State.putBytes_tarn : (s.putBytes pa bs).tarn = s.tarn := rfl
@[simp] theorem State.putBytes_hub : (s.putBytes pa bs).hub = s.hub := rfl
@[simp] theorem State.putBytes_core (c : Nat) : (s.putBytes pa bs).core c = s.core c := rfl
@[simp] theorem State.putBytes_group? (c g : Nat) : (s.putBytes pa bs).group? c g = s.group? c g := rfl

/-- Bytes outside an image read as before. -/
theorem State.get_putBytes {a : Nat} (h : ¬Within a pa bs.length) :
    Memory.get (s.putBytes pa bs).mem a = Memory.get s.mem a :=
  Memory.get_putAll_of_notMem _ _ _ fun _ he hea => h (hea ▸ within_of_mem_imageCells he)

/-- A unit of which the image does not hold the first byte stays poisoned or clean (R279). -/
theorem State.contains_poison_putBytes {u : Nat} (h : ¬Within (64 * u) pa bs.length) :
    (s.putBytes pa bs).poison.contains u = s.poison.contains u := by
  have hclear : ∀ cells : List (Nat × Byte), (∀ e ∈ cells, e.1 ≠ 64 * u) →
      (clearUnits s.poison cells).contains u = s.poison.contains u := fun cells hc => by
    have hu : ¬∀ k, k < 64 → ∃ e ∈ cells, e.1 = 64 * u + k := fun hall => by
      obtain ⟨e, he, heu⟩ := hall 0 (by omega)
      exact hc e he heu
    rw [Bool.eq_iff_iff, List.contains_iff_mem, List.contains_iff_mem, mem_clearUnits]
    exact ⟨And.left, fun hm => ⟨hm, hu⟩⟩
  exact hclear _ fun e he hea => h (hea ▸ within_of_mem_imageCells he)
end

theorem length_recordBytes (r : FaultRec) : (recordBytes r).length = 64 := by
  simp [recordBytes, upto, List.range, List.range.loop]

section
variable (s : State) (r : FaultRec)

/-- Where a record is written, and what that leaves. -/
theorem State.writeRecord_eq : s.writeRecord r =
    (s.putBytes (areaPhys ringArea + 64 * (s.hub.recSeq % ringPlaces)) (recordBytes { r with seq := s.hub.recSeq })).modHub
      (fun h => { h with ring := h.ring ++ [{ r with seq := s.hub.recSeq }], recSeq := (h.recSeq + 1) % 2 ^ 32 }) := rfl

@[simp] theorem State.addRecord_tick : (s.addRecord r).tick = s.tick := by
  unfold State.addRecord; split <;> simp [State.writeRecord_eq]
@[simp] theorem State.addRecord_tasks : (s.addRecord r).tasks = s.tasks := by
  unfold State.addRecord; split <;> simp [State.writeRecord_eq]
@[simp] theorem State.addRecord_full : (s.addRecord r).full = s.full := by
  unfold State.addRecord; split <;> simp [State.writeRecord_eq]
@[simp] theorem State.addRecord_tarn : (s.addRecord r).tarn = s.tarn := by
  unfold State.addRecord; split <;> simp [State.writeRecord_eq]
@[simp] theorem State.addRecord_core (c : Nat) : (s.addRecord r).core c = s.core c := by
  unfold State.addRecord; split <;> simp [State.writeRecord_eq]
@[simp] theorem State.addRecord_group? (c g : Nat) : (s.addRecord r).group? c g = s.group? c g := by
  unfold State.addRecord; split <;> simp [State.writeRecord_eq]

/-- A record changes memory in the ring alone (R212). -/
theorem State.addRecord_sameButRing : SameButRing s (s.addRecord r) := by
  unfold State.addRecord
  split
  · have hwithin : ∀ a, ¬Within a (areaPhys ringArea) (64 * ringPlaces) → ¬Within a
        (areaPhys ringArea + 64 * (s.hub.recSeq % ringPlaces)) (recordBytes { r with seq := s.hub.recSeq }).length := by
      intro a ha hw
      have hplace : s.hub.recSeq % ringPlaces < ringPlaces := Nat.mod_lt _ (Nat.succ_pos _)
      rw [length_recordBytes] at hw
      simp only [Within] at ha hw
      omega
    rw [State.writeRecord_eq]
    refine ⟨fun a ha => ?_, fun u hu => ?_, by simp⟩
    · rw [State.modHub_mem]; exact s.get_putBytes _ _ (hwithin a ha)
    · rw [State.modHub_poison]; exact s.contains_poison_putBytes _ _ (hwithin _ hu)
  · exact ⟨fun _ _ => rfl, fun _ _ => rfl, rfl⟩

/-- The record stands in the ring or waits for it, its sequence number apart. -/
theorem State.addRecord_stands : ∃ q, { r with seq := q } ∈ (s.addRecord r).hub.ring ++ (s.addRecord r).hub.recWait := by
  unfold State.addRecord
  split <;> simp only [State.writeRecord_eq, State.modHub_hub, State.putBytes_hub]
  · exact ⟨s.hub.recSeq, List.mem_append_left _ (List.mem_append_right _ List.mem_cons_self)⟩
  · exact ⟨r.seq, List.mem_append_right _ (List.mem_append_right _ List.mem_cons_self)⟩

/-- The records that stood there before stand there still. -/
theorem State.addRecord_keeps {q : FaultRec} (h : q ∈ s.hub.ring ++ s.hub.recWait) :
    q ∈ (s.addRecord r).hub.ring ++ (s.addRecord r).hub.recWait := by
  unfold State.addRecord
  split <;> simp only [State.writeRecord_eq, State.modHub_hub, State.putBytes_hub]
  · rcases List.mem_append.1 h with h | h
    · exact List.mem_append_left _ (List.mem_append_left _ h)
    · exact List.mem_append_right _ h
  · rcases List.mem_append.1 h with h | h
    · exact List.mem_append_left _ h
    · exact List.mem_append_right _ (List.mem_append_left _ h)
end

theorem SameButRing.refl (s : State) : SameButRing s s := ⟨fun _ _ => rfl, fun _ _ => rfl, rfl⟩
theorem SameButRing.trans {s t u : State} (h : SameButRing s t) (h' : SameButRing t u) : SameButRing s u :=
  ⟨fun a ha => (h'.bytes a ha).trans (h.bytes a ha), fun u hu => (h'.poison u hu).trans (h.poison u hu), h'.full.trans h.full⟩
theorem SameButRing.of_same {s t : State} (hm : t.mem = s.mem) (hp : t.poison = s.poison) (hf : t.full = s.full) :
    SameButRing s t := ⟨fun a _ => by rw [hm], fun u _ => by rw [hp], hf⟩

/-- What the records of an access leave (R211, R212). -/
structure Recorded (s t : State) : Prop where
  tick   : t.tick = s.tick
  tasks  : t.tasks = s.tasks
  full   : t.full = s.full
  tarn   : t.tarn = s.tarn
  groups : ∀ c g, t.group? c g = s.group? c g
  memory : SameButRing s t

theorem Recorded.trans {s t u : State} (h : Recorded s t) (h' : Recorded t u) : Recorded s u :=
  ⟨h'.tick.trans h.tick, h'.tasks.trans h.tasks, h'.full.trans h.full, h'.tarn.trans h.tarn,
   fun c g => (h'.groups c g).trans (h.groups c g), h.memory.trans h'.memory⟩

section
variable (c kind op : Nat) (w : Who)

theorem State.addRecords_recorded (vas : List Nat) (s : State) : Recorded s (s.addRecords c w kind op vas) := by
  induction vas generalizing s with
  | nil => exact ⟨rfl, rfl, rfl, rfl, fun _ _ => rfl, SameButRing.refl s⟩
  | cons va vas ih =>
    have hone : Recorded s ((s.addRecord (recordOf s c w va kind op)).signal c w.ctx 26) :=
      ⟨by simp, by simp, by simp, by simp, fun _ _ => by simp,
       (s.addRecord_sameButRing _).trans (SameButRing.of_same rfl rfl rfl)⟩
    exact hone.trans (ih _)

theorem State.addRecords_keeps (vas : List Nat) (s : State) {q : FaultRec} (h : q ∈ s.hub.ring ++ s.hub.recWait) :
    q ∈ (s.addRecords c w kind op vas).hub.ring ++ (s.addRecords c w kind op vas).hub.recWait := by
  induction vas generalizing s with
  | nil => exact h
  | cons va vas ih => exact ih _ (s.addRecord_keeps _ h)

/-- Each address of an access has a record (R211). -/
theorem State.addRecords_stand (vas : List Nat) (s : State) {va : Nat} (h : va ∈ vas) :
    ∃ q n, ∃ st : State, { recordOf st c w va kind op with seq := q, inc := n } ∈
      (s.addRecords c w kind op vas).hub.ring ++ (s.addRecords c w kind op vas).hub.recWait := by
  induction vas generalizing s with
  | nil => simp at h
  | cons v vas ih =>
    rcases List.mem_cons.1 h with rfl | h
    · obtain ⟨q, hq⟩ := s.addRecord_stands (recordOf s c w va kind op)
      exact ⟨q, _, s, State.addRecords_keeps c kind op w vas ((s.addRecord _).signal c w.ctx 26) hq⟩
    · exact ih _ h
end

end Sys2Proof.Machine
end

section
/-! PROOFS. The steps of a core that no instruction makes, and what it chooses for a cycle (O51). -/

namespace Sys2Proof.Machine

/-! The split table. -/

/-- Registers are as before where the fields that hold them are. -/
theorem SameReg.of_fields {g g' : Group} (hs : g'.s = g.s) (hv : g'.v = g.v) (hp : g'.p = g.p) (ht : g'.tiles = g.tiles)
    (ha : g'.accs = g.accs) (hf : g'.frames = g.frames) (fr : Nat) (r : RegRef) : SameReg g g' fr r := by
  cases r with
  | s n => simp [SameReg, Group.readS, Group.frame, hs, hf]
  | v n => simp [SameReg, Group.readV, Group.frame, hv, hf]
  | p n => simp [SameReg, Group.readP, hp]
  | t n => simp [SameReg, Group.readT, ht]
  | a n q => simp [SameReg, Group.readA, ha]

/-- A group's split table changed in origins alone. -/
def Resettled (g g' : Group) : Prop :=
  ∃ sp sl og, g' = { g with splits := sp, spilled := sl, origins := og } ∧
    sp.map Split.sansOrigin = g.splits.map Split.sansOrigin ∧ sl.map Split.sansOrigin = g.spilled.map Split.sansOrigin

theorem resettled_freeOrigin (g : Group) (o : Nat) : Resettled g (g.freeOrigin o) := by
  have hf : ∀ l : List Split, (l.map (fun (sp : Split) => if sp.origin = o then { sp with origin := g.parentOf o } else sp)).map
      Split.sansOrigin = l.map Split.sansOrigin := fun l => by
    rw [List.map_map]
    refine List.map_congr_left fun sp _ => ?_
    simp only [Function.comp]
    split <;> rfl
  exact ⟨_, _, _, rfl, hf _, hf _⟩

theorem resettled_settle (n : Nat) (g : Group) : Resettled g (g.settle n) := by
  induction n generalizing g with
  | zero => exact ⟨_, _, _, rfl, rfl, rfl⟩
  | succ n ih =>
    unfold Group.settle
    split
    · next e _ =>
      obtain ⟨sp, sl, og, h, hsp, hsl⟩ := resettled_freeOrigin g e.1
      obtain ⟨sp', sl', og', h', hsp', hsl'⟩ := ih (g.freeOrigin e.1)
      rw [h']
      rw [h] at hsp' hsl' ⊢
      exact ⟨sp', sl', og', rfl, hsp'.trans hsp, hsl'.trans hsl⟩
    · exact ⟨_, _, _, rfl, rfl, rfl⟩

/-- Where no entry of a group waits at a MEET, nothing merges. -/
theorem Group.meeting_none {g : Group} (h : ∀ sp ∈ g.entries, sp.state ≠ .meet) : g.meeting = none := by
  have hnil : g.entries.filter g.meets = [] := List.filter_eq_nil_iff.2 fun sp hsp => by simp [Group.meets, h sp hsp]
  rw [Group.meeting, hnil]
  rfl

theorem State.mergeMeets_none {s : State} {c slot : Nat} {g : Group} (hg : s.group? c slot = some g)
    (h : ∀ sp ∈ g.entries, sp.state ≠ .meet) (n : Nat) : State.mergeMeets c slot n s = s := by
  cases n with
  | zero => rfl
  | succ n => simp [State.mergeMeets, hg, Group.meeting_none h]

theorem Resettled.state_ne {g g' : Group} (hr : Resettled g g') (x : SplitState) (h : ∀ sp ∈ g.entries, sp.state ≠ x) :
    ∀ sp ∈ g'.entries, sp.state ≠ x := by
  obtain ⟨sp, sl, og, rfl, hsp, hsl⟩ := hr
  have hent : (sp ++ sl).map Split.sansOrigin = g.entries.map Split.sansOrigin := by simp [Group.entries, hsp, hsl]
  intro e he
  have he' : e.sansOrigin ∈ g.entries.map Split.sansOrigin := hent ▸ List.mem_map_of_mem he
  obtain ⟨y, hy, hye⟩ := List.mem_map.1 he'
  have hst : y.sansOrigin.state = e.sansOrigin.state := by rw [hye]
  exact hst ▸ h y hy

/-! What a move of a table does beside the group: its spill area and its counters. -/

@[simp] theorem State.joinOrders_group? (s : State) (c slot : Nat) (m : W32) (c' g : Nat) :
    (s.joinOrders c slot m).group? c' g = s.group? c' g := by
  unfold State.joinOrders
  simp only
  split
  · exact s.group?_modCore c _ rfl c' g
  · rfl
@[simp] theorem State.joinOrders_tick (s : State) (c slot : Nat) (m : W32) : (s.joinOrders c slot m).tick = s.tick := by
  unfold State.joinOrders; simp only; split <;> rfl
@[simp] theorem State.joinOrders_tasks (s : State) (c slot : Nat) (m : W32) : (s.joinOrders c slot m).tasks = s.tasks := by
  unfold State.joinOrders; simp only; split <;> rfl
@[simp] theorem State.joinOrders_poison (s : State) (c slot : Nat) (m : W32) : (s.joinOrders c slot m).poison = s.poison := by
  unfold State.joinOrders; simp only; split <;> rfl
@[simp] theorem State.joinOrders_full (s : State) (c slot : Nat) (m : W32) : (s.joinOrders c slot m).full = s.full := by
  unfold State.joinOrders; simp only; split <;> rfl

theorem length_flatMap_const {α β : Type} {f : α → List β} {n : Nat} (h : ∀ a, (f a).length = n) (l : List α) :
    (l.flatMap f).length = l.length * n := by
  simp [List.length_flatMap, h]

/-- A split spill area has 832 bytes (R115). -/
theorem length_splitAreaBytes (g : Group) : (splitAreaBytes g).length = 832 := by
  have hentry : ∀ (sp : Split) (fr m : Nat), (entryBytes sp fr m).length = 32 := fun sp fr m => by simp [entryBytes]
  unfold splitAreaBytes
  simp only [List.length_append]
  rw [length_flatMap_const (n := 32)]
  · simp [originBytes, upto]
  · intro place
    split
    · exact hentry ..
    · exact List.length_replicate

section
variable (s : State) (c slot : Nat)

@[simp] theorem State.storeSplitArea_tick : (s.storeSplitArea c slot).tick = s.tick := by
  unfold State.storeSplitArea; split <;> rfl
@[simp] theorem State.storeSplitArea_tasks : (s.storeSplitArea c slot).tasks = s.tasks := by
  unfold State.storeSplitArea; split <;> rfl
@[simp] theorem State.storeSplitArea_group? (c' g : Nat) : (s.storeSplitArea c slot).group? c' g = s.group? c' g := by
  unfold State.storeSplitArea; split <;> rfl
theorem State.get_storeSplitArea {a : Nat} (h : ¬Within a (areaPhys (splitAreaOf c slot)) 832) :
    Memory.get (s.storeSplitArea c slot).mem a = Memory.get s.mem a := by
  unfold State.storeSplitArea
  split
  · next g _ => exact s.get_putBytes _ _ (by rw [length_splitAreaBytes]; exact h)
  · rfl

@[simp] theorem State.syncArea_tick (g : Group) : (s.syncArea c slot g).tick = s.tick := by
  unfold State.syncArea; split <;> simp
@[simp] theorem State.syncArea_tasks (g : Group) : (s.syncArea c slot g).tasks = s.tasks := by
  unfold State.syncArea; split <;> simp
@[simp] theorem State.syncArea_group? (g : Group) (c' n : Nat) : (s.syncArea c slot g).group? c' n = s.group? c' n := by
  unfold State.syncArea; split <;> simp
theorem State.syncArea_unspilled {g : Group} (h : g.spilled = []) : s.syncArea c slot g = s := by
  simp [State.syncArea, h]
theorem State.get_syncArea (g : Group) {a : Nat} (h : ¬Within a (areaPhys (splitAreaOf c slot)) 832) :
    Memory.get (s.syncArea c slot g).mem a = Memory.get s.mem a := by
  unfold State.syncArea
  split
  · rfl
  · exact s.get_storeSplitArea c slot h
end

/-- The areas that firmware keeps lie above the memory of programs (R341). -/
theorem not_within_area {a n len : Nat} (h : a < Config.reservedBase) : ¬Within a (areaPhys n) len := by
  unfold Within areaPhys
  intro hw
  have := hw.1
  omega

/-- What the return of a spilled entry leaves (R124, R125). -/
theorem State.bringBack_spec (s : State) (c slot : Nat) (g : Group) (signals : List Nat) :
    (s.bringBack c slot g signals).tick = s.tick ∧ (s.bringBack c slot g signals).tasks = s.tasks ∧
    (s.bringBack c slot g signals).group? c slot = some g ∧
    ∀ a, a < Config.reservedBase → Memory.get (s.bringBack c slot g signals).mem a = Memory.get s.mem a := by
  have hsig : ∀ st : State, (signals.foldl (fun st n => st.signal c (s.ctxOf c slot) n) st).tick = st.tick ∧
      (signals.foldl (fun st n => st.signal c (s.ctxOf c slot) n) st).tasks = st.tasks ∧
      (signals.foldl (fun st n => st.signal c (s.ctxOf c slot) n) st).mem = st.mem ∧
      (signals.foldl (fun st n => st.signal c (s.ctxOf c slot) n) st).group? c slot = st.group? c slot := by
    induction signals with
    | nil => exact fun st => ⟨rfl, rfl, rfl, rfl⟩
    | cons n l ih => intro st; simpa using ih (st.signal c (s.ctxOf c slot) n)
  obtain ⟨htick, htasks, hmem, hgroup⟩ := hsig (s.putGroup c slot g)
  unfold State.bringBack
  refine ⟨by simpa using htick, by simpa using htasks, ?_, fun a ha => ?_⟩
  · rw [State.storeSplitArea_group?, hgroup, State.group?_putGroup]; simp
  · rw [State.get_storeSplitArea _ _ _ (not_within_area ha), hmem]; rfl

/-! A split leaves its MEET alone at its bound. -/

/-- A split of its origin that has not arrived keeps the others waiting. -/
theorem Group.not_meets {g : Group} {w : Split} (h : ∃ y ∈ g.entries, g.ofOrigin w.origin y = true ∧ arrived w y = false) :
    g.meets w = false := by
  obtain ⟨y, hy, ho, ha⟩ := h
  have hall : g.entries.all (fun sp => !(g.ofOrigin w.origin sp) || arrived w sp) = false :=
    List.all_eq_false.2 ⟨y, hy, by simp [ho, ha]⟩
  rw [Group.meets, hall, Bool.and_false]

theorem exec_meetBoundExpiry {s : State} {c slot n : Nat} {g : Group} {sp : Split} (hg : s.group? c slot = some g)
    (hn : g.splits[n]? = some sp) (hs : sp.state = .meet) (hh : g.held = false) (hl : sp.mrem ≤ s.cyc c - sp.mfrom)
    (hm : ∃ y ∈ g.entries, g.ofOrigin sp.origin y = true ∧ arrived sp y = false) :
    exec (.meetBoundExpiry c slot n) s = .next ((s.putGroup c slot (g.expire n)).signal c (s.ctxOf c slot) 9) := by
  have hleft : sp.left (s.cyc c) = 0 := by unfold Split.left; omega
  have he : meetBoundExpiry c slot n s = some ((s.putGroup c slot (g.expire n)).signal c (s.ctxOf c slot) 9) := by
    simp [meetBoundExpiry, hg, hn, hs, hh, hleft, Group.not_meets hm]
  exact event_some he

/-! Fusion. -/

theorem mem_of_mem_dropAt {α : Type} {l : List α} {n : Nat} {x : α} (h : x ∈ dropAt l n) : x ∈ l := by
  induction l generalizing n with
  | nil => simp [dropAt] at h
  | cons y ys ih =>
    cases n with
    | zero => exact List.mem_cons_of_mem _ h
    | succ n =>
      rcases List.mem_cons.1 h with rfl | h
      · exact List.mem_cons_self
      · exact List.mem_cons_of_mem _ (ih h)

theorem getElem?_dropAt_lt {α : Type} (l : List α) {i j : Nat} (h : i < j) : (dropAt l j)[i]? = l[i]? := by
  induction l generalizing i j with
  | nil => rfl
  | cons y ys ih =>
    cases j with
    | zero => omega
    | succ j =>
      cases i with
      | zero => rfl
      | succ i => simpa [dropAt] using ih (by omega)

theorem map_dropAt {α β : Type} (f : α → β) (l : List α) (n : Nat) : (dropAt l n).map f = dropAt (l.map f) n := by
  induction l generalizing n with
  | nil => rfl
  | cons y ys ih => cases n <;> simp [dropAt, ih]

theorem mem_changeAt_const {α : Type} {l : List α} {n : Nat} {x y : α} (h : x ∈ changeAt l n (fun _ => y)) : x = y ∨ x ∈ l := by
  induction l generalizing n with
  | nil => simp [changeAt] at h
  | cons z zs ih =>
    cases n with
    | zero => simp only [changeAt, List.mem_cons] at h ⊢; tauto
    | succ n =>
      simp only [changeAt, List.mem_cons] at h ⊢
      rcases h with h | h
      · exact .inr (.inl h)
      · rcases ih h with h | h
        · exact .inl h
        · exact .inr (.inr h)

theorem map_changeAt {α β : Type} {f : α → β} {g : α → α} {g' : β → β} {l : List α} {n : Nat} {x : α} (hx : l[n]? = some x)
    (h : f (g x) = g' (f x)) : (changeAt l n g).map f = changeAt (l.map f) n g' := by
  induction l generalizing n with
  | nil => rfl
  | cons y ys ih =>
    cases n with
    | zero =>
      obtain rfl : y = x := by simpa using hx
      simp [changeAt, h]
    | succ n => simp only [changeAt, List.map_cons, ih (by simpa using hx)]

/-- A group in which two entries have fused, but for its origins (R121). -/
theorem Group.fusePair_spec {g : Group} {i j : Nat} {a b : Split} (hi : g.splits[i]? = some a) (hij : i < j)
    (ha : a.state = .ready) (hm : ∀ sp ∈ g.entries, sp.state ≠ .meet) :
    (∀ fr r, SameReg g (g.fusePair i j a b) fr r) ∧ (∀ sp ∈ (g.fusePair i j a b).entries, sp.state ≠ .meet) ∧
    (g.fusePair i j a b).splits.map Split.sansOrigin =
      changeAt (dropAt (g.splits.map Split.sansOrigin) j) i (fun x => { x with
        mask := a.mask ||| b.mask, missing := a.missing || b.missing
        paid := fusePaid a.paid b.paid, stop := fuseStop a.stop b.stop
        ptop := if lowLane a.mask < lowLane b.mask then a.ptop else b.ptop }) := by
  unfold Group.fusePair
  dsimp only
  generalize hx : ({ a with
    mask := a.mask ||| b.mask, ptop := _, origin := _, missing := _, paid := _, stop := _ } : Split) = x
  have hxs : x.state = .ready := by rw [← hx]; exact ha
  have hr := resettled_settle 32 { g with splits := changeAt (dropAt g.splits j) i (fun _ => x) }
  refine ⟨?_, hr.state_ne .meet fun sp hsp => ?_, ?_⟩
  · obtain ⟨sp, sl, og, he, _, _⟩ := hr
    rw [he]
    exact SameReg.of_fields rfl rfl rfl rfl rfl rfl
  · rcases List.mem_append.1 hsp with h | h
    · rcases mem_changeAt_const h with rfl | h
      · rw [hxs]; decide
      · exact hm sp (List.mem_append_left _ (mem_of_mem_dropAt h))
    · exact hm sp (List.mem_append_right _ h)
  · obtain ⟨sp, sl, og, he, hsp, _⟩ := hr
    rw [he]
    dsimp only at hsp ⊢
    rw [hsp, ← map_dropAt]
    refine map_changeAt ((getElem?_dropAt_lt _ hij).trans hi) ?_
    rw [← hx]
    simp only [Split.sansOrigin]
    split <;> rfl

/-- Two ready entries at one PC in one frame fuse; where no split waits at a MEET nothing else of the table changes (R121). -/
theorem splitFusion_next {s : State} {c slot i j : Nat} {g : Group} {a b : Split} (hg : s.group? c slot = some g)
    (hi : g.splits[i]? = some a) (hj : g.splits[j]? = some b) (hij : i < j) (hh : g.held = false) (ha : a.state = .ready)
    (hb : b.state = .ready) (hpc : a.pc = b.pc) (hfr : a.frame = b.frame) (hin : a.inHandler = b.inHandler)
    (hm : ∀ sp ∈ g.entries, sp.state ≠ .meet) :
    exec (.splitFusion c slot i j) s = .next ((((s.putGroup c slot (g.fusePair i j a b)).syncArea c slot g).joinOrders c slot
      (a.mask ||| b.mask))) := by
  have hfuse : canFuse a b = true := by simp [canFuse, ha, hb, hpc, hfr, hin]
  have hgroup : (((s.putGroup c slot (g.fusePair i j a b)).syncArea c slot g).joinOrders c slot (a.mask ||| b.mask)).group?
      c slot = some (g.fusePair i j a b) := by
    rw [State.joinOrders_group?, State.syncArea_group?, State.group?_putGroup]; simp
  have he : splitFusion c slot i j s = some (((s.putGroup c slot (g.fusePair i j a b)).syncArea c slot g).joinOrders c slot
      (a.mask ||| b.mask)) := by
    simp only [splitFusion, hg, hi, hj, hij, hfuse, hh, decide_true, Bool.not_false, Bool.and_self, if_true]
    rw [State.mergeMeets_none hgroup (Group.fusePair_spec hi hij ha hm).2.1]
  exact event_some he

/-! Refill and rotation. -/

/-- A move whose area can be reached is made (R126). -/
theorem State.areaMove_none {s : State} {c slot area kind : Nat} {w : Who} {go : State → State}
    (h : s.areaState area = none) : s.areaMove c slot area kind w go = go s := by
  rw [State.areaMove, h]; rfl

/-- A move whose area lies on an absent page waits with a record, and the group with it (R126, R287). -/
theorem State.areaMove_absent {s : State} {c slot area kind : Nat} {w : Who} {go : State → State} {g : Group}
    (hg : s.group? c slot = some g) (h : s.areaState area = some .absent) (hw : w.slot = slot) :
    MoveHeld s (s.areaMove c slot area kind w go) c slot area kind g := by
  have he : s.areaMove c slot area kind w go =
      (s.modGroup c slot (fun g => { g with stall := true })).addRecords c w kind area [areaPhys area] := by
    rw [State.areaMove, h]; rfl
  have hr := State.addRecords_recorded c kind area w [areaPhys area] (s.modGroup c slot (fun g => { g with stall := true }))
  rw [he]
  refine ⟨hr.tick.trans (by simp), (SameButRing.of_same (by simp) (by simp) (by simp)).trans hr.memory, hr.tasks.trans (by simp),
    fun c' n hn => ?_, ?_, ?_⟩
  · rw [hr.groups, State.group?_modGroup, if_neg hn]
  · rw [hr.groups, State.group?_modGroup]; simp [hg]
  · obtain ⟨q, n, st, hq⟩ := State.addRecords_stand c kind area w [areaPhys area]
      (s.modGroup c slot (fun g => { g with stall := true })) (List.mem_singleton_self _)
    exact ⟨_, hq, rfl, rfl, hw, rfl⟩

/-- A refill moves where it may (R124). -/
theorem exec_splitRefill {s : State} {c slot : Nat} {g : Group} (hg : s.group? c slot = some g) (hl : g.splits.length < 8)
    (hs : g.spilled ≠ []) (hr : g.refillAt ≤ s.cyc c) (hst : g.stall = false) :
    exec (.splitRefill c slot) s = .next (s.areaMove c slot (splitAreaOf c slot) 5 (groupWho s c slot g)
      (State.bringBack c slot (g.refill (s.cyc c)) [11])) := by
  have he : splitRefill c slot s = some (s.areaMove c slot (splitAreaOf c slot) 5 (groupWho s c slot g)
      (State.bringBack c slot (g.refill (s.cyc c)) [11])) := by
    simp [splitRefill, hg, hl, hs, hr, hst]
  exact event_some he

/-- A rotation moves where it may (R125). -/
theorem exec_splitRotation {s : State} {c slot : Nat} {g : Group} (hg : s.group? c slot = some g) (ho : 1024 ≤ g.opps)
    (hs : g.spilled ≠ []) (hne : g.splits ≠ []) (hst : g.stall = false) :
    exec (.splitRotation c slot) s = .next (s.areaMove c slot (splitAreaOf c slot) 5 (groupWho s c slot g)
      (State.bringBack c slot (g.rotate (s.cyc c)) [11, 10])) := by
  have ho' : Config.rotation ≤ g.opps := ho
  have he : splitRotation c slot s = some (s.areaMove c slot (splitAreaOf c slot) 5 (groupWho s c slot g)
      (State.bringBack c slot (g.rotate (s.cyc c)) [11, 10])) := by
    simp [splitRotation, hg, ho', hs, hne, hst]
  exact event_some he

/-- The most recently spilled entry comes back at the old end (R124). -/
theorem Group.refill_eq {g : Group} {l : List Split} {sp : Split} (h : g.spilled = l ++ [sp]) (now : Nat) :
    g.refill now = { g with
      splits := sp.unstow now :: g.splits, spilled := l, opps := 0, refillAt := now + 1 } := by
  simp [Group.refill, h]

/-- The entry at the head rotates in, and the oldest resident one goes to the tail (R125). -/
theorem Group.rotate_eq {g : Group} {h sp : Split} {hs rest : List Split} (hsp : g.spilled = h :: hs)
    (hre : g.splits = sp :: rest) (now : Nat) : g.rotate now = { g with
      splits := h.unstow now :: rest, spilled := hs ++ [sp.stow now], head := (g.head + 1) % 24, opps := 0 } := by
  simp [Group.rotate, hsp, hre]

/-! The active set (R134). -/

/-- The active groups of a side. -/
def Core.activeOf (k : Core) (side : Nat) : List (Nat × Nat) := k.active.filter (fun a => decide (a.1 % 2 = side))

/-- Whether an active group, by its entry, has no ready split. -/
def Core.idle (k : Core) (a : Nat × Nat) : Bool :=
  match Table.get? k.groups a.1 with
  | some g => !g.anyReady
  | none => true

/-- The step of the search for the group admitted first. -/
def elder (best : Option (Nat × Nat)) (a : Nat × Nat) : Option (Nat × Nat) :=
  match best with
  | none => some a
  | some b => if a.2 < b.2 || (decide (a.2 = b.2) && decide (a.1 < b.1)) then some a else some b

theorem givenUp_eq (k : Core) (now side : Nat) : givenUp k now side =
    if (k.activeOf side).length < Config.activePlaces then some none
    else match (k.activeOf side).find? k.idle with
      | some a => some (some a.1)
      | none => match (k.activeOf side).foldl elder none with
        | some a => if a.2 + Config.activeHold ≤ now then some (some a.1) else none
        | none => none := rfl

/-- Whether an entry of the active set stands before another: admitted earlier, or at once in a lower slot. -/
def Elder (a b : Nat × Nat) : Prop := a.2 < b.2 ∨ (a.2 = b.2 ∧ a.1 < b.1)

/-- The entry that stands before every other is the one admitted first. -/
theorem foldl_elder {old : Nat × Nat} (l : List (Nat × Nat)) (best : Option (Nat × Nat))
    (hb : ∀ b, best = some b → b = old ∨ Elder old b) (hl : ∀ a ∈ l, a = old ∨ Elder old a)
    (hm : best = some old ∨ old ∈ l) : l.foldl elder best = some old := by
  induction l generalizing best with
  | nil => simpa using hm
  | cons a l ih =>
    rw [List.foldl_cons]
    have ha := hl a List.mem_cons_self
    have hkeep : elder (some old) a = some old := by
      rcases ha with rfl | ha
      · simp [elder]
      · unfold Elder at ha
        have hn : ¬(a.2 < old.2 ∨ a.2 = old.2 ∧ a.1 < old.1) := by omega
        simp only [elder]
        rw [if_neg]
        simpa only [Bool.or_eq_true, Bool.and_eq_true, decide_eq_true_eq] using hn
    refine ih _ (fun b hbe => ?_) (fun x hx => hl x (List.mem_cons_of_mem _ hx)) ?_
    · cases best with
      | none => obtain rfl : a = b := by simpa [elder] using hbe
                exact ha
      | some x =>
        simp only [elder] at hbe
        split at hbe
        · obtain rfl := Option.some.inj hbe; exact ha
        · obtain rfl := Option.some.inj hbe; exact hb _ rfl
    · rcases hm with rfl | hm
      · exact .inl hkeep
      · rcases List.mem_cons.1 hm with rfl | hm
        · left
          cases best with
          | none => rfl
          | some x =>
            rcases hb x rfl with rfl | hx
            · exact hkeep
            · unfold Elder at hx
              simp only [elder]
              rw [if_pos (by simpa using hx)]
        · exact .inr hm

/-- The group that gives up its place, where all of its side have a ready split: the one admitted first (R134). -/
theorem givenUp_elder {k : Core} {now side : Nat} {old : Nat × Nat} (hl : 8 ≤ (k.activeOf side).length)
    (hr : ∀ a ∈ k.active, a.1 % 2 = side → ∃ g, Table.get? k.groups a.1 = some g ∧ g.anyReady = true)
    (hm : old ∈ k.active) (hs : old.1 % 2 = side) (hh : old.2 + Config.activeHold ≤ now)
    (he : ∀ a ∈ k.active, a.1 % 2 = side → a = old ∨ old.2 < a.2 ∨ (old.2 = a.2 ∧ old.1 < a.1)) :
    givenUp k now side = some (some old.1) := by
  have hside : ∀ a ∈ k.activeOf side, a ∈ k.active ∧ a.1 % 2 = side := fun a ha => by
    simpa [Core.activeOf] using ha
  have hbusy : (k.activeOf side).find? k.idle = none := List.find?_eq_none.2 fun a ha => by
    obtain ⟨g, hg, hy⟩ := hr a (hside a ha).1 (hside a ha).2
    simp [Core.idle, hg, hy]
  have hfold : (k.activeOf side).foldl elder none = some old :=
    foldl_elder _ _ (by simp) (fun a ha => he a (hside a ha).1 (hside a ha).2) (.inr (by simp [Core.activeOf, hm, hs]))
  have hfull : ¬(k.activeOf side).length < Config.activePlaces := Nat.not_lt.2 hl
  rw [givenUp_eq, if_neg hfull, hbusy, hfold]
  exact if_pos hh

/-- An idle group gives up its place before all others (R134). -/
theorem givenUp_idle {k : Core} {now side : Nat} {old : Nat × Nat} (hl : 8 ≤ (k.activeOf side).length)
    (hi : (k.activeOf side).find? k.idle = some old) : givenUp k now side = some (some old.1) := by
  have hfull : ¬(k.activeOf side).length < Config.activePlaces := Nat.not_lt.2 hl
  rw [givenUp_eq, if_neg hfull, hi]

/-- A free place is taken without one given up (R134). -/
theorem givenUp_free {k : Core} {now side : Nat} (hl : (k.activeOf side).length < 8) : givenUp k now side = some none := by
  rw [givenUp_eq, if_pos (show _ < Config.activePlaces from hl)]

/-- What an admission to the active set leaves: `stay` are the groups that keep their places (R134). -/
structure Admitted (s t : State) (c slot : Nat) (stay : List (Nat × Nat)) : Prop where
  tick    : t.tick = s.tick
  memory  : SameMemory s t
  tasks   : t.tasks = s.tasks
  groups  : ∀ n, t.group? c n = s.group? c n
  active  : (t.core c).active = stay ++ [(slot, s.cyc c)]
  waiting : slot ∉ (t.core c).waiting

/-- The first waiting group of a side takes the place that is free or given up (R134). -/
theorem exec_activeSetAdmit {s : State} {c side slot : Nat} {out : Option Nat}
    (hw : (waitingGroups (s.core c)).find? (fun x => decide (x % 2 = side)) = some slot)
    (hn : ∀ a ∈ (s.core c).active, a.1 % 2 = side → a.2 ≠ s.cyc c) (ho : givenUp (s.core c) (s.cyc c) side = some out) :
    ∃ t, exec (.activeSetAdmit c side) s = .next t ∧
      Admitted s t c slot ((s.core c).active.filter (fun a => decide (some a.1 ≠ out))) := by
  have hnone : (s.core c).active.any (fun a => decide (a.1 % 2 = side) && decide (a.2 = s.cyc c)) = false :=
    List.any_eq_false.2 fun a ha => by simpa using hn a ha
  have he : activeSetAdmit c side s = some ((s.putCore c { s.core c with
      active := (s.core c).active.filter (fun a => decide (some a.1 ≠ out)) ++ [(slot, s.cyc c)]
      waiting := (waitingGroups (s.core c)).filter (fun x => decide (x ≠ slot)) }).signal c (s.ctxOf c slot) 14) := by
    simp only [activeSetAdmit, hw, ho, hnone]
  refine ⟨_, event_some he, ⟨rfl, ⟨fun _ => rfl, rfl, rfl⟩, rfl, fun n => ?_, ?_, ?_⟩⟩
  · rw [State.group?_signal]; simp [State.group?, State.core_putCore]
  · simp [State.signal, State.raise, State.core_modCore, State.core_putCore]
  · simp [State.signal, State.raise, State.core_modCore, State.core_putCore]

/-! The instruction cache. -/

/-- A split that waited for a block goes on (R130). -/
def Split.wake (block : Nat) (sp : Split) : Split := if sp.pc.toNat / 256 = block then { sp with missing := false } else sp

/-- A group after a block of an ASID has come: the splits that missed it go on. -/
def Group.filled (g : Group) (s : State) (asid block : Nat) : Group :=
  if (match Table.get? s.tasks g.task with
    | some t => decide (t.asid = asid)
    | none => false) then
    { g with splits := g.splits.map (Split.wake block), spilled := g.spilled.map (Split.wake block) } else g

/-- The core after a block has come: the request is gone, and the splits of its ASID that missed it go on. -/
def Core.filled (k : Core) (s : State) (n asid block : Nat) : Core :=
  { k with fills := dropAt k.fills n, groups := Table.mapVals k.groups (fun g => g.filled s asid block) }

/-- The line that comes (R92, R130). -/
def State.lineOf (s : State) (asid block pa : Nat) : ILine :=
  ⟨asid, block, (upto 256).map (fun k => (physRead s none (pa + k)).1), (upto 64).map (fun w => physPoison s none (pa + 4 * w) 4)⟩

theorem exec_icacheLineFill {s : State} {c n asid block : Nat} {p : Page} (hf : (s.core c).fills[n]? = some (asid, block))
    (hp : codePage s asid (block * 256) = some p) (hx : p.x = true) (hr : p.res = true) :
    exec (.icacheLineFill c n) s = .next ((s.modCore c (fun k => k.filled s n asid block)).addLine c
      (s.lineOf asid block (p.pa + (block * 256 - p.va)))) := by
  have he : icacheLineFill c n s = some ((s.modCore c (fun k => k.filled s n asid block)).addLine c
      (s.lineOf asid block (p.pa + (block * 256 - p.va)))) := by
    simp only [icacheLineFill, hf, hp, hx, hr]
    rfl
  exact event_some he

/-- A line put into the cache leaves memory, tasks and groups, and joins the others, one of which leaves a full cache (R4). -/
theorem State.addLine_spec (s : State) (c : Nat) (l : ILine) : (s.addLine c l).tick = s.tick ∧
    SameMemory s (s.addLine c l) ∧ (s.addLine c l).tasks = s.tasks ∧ ((s.addLine c l).core c).fills = (s.core c).fills ∧
    (∀ c' g, (s.addLine c l).group? c' g = s.group? c' g) ∧
    ((s.core c).ilines.length < 512 → ((s.addLine c l).core c).ilines = (s.core c).ilines ++ [l]) ∧
    (512 ≤ (s.core c).ilines.length → ∃ k, k < (s.core c).ilines.length ∧
      ((s.addLine c l).core c).ilines = dropAt (s.core c).ilines k ++ [l]) := by
  unfold State.addLine
  dsimp only
  split
  · next h =>
    have h512 : (s.core c).ilines.length < 512 := h
    refine ⟨rfl, ⟨fun _ => rfl, rfl, rfl⟩, rfl, ?_, s.group?_modCore c _ rfl, fun _ => ?_,
      fun h' => absurd h512 (Nat.not_lt.2 h')⟩ <;>
      simp [State.core_modCore]
  · next h =>
    have h512 : ¬(s.core c).ilines.length < 512 := h
    refine ⟨rfl, ⟨fun _ => rfl, rfl, rfl⟩, rfl, ?_, State.group?_modCore _ c _ rfl, fun h' => absurd h' h512, fun h' =>
      ⟨Config.pick s.fresh (s.core c).ilines.length % (s.core c).ilines.length, Nat.mod_lt _ (by omega), ?_⟩⟩
    · simp [State.core_modCore]; rfl
    · rw [State.core_modCore, if_pos rfl]; rfl

theorem Core.filled_get? (k : Core) (s : State) (n asid block slot : Nat) :
    Table.get? (k.filled s n asid block).groups slot = (Table.get? k.groups slot).map (fun g => g.filled s asid block) := by
  rw [Core.filled, Table.get?_mapVals]

/-- What of a group the coming of a block leaves. -/
theorem Group.filled_eq (g : Group) (s : State) (asid block : Nat) : ∃ sp sl,
    g.filled s asid block = { g with splits := sp, spilled := sl } := by
  unfold Group.filled
  split_ifs
  · exact ⟨_, _, rfl⟩
  · exact ⟨_, _, rfl⟩

theorem Group.filled_entries {g : Group} {s : State} {asid : Nat} {x : Task} (block : Nat)
    (ht : Table.get? s.tasks g.task = some x) (ha : x.asid = asid) :
    (g.filled s asid block).entries = g.entries.map (Split.wake block) := by
  simp [Group.filled, ht, ha, Group.entries]

/-! What a core chooses for a cycle (R130 to R133). -/

theorem insertRecent_perm (v : View) (l : List View) : (insertRecent v l).Perm (v :: l) := by
  induction l with
  | nil => exact .refl _
  | cons w ws ih =>
    unfold insertRecent
    split
    · exact .refl _
    · exact (ih.cons w).trans (.swap v w ws)

theorem insertLane_perm (v : View) (l : List View) : (insertLane v l).Perm (v :: l) := by
  induction l with
  | nil => exact .refl _
  | cons w ws ih =>
    unfold insertLane
    split
    · exact .refl _
    · exact (ih.cons w).trans (.swap v w ws)

/-- Views in the order of their lowest lanes. -/
def LaneOrder (a b : View) : Prop := lowLane a.m ≤ lowLane b.m

theorem insertLane_sorted {v : View} {l : List View} (h : l.Pairwise LaneOrder) : (insertLane v l).Pairwise LaneOrder := by
  induction l with
  | nil => simp [insertLane]
  | cons w ws ih =>
    obtain ⟨hw, hws⟩ := List.pairwise_cons.1 h
    unfold insertLane
    split
    · next hlt =>
      have hlt : lowLane v.m ≤ lowLane w.m := Nat.le_of_lt hlt
      refine List.pairwise_cons.2 ⟨fun x hx => ?_, h⟩
      rcases List.mem_cons.1 hx with rfl | hx
      · exact hlt
      · exact Nat.le_trans hlt (hw x hx)
    · next hlt =>
      refine List.pairwise_cons.2 ⟨fun x hx => ?_, ih hws⟩
      rcases List.mem_cons.1 ((insertLane_perm v ws).mem_iff.1 hx) with rfl | hx
      · exact Nat.not_lt.1 hlt
      · exact hw x hx

/-- An insertion of each element of a list in turn rearranges it. -/
theorem foldl_insert_perm (ins : View → List View → List View) (hins : ∀ v l, (ins v l).Perm (v :: l)) (l acc : List View) :
    (l.foldl (fun a v => ins v a) acc).Perm (l ++ acc) := by
  induction l generalizing acc with
  | nil => exact .refl _
  | cons v l ih => exact (ih _).trans (((hins v acc).append_left l).trans List.perm_middle)

theorem foldl_insertLane_sorted (l : List View) {acc : List View} (h : acc.Pairwise LaneOrder) :
    (l.foldl (fun a v => insertLane v a) acc).Pairwise LaneOrder := by
  induction l generalizing acc with
  | nil => exact h
  | cons v l ih => exact ih (insertLane_sorted h)

/-- Two views whose masks share no slice. -/
def SlicesApart (a b : View) : Prop := ∀ k ∈ slicesOf a.m, k ∉ slicesOf b.m

theorem SlicesApart.symm {a b : View} (h : SlicesApart a b) : SlicesApart b a := fun k hb ha => h k ha hb

theorem ne_nil_of_perm {α : Type} {a b : List α} (h : a.Perm b) (hb : b ≠ []) : a ≠ [] := fun ha => hb (by
  subst ha; exact h.symm.eq_nil)

/-- The step that takes a view while its slices are free. -/
def takeStep (chosen : List View) (v : View) : List View :=
  if chosen.length < 4 && chosen.all (fun w => (slicesOf v.m).all (fun k => !((slicesOf w.m).contains k))) then chosen ++ [v]
  else chosen

theorem takeDisjoint_eq (l : List View) : takeDisjoint l = l.foldl takeStep [] := rfl

theorem foldl_takeStep (l chosen : List View) (hc : chosen.length ≤ 4) (hp : chosen.Pairwise SlicesApart) :
    (l.foldl takeStep chosen).length ≤ 4 ∧ (l.foldl takeStep chosen).Pairwise SlicesApart ∧
    (∀ v ∈ l.foldl takeStep chosen, v ∈ chosen ∨ v ∈ l) ∧ (chosen ≠ [] → l.foldl takeStep chosen ≠ []) := by
  induction l generalizing chosen with
  | nil => exact ⟨hc, hp, fun v hv => .inl hv, id⟩
  | cons v l ih =>
    have hstep : (takeStep chosen v).length ≤ 4 ∧ (takeStep chosen v).Pairwise SlicesApart ∧
        (∀ x ∈ takeStep chosen v, x ∈ chosen ∨ x = v) ∧ (chosen ≠ [] → takeStep chosen v ≠ []) := by
      unfold takeStep
      split
      · next h =>
        simp only [Bool.and_eq_true, decide_eq_true_eq, List.all_eq_true, Bool.not_eq_true', List.contains_eq_mem,
          decide_eq_false_iff_not] at h
        refine ⟨by simp; omega, List.pairwise_append.2 ⟨hp, List.pairwise_singleton _ _, fun w hw x hx => ?_⟩, fun x hx => ?_,
          fun _ => by simp⟩
        · obtain rfl := List.mem_singleton.1 hx
          exact fun k hk hk' => h.2 w hw k hk' hk
        · simpa using hx
      · exact ⟨hc, hp, fun x hx => .inl hx, id⟩
    obtain ⟨h1, h2, h3, h4⟩ := hstep
    obtain ⟨i1, i2, i3, i4⟩ := ih _ h1 h2
    refine ⟨i1, i2, fun x hx => ?_, fun hne => i4 (h4 hne)⟩
    rcases i3 x hx with hx | hx
    · rcases h3 x hx with hx | rfl
      · exact .inl hx
      · exact .inr List.mem_cons_self
    · exact .inr (List.mem_cons_of_mem _ hx)

theorem takeDisjoint_ne_nil {l : List View} (h : l ≠ []) : takeDisjoint l ≠ [] := by
  cases l with
  | nil => exact absurd rfl h
  | cons v l =>
    have hfirst : takeStep [] v = [v] := by simp [takeStep]
    rw [takeDisjoint_eq, List.foldl_cons, hfirst]
    exact (foldl_takeStep l [v] (by simp) (List.pairwise_singleton _ _)).2.2.2 (by simp)

/-- The splits of a group that have the next turn, as views: some of those that can be selected, in ascending order of lowest
lane, their slices apart, four at most (R132, R133). -/
theorem splitChoice_spec (s : State) {l : List View} (h : l ≠ []) : ∃ vs : List View, splitChoice s l = vs.map View.sel ∧
    vs ≠ [] ∧ vs.length ≤ 4 ∧ (∀ v ∈ vs, v ∈ l) ∧ vs.Pairwise LaneOrder ∧ vs.Pairwise SlicesApart := by
  unfold splitChoice
  split
  · next v hv => exact ⟨[v], rfl, by simp, by simp, by simpa using List.mem_of_find?_eq_some hv, by simp, by simp⟩
  · have hrecent := foldl_insert_perm insertRecent insertRecent_perm l []
    rw [List.append_nil] at hrecent
    have hne := takeDisjoint_ne_nil (ne_nil_of_perm hrecent h)
    have htake := foldl_takeStep (l.foldl (fun a v => insertRecent v a) []) [] (by simp) List.Pairwise.nil
    rw [← takeDisjoint_eq] at htake
    obtain ⟨hlen, hapart, hmem, _⟩ := htake
    have hlane := foldl_insert_perm insertLane insertLane_perm (takeDisjoint (l.foldl (fun a v => insertRecent v a) [])) []
    rw [List.append_nil] at hlane
    refine ⟨_, rfl, ne_nil_of_perm hlane hne, hlane.length_eq ▸ hlen, fun v hv => ?_,
      foldl_insertLane_sorted _ List.Pairwise.nil, (hlane.pairwise_iff fun hab => hab.symm).2 hapart⟩
    exact hrecent.mem_iff.1 ((hmem v (hlane.mem_iff.1 hv)).resolve_left List.not_mem_nil)

/-- A lane of a mask lies in one of its slices (R132). -/
theorem mem_slicesOf {m : W32} {i : Nat} (hi : i < 32) (h : m.getLsbD i = true) : i / 4 ∈ slicesOf m := by
  simp only [slicesOf, upto, List.mem_filter, List.mem_range, decide_eq_true_eq]
  refine ⟨by omega, fun h0 => ?_⟩
  have hbit : ((m >>> (4 * (i / 4))).toNat % 2 ^ 4).testBit (i % 4) = true := by
    rw [Nat.testBit_mod_two_pow, BitVec.toNat_ushiftRight, Nat.testBit_shiftRight, show 4 * (i / 4) + i % 4 = i by omega]
    have : i % 4 < 4 := by omega
    rw [BitVec.testBit_toNat]
    simpa [this] using h
  rw [show 2 ^ 4 = 16 from rfl, h0] at hbit
  simp at hbit

/-- The view at a place shows the group, the split and the core that are there. -/
theorem State.viewAt_some {s : State} {sel : Sel} {v : View} (h : s.viewAt sel = some v) :
    v.sel = sel ∧ s.group? sel.core sel.slot = some v.group ∧ v.group.splits[sel.idx]? = some v.split := by
  unfold State.viewAt at h
  split at h
  · next g hg =>
    split at h
    · next sp t hsp ht => cases h; exact ⟨rfl, hg, hsp⟩
    · cases h
  · cases h

theorem mem_selectables {s : State} {c slot : Nat} {g : Group} {v : View} : v ∈ selectables s c slot g ↔
    selectable s v = true ∧ ∃ i, i < g.splits.length ∧ s.viewAt ⟨c, slot, i⟩ = some v := by
  simp only [selectables, List.mem_filterMap, upto, List.mem_range]
  constructor
  · rintro ⟨i, hi, h⟩
    split at h
    · next w hw =>
      split at h
      · next hs => cases h; exact ⟨hs, i, hi, hw⟩
      · cases h
    · cases h
  · rintro ⟨hs, i, hi, hw⟩
    exact ⟨i, hi, by simp [hw, hs]⟩

theorem mem_of_firstGroup {l : List View} {v : View} (h : firstGroup l = some v) : v ∈ l := by
  induction l generalizing v with
  | nil => simp [firstGroup] at h
  | cons w ws ih =>
    unfold firstGroup at h
    split at h
    · next x hx =>
      obtain rfl := Option.some.inj h
      split
      · exact List.mem_cons_of_mem _ (ih hx)
      · exact List.mem_cons_self
    · obtain rfl := Option.some.inj h
      exact List.mem_cons_self

/-- What a side of a core issues in one cycle: one to four splits of one group of the side, in ascending order of lowest lane,
no two with a lane in one slice (R131 to R133). -/
structure SideShape (s : State) (c side : Nat) (sels : List Sel) (slot : Nat) (g : Group) : Prop where
  side  : slot % 2 = side
  taken : sels ≠ []
  four  : sels.length ≤ 4
  group : s.group? c slot = some g
  here  : ∀ sel ∈ sels, sel.core = c ∧ sel.slot = slot ∧ (g.splits[sel.idx]?).isSome = true
  order : sels.Pairwise (fun a b => ∀ p q, g.splits[a.idx]? = some p → g.splits[b.idx]? = some q →
    lowLane p.mask ≤ lowLane q.mask ∧
    ∀ i j, i < 32 → j < 32 → i / 4 = j / 4 → ¬(p.mask.getLsbD i = true ∧ q.mask.getLsbD j = true))

theorem sideChoice_shape {s : State} {c side : Nat} {sels : List Sel} (h : sideChoice s c side = some sels) :
    ∃ slot g, SideShape s c side sels slot g := by
  unfold sideChoice at h
  dsimp only at h
  obtain ⟨v, hfirst, rfl⟩ := Option.map_eq_some_iff.1 h
  obtain ⟨e, he, hhead⟩ := List.mem_filterMap.1 (mem_of_firstGroup hfirst)
  have hside : e.1 % 2 = side := by
    have := (List.mem_filter.1 he).2
    simp only [Bool.and_eq_true, decide_eq_true_eq] at this
    exact this.1
  obtain ⟨hsel, i, _, hview⟩ := mem_selectables.1 (List.mem_of_mem_head? hhead)
  obtain ⟨hvs, hgroup, hsplit⟩ := State.viewAt_some hview
  have hslot : v.sel.slot = e.1 := by rw [hvs]
  have hmem : v ∈ selectables s c v.sel.slot v.group := by
    rw [hslot]
    exact mem_selectables.2 ⟨hsel, i, (List.getElem?_eq_some_iff.1 hsplit).1, hview⟩
  obtain ⟨vs, hvsel, hne, hlen, hsub, horder, hapart⟩ := splitChoice_spec s (List.ne_nil_of_mem hmem)
  rw [hvsel]
  have hat : ∀ w ∈ vs, w.sel.core = c ∧ w.sel.slot = v.sel.slot ∧ v.group.splits[w.sel.idx]? = some w.split := by
    intro w hw
    obtain ⟨_, k, _, hk⟩ := mem_selectables.1 (hsub w hw)
    obtain ⟨hws, hwg, hwsp⟩ := State.viewAt_some hk
    have hsame : w.group = v.group := by
      have hwg' : s.group? c v.sel.slot = some w.group := hwg
      rw [hslot, hgroup] at hwg'
      exact (Option.some.inj hwg').symm
    rw [hws]
    exact ⟨rfl, rfl, hsame ▸ hwsp⟩
  refine ⟨v.sel.slot, v.group, ⟨by rw [hslot]; exact hside, by simpa using hne, by simpa using hlen, by rw [hslot]; exact hgroup,
    fun sel hs => ?_, ?_⟩⟩
  · obtain ⟨w, hw, rfl⟩ := List.mem_map.1 hs
    obtain ⟨hcore, hwslot, hwsp⟩ := hat w hw
    exact ⟨hcore, hwslot, by simp [hwsp]⟩
  · rw [List.pairwise_map]
    refine (horder.and hapart).imp_of_mem fun {a b} ha hb hab p q hp hq => ?_
    obtain rfl : a.split = p := Option.some.inj ((hat a ha).2.2.symm.trans hp)
    obtain rfl : b.split = q := Option.some.inj ((hat b hb).2.2.symm.trans hq)
    refine ⟨hab.1, fun i j hi hj hij hbits => ?_⟩
    exact hab.2 (i / 4) (mem_slicesOf hi hbits.1) (hij ▸ mem_slicesOf hj hbits.2)

/-- A core's choice is what one side or each of its two sides selects (R131). -/
theorem coreChoice_cases {s : State} {c : Nat} {sides : List (List Sel)} (h : coreChoice s c = some sides) :
    (∃ a side, sides = [a] ∧ sideChoice s c side = some a) ∨
    ∃ a b, sides = [a, b] ∧ sideChoice s c 0 = some a ∧ sideChoice s c 1 = some b := by
  unfold coreChoice at h
  dsimp only at h
  cases h0 : sideChoice s c 0 with
  | none =>
    cases h1 : sideChoice s c 1 with
    | none => simp [h0, h1] at h
    | some b => simp [h0, h1] at h; exact .inl ⟨b, 1, h.symm, h1⟩
  | some a =>
    cases h1 : sideChoice s c 1 with
    | none => simp [h0, h1] at h; exact .inl ⟨a, 0, h.symm, h0⟩
    | some b =>
      simp only [h0, h1, Option.toList_some, List.cons_append, List.nil_append] at h
      split_ifs at h
      · exact .inl ⟨a, 0, (Option.some.inj h).symm, h0⟩
      · exact .inl ⟨b, 1, (Option.some.inj h).symm, h1⟩
      · exact .inr ⟨a, b, (Option.some.inj h).symm, rfl, rfl⟩

theorem issueChoices_shape {s : State} {sides : List (List Sel)} (h : sides ∈ issueChoices s) :
    sides ≠ [] ∧ sides.length ≤ 2 ∧
    sides.Pairwise (fun a b => ∀ x ∈ a, ∀ y ∈ b, x.core = y.core ∧ x.slot % 2 ≠ y.slot % 2) ∧
    ∀ sels ∈ sides, ∃ c side slot g, SideShape s c side sels slot g := by
  have hcore : ∃ c, coreChoice s c = some sides := by
    unfold issueChoices at h
    split at h
    · simp at h
    · obtain ⟨c, _, hc⟩ := List.mem_filterMap.1 h
      exact ⟨c, hc⟩
  obtain ⟨c, hc⟩ := hcore
  rcases coreChoice_cases hc with ⟨a, side, rfl, ha⟩ | ⟨a, b, rfl, ha, hb⟩
  · obtain ⟨slot, g, hs⟩ := sideChoice_shape ha
    exact ⟨by simp, by simp, by simp, fun sels hsels => by
      obtain rfl := List.mem_singleton.1 hsels
      exact ⟨c, side, slot, g, hs⟩⟩
  · obtain ⟨slot0, g0, hs0⟩ := sideChoice_shape ha
    obtain ⟨slot1, g1, hs1⟩ := sideChoice_shape hb
    refine ⟨by simp, by simp, ?_, fun sels hsels => ?_⟩
    · refine List.pairwise_pair.2 fun x hx y hy => ?_
      obtain ⟨hxc, hxs, _⟩ := hs0.here x hx
      obtain ⟨hyc, hys, _⟩ := hs1.here y hy
      rw [hxc, hyc, hxs, hys, hs0.side, hs1.side]
      exact ⟨rfl, by decide⟩
    · rcases List.mem_cons.1 hsels with rfl | hsels
      · exact ⟨c, 0, slot0, g0, hs0⟩
      · obtain rfl := List.mem_singleton.1 hsels
        exact ⟨c, 1, slot1, g1, hs1⟩

/-- A split that goes on when a block comes changes in nothing else, and has missed nothing more of the block. -/
theorem missing_wake {block : Nat} {sp y : Split} (h : sp.wake block = y) (hb : y.pc.toNat / 256 = block) :
    y.missing = false := by
  subst h
  unfold Split.wake at hb ⊢
  split at hb
  · next hp => rw [if_pos hp]
  · next hp => exact absurd hb hp

/-- A group after a block has come: its registers are as before (R130). -/
theorem filled_group? {s : State} {c n asid block c' slot : Nat} {g : Group} (hg : s.group? c' slot = some g) :
    ∃ g', (s.modCore c (fun k => k.filled s n asid block)).group? c' slot = some g' ∧ ∀ fr r, SameReg g g' fr r := by
  unfold State.group?
  rw [State.core_modCore]
  by_cases hc : c' = c
  · subst hc
    rw [if_pos rfl, Core.filled_get?, show Table.get? (s.core c').groups slot = some g from hg]
    obtain ⟨sp, sl, he⟩ := g.filled_eq s asid block
    refine ⟨_, rfl, ?_⟩
    dsimp only
    rw [he]
    exact SameReg.of_fields rfl rfl rfl rfl rfl rfl
  · rw [if_neg hc]
    exact ⟨g, hg, SameReg.of_fields rfl rfl rfl rfl rfl rfl⟩

/-- The splits of its ASID that missed a block miss it no more (R130). -/
theorem filled_missing {s : State} {c n asid block slot : Nat} {g : Group} {x : Task} {sp : Split}
    (hg : (s.modCore c (fun k => k.filled s n asid block)).group? c slot = some g) (ht : Table.get? s.tasks g.task = some x)
    (ha : x.asid = asid) (hsp : sp ∈ g.entries) (hb : sp.pc.toNat / 256 = block) : sp.missing = false := by
  unfold State.group? at hg
  rw [State.core_modCore, if_pos rfl, Core.filled_get?] at hg
  obtain ⟨g0, _, hg⟩ := Option.map_eq_some_iff.1 hg
  have htask : g.task = g0.task := by
    obtain ⟨sp, sl, he⟩ := g0.filled_eq s asid block
    rw [← hg, he]
  rw [htask] at ht
  rw [← hg, Group.filled_entries block ht ha] at hsp
  obtain ⟨y, _, hy⟩ := List.mem_map.1 hsp
  exact missing_wake hy hb

end Sys2Proof.Machine

open Sys2Proof.Machine in
/-- Settles O51: each step by what it does to one group or core, and the choice of the splits that issue by the lists it is
taken from. -/
theorem coreSteps : Obligations.CoreSteps := by
  unfold Obligations.CoreSteps
  refine ⟨?_, ?_, ?_, ?_, ?_, ?_, ?_, ?_, ?_, ?_⟩
  · intro s sides h
    obtain ⟨hne, htwo, hpair, hall⟩ := issueChoices_shape h
    refine ⟨hne, htwo, hpair, fun sels hs => ?_⟩
    obtain ⟨c, side, slot, g, hshape⟩ := hall sels hs
    exact ⟨hshape.taken, hshape.four, c, slot, g, hshape.group, hshape.here, hshape.order⟩
  · intro s c slot n g sp hg hn hs hh hl hm
    refine ⟨_, g.expire n, g.leftMeet sp, exec_meetBoundExpiry hg hn hs hh hl hm, rfl, ⟨fun _ => rfl, rfl, rfl⟩, rfl, ?_,
      SameReg.of_fields rfl rfl rfl rfl rfl rfl, rfl, ?_, rfl, rfl, rfl, fun m hmn => ?_⟩
    · rw [State.group?_signal, State.group?_putGroup]; simp
    · simp [Group.expire, getElem?_changeAt, hn]
    · simp [Group.expire, getElem?_changeAt, hmn]
  · intro s c slot i j g a b hg hi hj hij hh ha hb hpc hfr hin hm
    obtain ⟨hregs, _, hsplits⟩ := Group.fusePair_spec (b := b) hi hij ha hm
    refine ⟨_, g.fusePair i j a b, splitFusion_next hg hi hj hij hh ha hb hpc hfr hin hm, by simp, fun hsp => ?_, fun x hx => ?_,
      by simp, ?_, hregs, hsplits⟩
    · rw [State.syncArea_unspilled _ _ _ hsp]
      exact ⟨fun _ => by simp, by simp, by simp⟩
    · rw [State.joinOrders_mem, State.get_syncArea _ _ _ _ hx]; rfl
    · rw [State.joinOrders_group?, State.syncArea_group?, State.group?_putGroup]; simp
  · intro s c slot g l sp hg hl hsp hr hst ha
    have hs : g.spilled ≠ [] := by simp [hsp]
    obtain ⟨htick, htasks, hgroup, hmem⟩ := s.bringBack_spec c slot (g.refill (s.cyc c)) [11]
    refine ⟨_, _, (exec_splitRefill hg hl hs hr hst).trans (by rw [State.areaMove_none ha]), htick, htasks, hgroup, ?_⟩
    rw [Group.refill_eq hsp] at hmem ⊢
    exact ⟨SameReg.of_fields rfl rfl rfl rfl rfl rfl, rfl, rfl, rfl, rfl, fun a h => hmem a h⟩
  · intro s c slot i g hg hs hst hi ha
    rcases hi with ⟨rfl, hl, hr⟩ | ⟨rfl, ho, hne⟩
    · exact ⟨_, exec_splitRefill hg hl hs hr hst, State.areaMove_absent hg ha rfl⟩
    · exact ⟨_, exec_splitRotation hg ho hs hne hst, State.areaMove_absent hg ha rfl⟩
  · intro s c slot g h sp hs rest hg ho hsp hre hst ha
    have hne : g.spilled ≠ [] := by simp [hsp]
    have hre' : g.splits ≠ [] := by simp [hre]
    obtain ⟨htick, htasks, hgroup, hmem⟩ := s.bringBack_spec c slot (g.rotate (s.cyc c)) [11, 10]
    refine ⟨_, _, (exec_splitRotation hg ho hne hre' hst).trans (by rw [State.areaMove_none ha]), htick, htasks, hgroup, ?_⟩
    rw [Group.rotate_eq hsp hre] at hmem ⊢
    exact ⟨SameReg.of_fields rfl rfl rfl rfl rfl rfl, rfl, rfl, rfl, rfl, fun a h => hmem a h⟩
  · intro s c side slot hw hn hl
    obtain ⟨t, ht, htick, hmem, htasks, hgroups, hactive, hwait⟩ := exec_activeSetAdmit hw hn (givenUp_free hl)
    refine ⟨t, ht, htick, hmem, htasks, hgroups, ?_, hwait⟩
    simpa using hactive
  · intro s c side slot old hw hn hl hi
    obtain ⟨t, ht, _, hmem, _, hgroups, hactive, _⟩ := exec_activeSetAdmit hw hn (givenUp_idle hl hi)
    refine ⟨t, ht, hmem, hgroups, ?_⟩
    simpa using hactive
  · intro s c side slot old hw hn hl hr hm hs hh he
    obtain ⟨t, ht, _, hmem, _, hgroups, hactive, _⟩ := exec_activeSetAdmit hw hn (givenUp_elder hl hr hm hs hh he)
    refine ⟨t, ht, hmem, hgroups, ?_⟩
    simpa using hactive
  · intro s c n asid block p hf hp hx hr hpa
    obtain ⟨htick, hmem, htasks, hfills, hgroups, hroom, hfull⟩ :=
      (s.modCore c (fun k => k.filled s n asid block)).addLine_spec c (s.lineOf asid block (p.pa + (block * 256 - p.va)))
    have hcore : (s.modCore c (fun k => k.filled s n asid block)).core c = (s.core c).filled s n asid block := by
      rw [State.core_modCore, if_pos rfl]
    rw [hcore] at hfills hroom hfull
    refine ⟨_, s.lineOf asid block (p.pa + (block * 256 - p.va)), exec_icacheLineFill hf hp hx hr, htick,
      ⟨hmem.bytes, hmem.poison, hmem.full⟩, htasks, hfills,
      hroom, hfull, rfl, fun c' slot g hg => ?_, rfl, fun k hk => ?_, fun slot g x sp hg ht ha hsp hb => ?_⟩
    · rw [hgroups]; exact filled_group? hg
    · have hplain : isMere (p.pa + (block * 256 - p.va) + k) = false := by
        simp only [isMere, decide_eq_false_iff_not]; omega
      simp [State.lineOf, upto, physRead, hplain, hk]
    · rw [hgroups] at hg
      exact filled_missing hg ht ha hsp hb
end

section
/-! PROOFS. SPAWN of a parent whose channel shapes are longer than its TCB holds (O35). -/

namespace Sys2Proof.Machine

/-! A TCB as it is written back. -/

/-- A byte of an image that the device stores reads as it was stored. -/
theorem State.get_putBytes_of_lt (s : State) (pa : Nat) (bs : List Byte) {k : Nat} (h : k < bs.length) :
    Memory.get (s.putBytes pa bs).mem (pa + k) = bs[k] := by
  have hkeys : (imageCells pa bs).map Prod.fst = (upto bs.length).map (fun e => pa + e) := by
    rw [imageCells, List.map_map, ← List.map_fst_zip (l₁ := upto bs.length) (l₂ := bs) (by simp [upto]), List.map_map]
    rw [List.map_fst_zip (by simp [upto])]
    rfl
  have hnodup : ((imageCells pa bs).map Prod.fst).Nodup := by
    rw [hkeys]
    exact (List.nodup_range).map fun a b hab => by simpa using hab
  have hmem : (pa + k, bs[k]) ∈ imageCells pa bs := by
    refine List.mem_map.2 ⟨(k, bs[k]), List.mem_iff_getElem.2 ⟨k, by simp [upto, h], by simp [upto]⟩, rfl⟩
  exact Memory.get_putAll_of_mem _ _ hnodup hmem

/-- The channel shapes of a task stand in its TCB from byte 0x48 on (R165). -/
theorem tcbImage_chanBytes (t : Task) {k : Nat} (h : k < t.chanBytes.length) :
    (tcbImage t)[72 + k]? = some t.chanBytes[k] := by
  have hpast : ∀ (l r : List Byte) (n j : Nat), l.length = n → n ≤ j → (l ++ r)[j]? = r[j - n]? := fun l r n j hl hj => by
    rw [List.getElem?_append_right (hl ▸ hj), hl]
  unfold tcbImage
  simp only [List.append_assoc]
  rw [hpast _ _ 4 _ (by simp) (by omega), hpast _ _ 4 _ (by simp) (by omega), hpast _ _ 4 _ (by simp) (by omega),
    hpast _ _ 4 _ (by simp) (by omega), hpast _ _ 8 _ (by simp) (by omega), hpast _ _ 8 _ (by simp) (by omega),
    hpast _ _ 8 _ (by simp) (by omega), hpast _ _ 8 _ (by simp) (by omega), hpast _ _ 8 _ (by simp) (by omega),
    hpast _ _ 8 _ (by simp) (by omega), hpast _ _ 8 _ (by simp) (by omega)]
  rw [show 72 + k - 4 - 4 - 4 - 4 - 8 - 8 - 8 - 8 - 8 - 8 - 8 = k by omega, List.getElem?_append_left h,
    List.getElem?_eq_getElem h]

/-- A task stored at an address has its channel shapes in memory there, all of them. -/
theorem State.get_storeTask_chanBytes {s : State} {tid pa k : Nat} {t : Task}
    (hp : tcbPhys { s with tasks := Table.set s.tasks tid { t with written := t.alw } } t = some pa)
    (h : k < t.chanBytes.length) :
    Memory.get (s.storeTask tid t).mem (pa + (72 + k)) = t.chanBytes[k] := by
  have himage := tcbImage_chanBytes t h
  obtain ⟨hk, hget⟩ := List.getElem?_eq_some_iff.1 himage
  unfold State.storeTask
  simp only [hp]
  rw [State.get_putBytes_of_lt _ _ _ hk, hget]

/-! SPAWN of a template that may be used. -/

/-- What SPAWN answers with a slot free: a task created there, and its parent's children counted anew (R178). -/
theorem spawnTask_answer {s s0 : State} {c frame paid slot : Nat} {w : Who} {va amt : W64} {me : Task}
    (hs : s0 = (s.drainStores c).crossed c w.ctx
      ((upto 4).filterMap (fun k => physOf (s.drainStores c) w.ctx w.asid (va.toNat + 64 * k) Need.load)))
    (hme : Table.get? s0.tasks w.task = some me) (hbad : rangeBad s0 w.ctx w.asid w.task Need.load va.toNat 256 = none)
    (habsent : rangeAbsent s0 w.ctx w.asid Need.load 6 va.toNat (va.toNat + 256) = [])
    (hgood : templateGood ((templateBytes s0 w (some (c, w.slot, frame)) va.toNat).map Prod.fst) = true)
    (hclean : (templateBytes s0 w (some (c, w.slot, frame)) va.toNat).any Prod.snd = false)
    (hdepth : ∃ cx, Table.get? s0.hub.ctxs w.ctx = some cx ∧ me.depth + 1 ≤ cx.lmax)
    (hslot : s0.poolSlot w.ctx = some slot) :
    ∃ child args x, spawnTask s c w frame va amt paid =
      .answer (({ s0 with fresh := s0.fresh + 1 }.create slot child args).modKids w.task (fun n => n + 1)) x := by
  obtain ⟨cx, hcx, hdepth⟩ := hdepth
  unfold spawnTask
  simp only [← hs, hme, hbad, habsent, hgood, hclean, hcx, hslot, Nat.not_lt.2 hdepth, Option.isSome_none, ne_eq,
    not_true_eq_false, Bool.not_true, Bool.false_eq_true, if_false]
  exact ⟨_, _, _, rfl⟩

/-- A child created leaves another task as it was. -/
theorem State.create_task {s : State} {key tid : Nat} (t : Task) (args : List Byte) (h : tid ≠ key) :
    Table.get? (s.create key t args).tasks tid = Table.get? s.tasks tid := by
  have hstore : ∀ x : Task, Table.get? (s.storeTask key x).tasks tid = Table.get? s.tasks tid := fun x => by
    unfold State.storeTask
    dsimp only
    split <;> simp [Table.get?_set, h]
  unfold State.create State.writeTcb
  dsimp only
  split
  · rw [State.putBytes_tasks, hstore]
  · exact hstore _

theorem State.create_hub (s : State) (key : Nat) (t : Task) (args : List Byte) : (s.create key t args).hub = s.hub := by
  have hstore : ∀ x : Task, (s.storeTask key x).hub = s.hub := fun x => by
    unfold State.storeTask
    dsimp only
    split <;> rfl
  unfold State.create State.writeTcb
  dsimp only
  split
  · rw [State.putBytes_hub, hstore]
  · exact hstore _

/-- The place of a TCB depends on the pages that are mapped. -/
theorem tcbPhys_congr {s t : State} (h : t.hub = s.hub) (x : Task) : tcbPhys t x = tcbPhys s x := by
  unfold tcbPhys findPage
  rw [h]

/-- After a SPAWN the parent's channel shapes stand in memory from byte 0x48 of its TCB on, all of them (R165, R178). -/
theorem get_modKids_create {s : State} {key tid pa k : Nat} {me child : Task} {args : List Byte} (h : tid ≠ key)
    (hme : Table.get? s.tasks tid = some me) (hp : tcbPhys s me = some pa) (hk : k < me.chanBytes.length) :
    Memory.get ((s.create key child args).modKids tid (fun n => n + 1)).mem (pa + (72 + k)) = me.chanBytes[k] := by
  unfold State.modKids
  rw [State.create_task child args h, hme]
  refine State.get_storeTask_chanBytes (t := { me with kids := me.kids + 1 }) ?_ hk
  have hfields : tcbPhys s { me with kids := me.kids + 1 } = some pa := hp
  rw [← hfields]
  exact tcbPhys_congr (s.create_hub key child args) _

/-! The counterexample: the placed program's root task with 400 bytes of channel shapes, its one split at SPAWN of the template at
s(1), its argument block. -/

/-- A root task with 400 bytes of channel shapes. -/
def longRoot : Task := { placedRoot with chanBytes := List.replicate 400 0xFF }

/-- The device that runs it alone. -/
def longState : State := { State.reset.withFetchWord 32 0 with cur := some ⟨0, 0, 0⟩, tasks := [(placedTask, longRoot)] }

/-- Its one split. -/
def longView : View := ⟨⟨0, 0, 0⟩, placedCore 0, placedGroup, firstSplit longRoot.entry 0, longRoot⟩

theorem longView_ready : Ready (.spawn 40 1 0) longView longState := by decide +kernel

/-- The slot of the pool that the free choice of log entry 8 gives. -/
def longSlot : Nat := Config.poolBase + 256 * (Config.poolPick 0 16384 % 16384)

theorem longSlot_ne : placedTask ≠ longSlot := by
  have hpick : Config.poolPick 0 16384 % 16384 < 16384 := Nat.mod_lt _ (by decide)
  have htask : placedTask = 2 ^ 56 + 0x20000 := by decide
  have hbase : Config.poolBase = 0xEF000000000000 := rfl
  unfold longSlot
  omega

/-- A state in which the one task is a root has that slot free. -/
theorem poolSlot_longSlot {s : State} (hused : usedSlots s = [])
    (hctx : Table.get? s.hub.ctxs 0 = some placedCtx) (hheld : s.tasks.filter (fun e => !e.2.isRoot && decide (e.2.ctx = 0)) = [])
    (hfresh : s.fresh = 0) : s.poolSlot 0 = some longSlot := by
  unfold State.poolSlot
  simp [hused, hctx, hheld, hfresh, nthFree, placedCtx, Config.poolSlots, longSlot]

/-- The device after the debit, as SPAWN reads it. -/
def longCharged : State := (chargeIssue longView 8 longState).signal 0 0 43
/-- The same once the template's places have been counted. -/
def longReached : State := (longCharged.drainStores 0).crossed 0 0
  ((upto 4).filterMap (fun k => physOf (longCharged.drainStores 0) 0 0 (0x20080 + 64 * k) Need.load))

theorem longView_addr : longView.rs 1 = 0x20080 := by decide +kernel

/-- The debited task. -/
def longDebited : Task := { longRoot with consumed := 8 }

theorem longReached_task : Table.get? longReached.tasks placedTask = some longDebited := by decide +kernel

/-- SPAWN answers from the device so debited. -/
theorem longCharged_answer : ∃ child args x,
    spawnTask longCharged 0 longView.who longView.fr (longView.rs 1) (spawnAmount longView 0) (longView.debited (.spawn 40 1 0) - 8) =
      .answer (({ longReached with fresh := longReached.fresh + 1 }.create longSlot child args).modKids placedTask
        (fun n => n + 1)) x := by
  rw [longView_addr]
  refine spawnTask_answer (w := longView.who) (me := longDebited) rfl longReached_task ?_ ?_ ?_ ?_ ?_ ?_
  · decide +kernel
  · decide +kernel
  · decide +kernel
  · decide +kernel
  · exact ⟨placedCtx, by decide +kernel, by decide⟩
  · exact poolSlot_longSlot (by decide +kernel) (by decide +kernel) (by decide +kernel) (by decide +kernel)

/-- Byte 400 from the start of the parent's TCB on is written, though the TCB has 256 bytes. -/
theorem longState_spawned : ∃ t, exec (.spawn 40 1 0) longState = .next t ∧
    Memory.get t.mem (0x20000 + (72 + 328)) = 0xFF := by
  obtain ⟨child, args, x, hanswer⟩ := longCharged_answer
  have hcost : costOf longView (.spawn 40 1 0) = 8 := by decide +kernel
  have hbody : spawnBody 40 1 0 longView (chargeIssue longView 8 longState) = .next
      ((({ longReached with fresh := longReached.fresh + 1 }.create longSlot child args).modKids placedTask
        (fun n => n + 1)).onGroup longView.sel (fun g => g.writeS longView.fr 40 x)) := by
    unfold spawnBody
    have hsignal : (chargeIssue longView 8 longState).signal longView.sel.core longView.task.ctx 43 = longCharged := rfl
    dsimp only
    rw [hsignal]
    have hcore : longView.sel.core = 0 := rfl
    rw [hcore, hanswer]
  have hexec : exec (.spawn 40 1 0) longState = .next (issueFrom (.spawn 40 1 0) (spawnBody 40 1 0) longView
      longState).endCycle :=
    issueWith_ready longView_ready _
  refine ⟨_, hexec, ?_⟩
  rw [issueFrom_ready longView_ready, hcost, hbody, State.endCycle_mem, setPc_mem, State.onGroup_mem]
  have hk : 328 < longDebited.chanBytes.length := by decide +kernel
  rw [get_modKids_create (s := { longReached with fresh := longReached.fresh + 1 }) longSlot_ne longReached_task
    (by decide +kernel) hk]
  exact List.getElem_replicate hk

end Sys2Proof.Machine

open Sys2Proof.Machine in
/-- Refutes O35: the statement bounds what changes of the parent's TCB by 128 bytes, but allows a parent with more than the 16
bytes of channel shapes that the TCB's field holds (R165); SPAWN writes them all back, beyond the 128. -/
theorem not_spawning : ¬ Obligations.Spawning := by
  unfold Obligations.Spawning
  rintro ⟨hanswer, -⟩
  obtain ⟨t, hexec, hbyte⟩ := longState_spawned
  obtain ⟨u, g, child, me, huexec, hrest⟩ := hanswer 40 1 0 longSlot 0 _ placedCtx longView longState longView_ready
    (by decide +kernel) (by decide +kernel) (by decide +kernel) (by decide +kernel) rfl (by decide +kernel) (by decide +kernel)
    (by decide +kernel) (by decide +kernel) (by decide)
    (poolSlot_longSlot (by decide +kernel) (by decide +kernel) (by decide +kernel) (by decide +kernel))
    (by simp [longState, Table.get?, longSlot_ne.symm]) (Nat.le_add_right _ _)
  obtain ⟨-, -, -, -, -, -, -, -, -, -, -, -, -, -, -, -, -, -, -, -, -, -, -, hsame⟩ := hrest
  have hut : u = t := by
    rw [hexec] at huexec
    cases huexec; rfl
  have hkept : Memory.get u.mem (0x20000 + (72 + 328)) = Memory.get longState.mem (0x20000 + (72 + 328)) := by
    refine hsame _ (fun hw => ?_) (fun pa hpa hw => ?_)
    · have hbase : Sys2Proof.Config.reservedBase = 0x01F000000000 := rfl
      have := hw.1
      omega
    · have hplace : tcbPhys longState longView.task = some 0x20000 := by decide +kernel
      rw [hplace] at hpa
      obtain rfl := Option.some.inj hpa
      have := hw.2
      omega
  have hzero : Memory.get longState.mem (0x20000 + (72 + 328)) = 0 := by decide +kernel
  rw [hut, hbyte, hzero] at hkept
  exact absurd hkept (by decide)
end

section
/-! PROOFS. States that memory accesses find alike: no access depends on a group's splits, a task's account or a counter's signals. -/

namespace Sys2Proof.Machine

/-! What the issue of an instruction and the parking of its split leave of the state as memory accesses find it: all but the
splits, the accounts and the counter signals. -/

/-- A group but for its splits. -/
def Group.still (g : Group) : Group := { g with splits := [], spilled := [] }
/-- A core but for its groups' splits and its signals. -/
def Core.still (k : Core) : Core := { k with groups := k.groups.map (fun e => (e.1, e.2.still)), signals := [] }
/-- A task but for its account. -/
def Task.still (t : Task) : Task := { t with alw := 0, consumed := 0 }

/-- Two states that memory accesses find alike. -/
structure Alike (s t : State) : Prop where
  mem    : t.mem = s.mem
  poison : t.poison = s.poison
  fresh  : t.fresh = s.fresh
  hub    : t.hub = s.hub
  cores  : ∀ c, (t.core c).still = (s.core c).still
  tasks  : t.tasks.map (fun e => (e.1, e.2.still)) = s.tasks.map (fun e => (e.1, e.2.still))

theorem Alike.refl (s : State) : Alike s s := ⟨rfl, rfl, rfl, rfl, fun _ => rfl, rfl⟩
theorem Alike.symm {s t : State} (h : Alike s t) : Alike t s :=
  ⟨h.mem.symm, h.poison.symm, h.fresh.symm, h.hub.symm, fun c => (h.cores c).symm, h.tasks.symm⟩
theorem Alike.trans {s t u : State} (h : Alike s t) (h' : Alike t u) : Alike s u :=
  ⟨h'.mem.trans h.mem, h'.poison.trans h.poison, h'.fresh.trans h.fresh, h'.hub.trans h.hub,
   fun c => (h'.cores c).trans (h.cores c), h'.tasks.trans h.tasks⟩

/-! Changes that keep a state alike. -/

theorem alike_modCore {s : State} {c : Nat} {f : Core → Core} (hf : (f (s.core c)).still = (s.core c).still) :
    Alike s (s.modCore c f) := by
  refine ⟨rfl, rfl, rfl, rfl, fun c' => ?_, rfl⟩
  rw [State.core_modCore]
  split
  · next h => rw [hf, h]
  · rfl

theorem alike_modGroup {s : State} {c g : Nat} {f : Group → Group} (hf : ∀ x : Group, (f x).still = x.still) :
    Alike s (s.modGroup c g f) := by
  unfold State.modGroup
  split
  · next x hx =>
    refine alike_modCore ?_
    have hmap := Table.map_set (s.core c).groups g (f x) x (fun e => (e.1, e.2.still)) hx (by rw [hf])
    simp only [Core.still]
    rw [hmap]
  · exact Alike.refl s

theorem alike_raise (s : State) (c ctx : Nat) (bits : BitVec 64) : Alike s (s.raise c ctx bits) := alike_modCore rfl
theorem alike_signal (s : State) (c ctx n : Nat) : Alike s (s.signal c ctx n) := alike_raise ..

/-- A table in which a value has been changed, as seen through a function that the change leaves. -/
theorem Table.map_modify {α β : Type} (t : Table α) (k : Nat) (f : α → α) (φ : Nat × α → β)
    (h : ∀ x, φ (k, f x) = φ (k, x)) : (Table.modify t k f).map φ = t.map φ := by
  unfold Table.modify
  split
  · next x hx => exact Table.map_set t k (f x) x φ hx (h x)
  · rfl

theorem alike_modTask {s : State} {tid : Nat} {f : Task → Task} (hf : ∀ x : Task, (f x).still = x.still) :
    Alike s (s.modTask tid f) :=
  ⟨rfl, rfl, rfl, rfl, fun _ => rfl, Table.map_modify _ _ _ _ fun x => by rw [hf]⟩

theorem Task.still_charge (t : Task) (n : Nat) : (t.charge n).still = t.still := by
  unfold Task.charge; split <;> rfl

/-- The debit and bookkeeping of an issue. -/
theorem alike_chargeIssue (v : View) (cost : Nat) (s : State) : Alike s (chargeIssue v cost s) := by
  have hbook : ∀ s' : State, Alike s' (s'.onGroup v.sel (v.book s)) := fun s' => alike_modGroup fun _ => rfl
  unfold chargeIssue
  refine Alike.trans ?_ (alike_raise ..)
  split
  · exact hbook s
  · exact (alike_modTask fun x => x.still_charge cost).trans (hbook _)

theorem alike_park (s : State) (c slot lane : Nat) (w : Wait) : Alike s (s.modGroup c slot (fun g => g.parkLane lane w)) :=
  alike_modGroup fun _ => rfl

/-! Who holds what does not depend on splits. -/

section
variable (k : Core)

@[simp] theorem Core.viewOwner_still (m : MereAt) : k.still.viewOwner m = k.viewOwner m :=
  Core.viewOwner_congr (k := k) (k' := k.still) rfl rfl (by simp only [Core.still, List.map_map]; rfl) m

@[simp] theorem Core.staleOwner_still (m : MereAt) : k.still.staleOwner m = k.staleOwner m := by cases m <;> rfl

@[simp] theorem Core.tileOwner_still (e : Nat) : k.still.tileOwner e = k.tileOwner e := by
  simp only [Core.tileOwner, Core.still, List.findSome?_map]; rfl
@[simp] theorem Core.accOwner_still (e : Nat) : k.still.accOwner e = k.accOwner e := by
  simp only [Core.accOwner, Core.still, List.findSome?_map]; rfl
@[simp] theorem Core.granOwner_still (e : Nat) : k.still.granOwner e = k.granOwner e := by
  simp only [Core.granOwner, Core.still, List.findSome?_map]; rfl
@[simp] theorem Core.looseRead_still (key c off fresh : Nat) :
    k.still.looseRead key c off fresh = k.looseRead key c off fresh := rfl

theorem Core.get?_still (n : Nat) : Table.get? k.still.groups n = (Table.get? k.groups n).map Group.still :=
  Table.get?_map k.groups Group.still n

@[simp] theorem mereEdit_still (c : Nat) (m : MereAt) (b : Byte) (clears sets : Bool) :
    mereEdit k.still c m b clears sets = mereEdit k c m b clears sets := by
  cases m <;> simp [mereEdit]

@[simp] theorem queryValue_still (c g fr off : Nat) : queryValue k.still c g fr off = queryValue k c g fr off := by
  unfold queryValue
  rw [Core.get?_still]
  cases Table.get? k.groups g <;> rfl
end

section
variable {s t : State} (h : Alike s t)
include h

theorem Alike.viewOwner (c : Nat) (m : MereAt) : (t.core c).viewOwner m = (s.core c).viewOwner m := by
  rw [← Core.viewOwner_still, h.cores, Core.viewOwner_still]
theorem Alike.staleOwner (c : Nat) (m : MereAt) : (t.core c).staleOwner m = (s.core c).staleOwner m := by
  rw [← Core.staleOwner_still, h.cores, Core.staleOwner_still]
theorem Alike.tileOwner (c e : Nat) : (t.core c).tileOwner e = (s.core c).tileOwner e := by
  rw [← Core.tileOwner_still, h.cores, Core.tileOwner_still]
theorem Alike.accOwner (c e : Nat) : (t.core c).accOwner e = (s.core c).accOwner e := by
  rw [← Core.accOwner_still, h.cores, Core.accOwner_still]
theorem Alike.granOwner (c e : Nat) : (t.core c).granOwner e = (s.core c).granOwner e := by
  rw [← Core.granOwner_still, h.cores, Core.granOwner_still]
theorem Alike.looseRead (c key c' off fresh : Nat) :
    (t.core c).looseRead key c' off fresh = (s.core c).looseRead key c' off fresh := by
  rw [← Core.looseRead_still, h.cores, Core.looseRead_still]
theorem Alike.queryValue (c g fr off : Nat) :
    Machine.queryValue (t.core c) c g fr off = Machine.queryValue (s.core c) c g fr off := by
  rw [← queryValue_still, h.cores, queryValue_still]
theorem Alike.mereEdit (c c' : Nat) (m : MereAt) (b : Byte) (clears sets : Bool) :
    Machine.mereEdit (t.core c) c' m b clears sets = Machine.mereEdit (s.core c) c' m b clears sets := by
  rw [← mereEdit_still, h.cores, mereEdit_still]
theorem Alike.inReset (c : Nat) : (t.core c).inReset = (s.core c).inReset := by
  have hc := congrArg Core.inReset (h.cores c)
  exact hc
theorem Alike.stores (c : Nat) : (t.core c).stores = (s.core c).stores := by
  have hc := congrArg Core.stores (h.cores c)
  exact hc
theorem Alike.markers (c : Nat) : (t.core c).markers = (s.core c).markers := by
  have hc := congrArg Core.markers (h.cores c)
  exact hc

/-- A group of one is a group of the other, its splits apart. -/
theorem Alike.get? (c g : Nat) :
    (Table.get? (t.core c).groups g).map Group.still = (Table.get? (s.core c).groups g).map Group.still := by
  rw [← Core.get?_still, h.cores, Core.get?_still]

/-- What is read of a group, its splits apart. -/
theorem Alike.ofGroup {α : Type} (c g : Nat) (F : Group → α) (d : α) (hF : ∀ x : Group, F x = F x.still) :
    (match Table.get? (t.core c).groups g with
      | some x => F x
      | none => d) =
    match Table.get? (s.core c).groups g with
      | some x => F x
      | none => d := by
  have hg := h.get? c g
  rcases hs : Table.get? (s.core c).groups g with _ | x <;> rcases ht : Table.get? (t.core c).groups g with _ | y <;>
    simp only [hs, ht, Option.map_none, Option.map_some, Option.some.injEq, reduceCtorEq] at hg ⊢
  rw [hF y, hg, ← hF x]

/-- A task of one is a task of the other, its account apart. -/
theorem Alike.task (n : Nat) : (Table.get? t.tasks n).map Task.still = (Table.get? s.tasks n).map Task.still := by
  rw [← Table.get?_map, h.tasks, Table.get?_map]

theorem Alike.chanByte (c elem b : Nat) : t.chanByte c elem b = s.chanByte c elem b := by
  have hstill : ∀ u : State, u.chanByte c elem b = (u.tasks.map (fun e => (e.1, e.2.still))).findSome? (fun e =>
      if e.2.place ≠ c then none else
      match findPos (fun n => decide (n = elem)) e.2.chanGrans with
      | none => none
      | some i => match chanSlot e.2.chans (8 * i + b / 128) with
        | none => none
        | some (ch, pos) => match Table.get? e.2.chans ch with
          | none => none
          | some x =>
            let at' := (pos + x.depth - x.popPos % x.depth) % x.depth
            if at' < x.full.length then some (e.1, ch, at') else none) := fun u => by
    rw [List.findSome?_map]; rfl
  rw [hstill t, h.tasks, ← hstill s]

/-- The slots of a task's channel. -/
theorem Alike.chanSlots (n ch : Nat) : (Table.get? t.tasks n).bind (fun x => Table.get? x.chans ch) =
    (Table.get? s.tasks n).bind (fun x => Table.get? x.chans ch) := by
  have ht := h.task n
  rcases hs : Table.get? s.tasks n with _ | x <;> rcases ht' : Table.get? t.tasks n with _ | y <;>
    simp only [hs, ht', Option.map_none, Option.map_some, Option.some.injEq, reduceCtorEq] at ht ⊢
  have hch := congrArg (fun z : Task => Table.get? z.chans ch) ht
  exact hch
end

/-! What reads the same in two states that memory accesses find alike. -/

section
variable {s t : State} (h : Alike s t)
include h

/-- A byte of the Mere map reads the same. -/
theorem Alike.mereRead (who : Reader) (pa : Nat) : Machine.mereRead t who pa = Machine.mereRead s who pa := by
  suffices hh : ∀ f, f = Machine.mereRead → ∀ core off, core = mereCore → off = mereOffset → f t who pa = f s who pa from
    hh _ rfl _ _ rfl rfl
  intro f hf core off hcore hoff
  delta Machine.mereRead at hf
  rw [← hcore, ← hoff] at hf
  clear hcore hoff
  subst hf
  dsimp only
  generalize core pa = c
  generalize off pa = o
  split
  · rfl
  generalize mereAt o = m
  cases m with
  | scratch => simp only [h.mem, h.poison]
  | tile e b =>
    simp only [h.tileOwner, h.looseRead, h.fresh]
    cases (s.core c).tileOwner (modelElem c 1 e) with
    | none => rfl
    | some gn => exact h.ofGroup c gn.1 (fun x => ((x.readT gn.2).bytes.getD b 0,
        (x.readT gn.2).poison.getLsbD (b / 64))) _ fun _ => rfl
  | acc e b =>
    simp only [h.accOwner, h.looseRead, h.fresh]
    cases (s.core c).accOwner (modelElem c 2 e) with
    | none => rfl
    | some gn => exact h.ofGroup c gn.1 (fun x => (((x.readA gn.2).vals.getD (b / 4) 0).extractLsb' (8 * (b % 4)) 8,
        (x.readA gn.2).poison.getLsbD (b / 256))) _ fun _ => rfl
  | granule e b =>
    simp only [h.granOwner, h.chanByte, h.looseRead, h.fresh]
    cases (s.core c).granOwner (modelElem c 0 e) with
    | some gfi => exact h.ofGroup c gfi.1 (fun x => (x.readV gfi.2.1 (8 * gfi.2.2 + b / 128)).byte (b % 128)) _ fun _ => rfl
    | none =>
      cases s.chanByte c (modelElem c 0 e) b with
      | none => rfl
      | some tci => simp only [h.chanSlots]
  | frameV slot gen reg b =>
    simp only [h.viewOwner]
    cases (s.core c).viewOwner (.frameV slot gen reg b) with
    | none => rfl
    | some g => exact h.ofGroup c g (fun x => (x.readV slot reg).byte b) _ fun _ => rfl
  | frameS slot gen reg b =>
    simp only [h.viewOwner]
    cases (s.core c).viewOwner (.frameS slot gen reg b) with
    | none => rfl
    | some g => exact h.ofGroup c g (fun x => (x.readS slot reg).byte b) _ fun _ => rfl
  | groupV slot gen reg b =>
    simp only [h.viewOwner]
    cases (s.core c).viewOwner (.groupV slot gen reg b) with
    | none => rfl
    | some g => exact h.ofGroup c g (fun x => (x.readV 0 reg).byte b) _ fun _ => rfl
  | groupS slot gen reg b =>
    simp only [h.viewOwner]
    cases (s.core c).viewOwner (.groupS slot gen reg b) with
    | none => rfl
    | some g => exact h.ofGroup c g (fun x => (x.readS 0 reg).byte b) _ fun _ => rfl
  | query o =>
    rcases who with _ | ⟨rc, g, fr⟩
    · rfl
    · simp only [h.queryValue]
  | nothing => rfl

theorem Alike.physRead (who : Reader) (pa : Nat) : Machine.physRead t who pa = Machine.physRead s who pa := by
  simp only [Machine.physRead, h.mereRead, h.mem, h.poison]
theorem Alike.physNat (who : Reader) (pa n : Nat) : Machine.physNat t who pa n = Machine.physNat s who pa n := by
  simp only [Machine.physNat, h.physRead]
theorem Alike.physPoison (who : Reader) (pa n : Nat) : Machine.physPoison t who pa n = Machine.physPoison s who pa n := by
  simp only [Machine.physPoison, h.physRead]

theorem Alike.findPage (asid va : Nat) : Machine.findPage t asid va = Machine.findPage s asid va := by
  simp only [Machine.findPage, h.hub]
theorem Alike.right (ctx : Nat) (f : Ctx → Bool) : t.right ctx f = s.right ctx f := by simp only [State.right, h.hub]
theorem Alike.translate (ctx asid : Nat) (need : Need) (va : Nat) :
    Machine.translate t ctx asid need va = Machine.translate s ctx asid need va := by
  simp only [Machine.translate, h.findPage, h.right]
theorem Alike.physOf (ctx asid va : Nat) (need : Need) :
    Machine.physOf t ctx asid va need = Machine.physOf s ctx asid va need := by
  simp only [Machine.physOf, h.translate]
theorem Alike.blockFixed (pa : Nat) : Machine.blockFixed t pa = Machine.blockFixed s pa := by
  simp only [Machine.blockFixed, Machine.stampFixed, h.hub, h.findPage]
theorem Alike.tcbPhys (x : Task) : Machine.tcbPhys t x = Machine.tcbPhys s x := by simp only [Machine.tcbPhys, h.findPage]

/-- What is read of a task, its account apart. -/
theorem Alike.ofTask {α : Type} (n : Nat) (F : Task → α) (hF : ∀ x : Task, F x = F x.still) :
    (Table.get? t.tasks n).map F = (Table.get? s.tasks n).map F := by
  have hmap : ∀ u : State, (Table.get? u.tasks n).map F = ((Table.get? u.tasks n).map Task.still).map F := fun u => by
    rw [Option.map_map]; congr 1; funext x; exact hF x
  rw [hmap, h.task, ← hmap]

theorem Alike.anyTask (F : Task → Bool) (hF : ∀ x : Task, F x = F x.still) :
    t.tasks.any (fun e => F e.2) = s.tasks.any (fun e => F e.2) := by
  have hany : ∀ u : State, u.tasks.any (fun e => F e.2) = (u.tasks.map (fun e => (e.1, e.2.still))).any (fun e => F e.2) :=
    fun u => by rw [List.any_map]; congr 1; funext e; exact hF e.2
  rw [hany, h.tasks, ← hany]

theorem Alike.tcbForbids (own pa : Nat) : Machine.tcbForbids t own pa = Machine.tcbForbids s own pa := by
  have hmine : (Table.get? t.tasks own).bind (Machine.tcbPhys s) = (Table.get? s.tasks own).bind (Machine.tcbPhys s) := by
    have ht := h.ofTask own (Machine.tcbPhys s) (fun _ => rfl)
    rcases hs : Table.get? s.tasks own with _ | x <;> rcases ht' : Table.get? t.tasks own with _ | y <;> simp_all
  have hroot := h.anyTask (fun x => x.isRoot && (match Machine.tcbPhys s x with
      | some b => decide (b ≤ pa) && decide (pa < b + 256)
      | none => false)) (fun _ => rfl)
  have htcb : Machine.tcbPhys t = Machine.tcbPhys s := funext h.tcbPhys
  unfold Machine.tcbForbids
  rw [htcb, hmine]
  dsimp only
  congr 3

theorem Alike.tcbForbidsAt (asid own va : Nat) : Machine.tcbForbidsAt t asid own va = Machine.tcbForbidsAt s asid own va := by
  have hroot := h.anyTask (fun x => x.isRoot && decide (x.asid = asid) && decide (x.va + 0 ≤ va) && decide (va < x.va + 256))
    (fun _ => rfl)
  have hown := h.ofTask own (fun x => x.isRoot && decide (x.asid = asid) && decide (x.va + 128 ≤ va) && decide (va < x.va + 256))
    (fun _ => rfl)
  unfold Machine.tcbForbidsAt
  simp only [hroot]
  congr 2
  rcases hs : Table.get? s.tasks own with _ | x <;> rcases ht' : Table.get? t.tasks own with _ | y <;> simp_all

theorem Alike.poolHides (ctx pa : Nat) : Machine.poolHides t ctx pa = Machine.poolHides s ctx pa := by
  have hown := h.ofTask (Config.poolBase + (pa - Config.reservedBase) / 256 * 256) Task.ctx (fun _ => rfl)
  unfold Machine.poolHides
  split
  · rcases hs : Table.get? s.tasks (Config.poolBase + (pa - Config.reservedBase) / 256 * 256) with _ | x <;>
      rcases ht' : Table.get? t.tasks (Config.poolBase + (pa - Config.reservedBase) / 256 * 256) with _ | y <;> simp_all
  · rfl

theorem Alike.taskRead (ctx : Nat) (who : Reader) (pa : Nat) : Machine.taskRead t ctx who pa = Machine.taskRead s ctx who pa := by
  simp only [Machine.taskRead, h.poolHides, h.physRead]

theorem Alike.rangeBad (ctx asid own : Nat) (need : Need) (va len : Nat) :
    Machine.rangeBad t ctx asid own need va len = Machine.rangeBad s ctx asid own need va len := by
  simp only [Machine.rangeBad, h.translate, h.right, h.tcbForbids, h.tcbForbidsAt]

theorem Alike.rangeAbsent (ctx asid : Nat) (need : Need) (n va stop : Nat) :
    Machine.rangeAbsent t ctx asid need n va stop = Machine.rangeAbsent s ctx asid need n va stop := by
  induction n generalizing va with
  | zero => rfl
  | succ n ih => simp only [Machine.rangeAbsent, h.translate, ih]

theorem Alike.dwordAt (ctx asid va : Nat) : Machine.dwordAt t ctx asid va = Machine.dwordAt s ctx asid va := by
  simp only [Machine.dwordAt, h.physOf, h.physNat]
theorem Alike.ringOf (ctx asid block : Nat) : Machine.ringOf t ctx asid block = Machine.ringOf s ctx asid block := by
  simp only [Machine.ringOf, h.physOf, h.dwordAt]
theorem Alike.bytes64 (ctx asid : Nat) (who : Reader) (va : Nat) :
    Machine.bytes64 t ctx asid who va = Machine.bytes64 s ctx asid who va := by
  simp only [Machine.bytes64, h.physOf, h.taskRead]
theorem Alike.lowestPerPage (asid : Nat) (vas : List Nat) :
    Machine.lowestPerPage t asid vas = Machine.lowestPerPage s asid vas := by
  simp only [Machine.lowestPerPage, h.findPage]
theorem Alike.enqAbsent (w : Who) (block image : W64) :
    Machine.enqAbsent t w block image = Machine.enqAbsent s w block image := by
  simp only [Machine.enqAbsent, h.dwordAt, h.translate, h.lowestPerPage]
theorem Alike.enqTrap (w : Who) (block image : W64) : Machine.enqTrap t w block image = Machine.enqTrap s w block image := by
  simp only [Machine.enqTrap, h.dwordAt, h.rangeBad, h.rangeAbsent]
end

/-! Writes to two states that memory accesses find alike. -/

theorem Table.map_modify_comm {α β : Type} (t : Table α) (k : Nat) (f : α → α) (f' : β → β) (φ : α → β)
    (h : ∀ x, φ (f x) = f' (φ x)) :
    (Table.modify t k f).map (fun e => (e.1, φ e.2)) = Table.modify (t.map (fun e => (e.1, φ e.2)) : Table β) k f' := by
  unfold Table.modify
  rw [Table.get?_map t φ k]
  cases hx : Table.get? t k with
  | none => rfl
  | some x =>
    simp only [Option.map_some, ← h, Table.set, hx, Table.get?_map t φ k, Option.isSome_some, if_true]
    clear hx
    induction t with
    | nil => rfl
    | cons e t ih =>
      obtain ⟨j, y⟩ := e
      by_cases hj : k = j
      · simp [Table.replace, hj]
      · simpa [Table.replace, hj] using ih

theorem State.core_modGroup (s : State) (c g c' : Nat) (f : Group → Group) : (s.modGroup c g f).core c' =
    if c' = c then { s.core c with groups := Table.modify (s.core c).groups g f } else s.core c' := by
  unfold State.modGroup State.group? Table.modify
  cases hx : Table.get? (s.core c).groups g with
  | none => split <;> simp_all
  | some x => exact s.core_modCore c c' _

section
variable {s t : State} (h : Alike s t)
include h

theorem Alike.modCore {f : Core → Core} (hf : ∀ k : Core, (f k).still = f k.still) (c : Nat) :
    Alike (s.modCore c f) (t.modCore c f) := by
  refine ⟨h.mem, h.poison, h.fresh, h.hub, fun c' => ?_, h.tasks⟩
  rw [State.core_modCore, State.core_modCore]
  split
  · rw [hf, h.cores, ← hf]
  · exact h.cores c'

theorem Alike.modGroup {f : Group → Group} (hf : ∀ x : Group, (f x).still = f x.still) (c g : Nat) :
    Alike (s.modGroup c g f) (t.modGroup c g f) := by
  refine ⟨by simp [h.mem], by simp [h.poison], by simp [h.fresh], by simp [h.hub], fun c' => ?_, by simp [h.tasks]⟩
  rw [State.core_modGroup, State.core_modGroup]
  split
  · have hgroups : ∀ k : Core, ({ k with groups := Table.modify k.groups g f } : Core).still =
        { k.still with groups := Table.modify k.still.groups g f } := fun k => by
      have hmap := Table.map_modify_comm k.groups g f f Group.still hf
      simp only [Core.still, hmap]
    rw [hgroups, h.cores, ← hgroups]
  · exact h.cores c'

theorem Alike.modTask {f : Task → Task} (hf : ∀ x : Task, (f x).still = f x.still) (n : Nat) :
    Alike (s.modTask n f) (t.modTask n f) := by
  refine ⟨h.mem, h.poison, h.fresh, h.hub, h.cores, ?_⟩
  simp only [State.modTask, Table.map_modify_comm _ n f f Task.still hf, h.tasks]

theorem Alike.signal (c ctx ctx' n : Nat) : Alike (s.signal c ctx n) (t.signal c ctx' n) :=
  ((alike_signal s c ctx n).symm.trans h).trans (alike_signal t c ctx' n)

theorem Alike.countStale (c tid gid : Nat) : Alike (s.countStale c tid gid) (t.countStale c tid gid) := by
  have hfind : ∀ u : State, ((u.core c).groups.find? (fun e => decide (e.2.task = tid) && decide (e.2.gid = gid))).map Prod.fst =
      ((u.core c).still.groups.find? (fun e => decide (e.2.task = tid) && decide (e.2.gid = gid))).map Prod.fst := fun u => by
    simp only [Core.still, List.find?_map, Option.map_map]
    rfl
  have hslot := (hfind t).trans ((congrArg (fun k : Core =>
    (k.groups.find? (fun e => decide (e.2.task = tid) && decide (e.2.gid = gid))).map Prod.fst) (h.cores c)).trans (hfind s).symm)
  unfold State.countStale
  rcases hs : (s.core c).groups.find? (fun e => decide (e.2.task = tid) && decide (e.2.gid = gid)) with _ | e <;>
    rcases ht : (t.core c).groups.find? (fun e => decide (e.2.task = tid) && decide (e.2.gid = gid)) with _ | e' <;>
    simp only [hs, ht, Option.map_none, Option.map_some, reduceCtorEq, Option.some.injEq] at hslot ⊢
  · exact h.modTask (f := fun x => { x with saved := x.saved.map (fun y => if y.group.gid = gid then y.countStale else y) })
      (fun _ => rfl) tid
  · rw [hslot]
    exact (h.modGroup (f := fun x => { x with stale := bumpStop x.stale }) (fun _ => rfl) c e.1).signal ..

theorem Alike.dropOwner (pa : Nat) : Machine.dropOwner t pa = Machine.dropOwner s pa := by
  simp only [Machine.dropOwner, h.inReset, h.viewOwner, h.staleOwner]

theorem Alike.discards (pa : Nat) : Machine.discards t pa = Machine.discards s pa := by simp only [Machine.discards, h.inReset]
end

/-- Steps that keep two states alike do so one after the other. -/
theorem Alike.foldl {α : Type} {f : State → α → State} (hf : ∀ s t x, Alike s t → Alike (f s x) (f t x))
    (l : List α) {s t : State} (h : Alike s t) : Alike (l.foldl f s) (l.foldl f t) := by
  induction l generalizing s t with
  | nil => exact h
  | cons x xs ih => exact ih (hf s t x h)

theorem Alike.mereDrop {s t : State} (h : Alike s t) (pas : List Nat) :
    Alike (Machine.mereDrop s pas) (Machine.mereDrop t pas) := by
  have howner : Machine.dropOwner t = Machine.dropOwner s := funext h.dropOwner
  unfold Machine.mereDrop
  rw [howner]
  exact Alike.foldl (fun _ _ o hst => hst.countStale o.1 o.2.1 o.2.2) _ h

theorem Group.still_putS (x : Group) (fr n : Nat) (r : SReg) : (x.putS fr n r).still = x.still.putS fr n r := by
  unfold Group.putS; split
  · rfl
  · split <;> rfl
theorem Group.still_putV (x : Group) (fr n : Nat) (r : VReg) : (x.putV fr n r).still = x.still.putV fr n r := by
  unfold Group.putV; split <;> rfl

/-- What a byte of the Mere map does to a group does not depend on its splits. -/
theorem mereEdit_still_comm {k : Core} {c w : Nat} {m : MereAt} {b : Byte} {clears sets : Bool} {f : Group → Group}
    (h : mereEdit k c m b clears sets = some (w, f)) (x : Group) : (f x).still = f x.still := by
  cases m <;> simp only [mereEdit, Option.map_eq_some_iff, reduceCtorEq, Prod.mk.injEq] at h <;>
    obtain ⟨_, _, _, rfl⟩ := h
  case tile | acc => rfl
  case granule | frameV | groupV => exact Group.still_putV ..
  case frameS | groupS => exact Group.still_putS ..

section
variable {s t : State} (h : Alike s t)
include h

theorem Alike.chanAt (c : Nat) (m : MereAt) : m.chanAt t c = m.chanAt s c := by
  cases m <;> simp only [MereAt.chanAt, h.chanByte]

theorem Alike.setMem {m m' : List Host.Cell} {q q' : List Nat} (hm : m' = m) (hq : q' = q) :
    Alike { s with mem := m, poison := q } { t with mem := m', poison := q' } :=
  ⟨hm, hq, h.fresh, h.hub, h.cores, h.tasks⟩

/-- A byte written at a place of the Mere map. -/
theorem Alike.mereStore (c : Nat) (m : MereAt) (pa : Nat) (b : Byte) (clears sets : Bool) :
    Alike (Machine.mereStore s c m pa b clears sets) (Machine.mereStore t c m pa b clears sets) := by
  unfold Machine.mereStore
  rw [h.inReset, h.mereEdit, h.chanAt]
  split
  · exact h
  split
  · exact h.setMem (by rw [h.mem]) h.poison
  cases hedit : Machine.mereEdit (s.core c) c m b clears sets with
  | some wf => exact h.modGroup (mereEdit_still_comm hedit) c wf.1
  | none =>
    cases m.chanAt s c with
    | some tci =>
      exact h.modTask (f := fun x => x.putSlot tci.2.1 tci.2.2 (fun v => v.putByte (m.offset % 128) b clears sets))
        (fun _ => rfl) tci.1
    | none =>
      cases m.loose c with
      | some key => exact h.modCore (f := fun k => k.looseWrite key b clears sets) (fun _ => rfl) c
      | none => exact h

theorem Alike.mereWrite (pa : Nat) (b : Byte) (clears sets : Bool) :
    Alike (Machine.mereWrite s pa b clears sets) (Machine.mereWrite t pa b clears sets) := h.mereStore ..

/-- A write. -/
theorem Alike.writeRaw (cells : List (Nat × Byte)) : Alike (Machine.writeRaw s cells) (Machine.writeRaw t cells) := by
  have hdiscards : Machine.discards t = Machine.discards s := funext h.discards
  have hstep : ∀ (u u' : State) (e : Nat × Byte), Alike u u' → Alike
      (Machine.mereWrite u e.1 e.2 (covers cells e.1 (mereGrain e.1)) false)
      (Machine.mereWrite u' e.1 e.2 (covers cells e.1 (mereGrain e.1)) false) := fun _ _ _ hu => hu.mereWrite ..
  unfold Machine.writeRaw
  rw [hdiscards]
  refine Alike.foldl hstep _ (Alike.mereDrop (h.setMem ?_ ?_) _)
  · rw [h.mem]
  · rw [h.poison]

theorem Alike.writeCells (cells : List (Nat × Byte)) : Alike (Machine.writeCells s cells) (Machine.writeCells t cells) := by
  have hdiscards : Machine.discards t = Machine.discards s := funext h.discards
  have hopen : openCells t cells = openCells s cells := by simp only [openCells, h.blockFixed]
  unfold Machine.writeCells
  rw [hopen, hdiscards]
  refine (h.setMem h.mem ?_).writeRaw _
  rw [h.poison]

/-- The stores of a core performed (R242). -/
theorem Alike.drainStores (c : Nat) : Alike (s.drainStores c) (t.drainStores c) := by
  unfold State.drainStores
  simp only [h.stores, h.markers]
  split
  · exact h
  · exact (Alike.foldl (fun _ _ o hst => hst.writeCells o.cells) _ h).modCore
      (f := fun x => { x with stores := [], markers := [] }) (fun _ => rfl) c
end

end Sys2Proof.Machine
end

section
/-! PROOFS. ENQ: its checks, a turn at its tail word, and its deadline (O34). -/

namespace Sys2Proof.Machine

/-! Splits of a lane. -/

section
variable (g : Group) (lane : Nat) (f : Split → Split)

theorem Group.splits_onLane (i : Nat) : (g.onLane lane f).splits[i]? =
    g.splits[i]?.map (fun sp => if lowLane sp.mask = lane then f sp else sp) := by
  simp [Group.onLane]

theorem Group.entries_onLane :
    (g.onLane lane f).entries = g.entries.map (fun sp => if lowLane sp.mask = lane then f sp else sp) := by
  simp [Group.onLane, Group.entries]

/-- A change of a lane's splits changes the split that the lane names. -/
theorem Group.atLane_onLane (hf : ∀ sp, (f sp).mask = sp.mask) : (g.onLane lane f).atLane lane = (g.atLane lane).map f := by
  unfold Group.atLane
  rw [Group.entries_onLane]
  induction g.entries with
  | nil => rfl
  | cons x xs ih =>
    by_cases hx : lowLane x.mask = lane
    · simp [hx, hf]
    · simpa [hx] using ih

theorem Group.sameReg_onLane (fr : Nat) (r : RegRef) : SameReg g (g.onLane lane f) fr r :=
  SameReg.of_fields rfl rfl rfl rfl rfl rfl fr r
end

/-- The split that a lane names has that lowest lane, and is one of the group's. -/
theorem Group.atLane_some {g : Group} {lane : Nat} {sp : Split} (h : g.atLane lane = some sp) :
    sp ∈ g.entries ∧ lowLane sp.mask = lane :=
  ⟨List.mem_of_find?_eq_some h, by simpa using List.find?_some h⟩

/-! The Tarn's list. -/

/-- The state with another list of waits in the Tarn. -/
def State.withTarn (s : State) (l : List TarnEntry) : State := { s with tarn := l }

section
variable (s : State) (l : List TarnEntry)
@[simp] theorem State.withTarn_tick : (s.withTarn l).tick = s.tick := rfl
@[simp] theorem State.withTarn_hold : (s.withTarn l).hold = s.hold := rfl
@[simp] theorem State.withTarn_tasks : (s.withTarn l).tasks = s.tasks := rfl
@[simp] theorem State.withTarn_mem : (s.withTarn l).mem = s.mem := rfl
@[simp] theorem State.withTarn_poison : (s.withTarn l).poison = s.poison := rfl
@[simp] theorem State.withTarn_full : (s.withTarn l).full = s.full := rfl
@[simp] theorem State.withTarn_tarn : (s.withTarn l).tarn = l := rfl
theorem State.withTarn_self (h : s.tarn = l) : s.withTarn l = s := by subst h; rfl
@[simp] theorem State.withTarn_core (c : Nat) : (s.withTarn l).core c = s.core c := rfl
@[simp] theorem State.withTarn_group? (c g : Nat) : (s.withTarn l).group? c g = s.group? c g := rfl
end

/-! An answer to a parked split. -/

section
variable (s : State) (c slot : Nat)

theorem State.storeFrameArea_cases : s.storeFrameArea c slot = s ∨
    ∃ g pa bs, s.group? c slot = some g ∧ g.out = true ∧ s.storeFrameArea c slot = s.putBytes pa bs := by
  unfold State.storeFrameArea
  split
  · next g x hg hx =>
    split
    · next ho => exact .inr ⟨g, _, _, hg, ho, rfl⟩
    · exact .inl rfl
  · exact .inl rfl

/-- The image of frames that are out is all that storing it writes. -/
theorem State.storeFrameArea_in {g : Group} (hg : s.group? c slot = some g) (ho : g.out = false) :
    s.storeFrameArea c slot = s := by
  rcases s.storeFrameArea_cases c slot with h | ⟨g', _, _, hg', ho', _⟩
  · exact h
  · rw [hg] at hg'; cases hg'; simp [ho] at ho'

@[simp] theorem State.storeFrameArea_tick : (s.storeFrameArea c slot).tick = s.tick := by
  rcases s.storeFrameArea_cases c slot with h | ⟨_, _, _, _, _, h⟩ <;> rw [h]; rfl
@[simp] theorem State.storeFrameArea_tasks : (s.storeFrameArea c slot).tasks = s.tasks := by
  rcases s.storeFrameArea_cases c slot with h | ⟨_, _, _, _, _, h⟩ <;> rw [h]; rfl
@[simp] theorem State.storeFrameArea_tarn : (s.storeFrameArea c slot).tarn = s.tarn := by
  rcases s.storeFrameArea_cases c slot with h | ⟨_, _, _, _, _, h⟩ <;> rw [h]; rfl
@[simp] theorem State.storeFrameArea_group? (c' g : Nat) : (s.storeFrameArea c slot).group? c' g = s.group? c' g := by
  rcases s.storeFrameArea_cases c slot with h | ⟨_, _, _, _, _, h⟩ <;> rw [h]; rfl
end

/-- A scalar written leaves the group's splits, its handler mode, and whether its frames are out. -/
theorem Group.entries_writeS (g : Group) (fr d : Nat) (x : W64) : (g.writeS fr d x).entries = g.entries := by
  have hbare := congrArg Group.entries (g.bare_putS fr d ⟨x, false⟩)
  exact hbare
theorem Group.handler_writeS (g : Group) (fr d : Nat) (x : W64) : (g.writeS fr d x).handler = g.handler := by
  have hbare := congrArg Group.handler (g.bare_putS fr d ⟨x, false⟩)
  exact hbare
theorem Group.out_writeS (g : Group) (fr d : Nat) (x : W64) : (g.writeS fr d x).out = g.out := by
  have hbare := congrArg Group.out (g.bare_putS fr d ⟨x, false⟩)
  exact hbare

/-- A group with the answer to its lane's split. -/
def Group.answer (g : Group) (sp : Split) (lane d : Nat) (x : W64) : Group := (g.writeS sp.frame d x).resume lane

section
variable {s : State} {c slot lane d : Nat} {x : W64} {g : Group} {sp : Split}

/-- A split that is answered: its group takes the result, and goes on with that split. -/
theorem answerSplit_group? (hg : s.group? c slot = some g) (hsp : g.atLane lane = some sp) (c' n : Nat) :
    (answerSplit s c slot lane d x).group? c' n =
      if c' = c ∧ n = slot then some (g.answer sp lane d x) else s.group? c' n := by
  simp only [answerSplit, State.storeFrameArea_group?, State.group?_modGroup, hg, Option.map_some, hsp, Group.answer]

theorem answerSplit_in (hg : s.group? c slot = some g) (hsp : g.atLane lane = some sp) (ho : g.out = false) :
    answerSplit s c slot lane d x = s.modGroup c slot (fun g => match g.atLane lane with
      | some sp => (g.writeS sp.frame d x).resume lane
      | none => g) := by
  unfold answerSplit
  refine State.storeFrameArea_in _ _ _ (g := g.answer sp lane d x) ?_ ?_
  · simp [State.group?_modGroup, hg, hsp, Group.answer]
  · exact (g.out_writeS sp.frame d x).trans ho

theorem Group.answer_sameReg {fr : Nat} {r : RegRef} (h : ¬(r = .s d ∧ (r.frameLocal = true → fr = sp.frame))) :
    SameReg g (g.answer sp lane d x) fr r := by
  have hw := (g.kept_writeS sp.frame d x).regs fr r (by simpa using h)
  have ho := (g.writeS sp.frame d x).sameReg_onLane lane (fun y => { y with
    state := (g.writeS sp.frame d x).wakeState y, wait := .none, pc := y.pc + 4 }) fr r
  cases r <;> simp_all [SameReg, Group.answer, Group.resume]
end

/-! The deadline of an ENQ. -/

/-- The state without a user's waits in the Tarn. -/
def State.leaveTarn (s : State) (u : TarnUser) : State := s.withTarn (s.tarn.filter (fun e => decide (e.user ≠ u)))

/-- A split as it goes on after its instruction. -/
def Split.resumed (g : Group) (sp : Split) : Split := { sp with state := g.wakeState sp, wait := .none, pc := sp.pc + 4 }

/-- An ENQ that has waited to its deadline withdraws. -/
theorem exec_enqDeadline {s : State} {c slot n d deadline : Nat} {block image : W64} {onTail : Bool} {g : Group} {sp : Split}
    (hg : s.group? c slot = some g) (hsp : g.entries[n]? = some sp) (hw : sp.wait = .enq d block image deadline onTail)
    (hd : deadline ≤ s.cyc c) (hs : s.savingAt c slot = false) :
    exec (.enqDeadline c slot n) s = .next (answerSplit (s.leaveTarn (.split c slot (lowLane sp.mask)))
      c slot (lowLane sp.mask) d statusFull) := by
  refine event_some ?_
  simp [enqExpire, hg, hsp, hw, hd, hs, State.leaveTarn, State.withTarn]

theorem enqDeadline_full (s : State) (c slot n d deadline : Nat) (block image : W64) (onTail : Bool) (g : Group) (sp : Split)
    (hg : s.group? c slot = some g) (hsp : g.entries[n]? = some sp) (hw : sp.wait = .enq d block image deadline onTail)
    (hd : deadline ≤ s.cyc c) (hat : g.atLane (lowLane sp.mask) = some sp) (hs : s.savingAt c slot = false) :
    ∃ t g', exec (.enqDeadline c slot n) s = .next t ∧ t.tick = s.tick ∧ (g.out = false → SameMemory s t) ∧
      t.tasks = s.tasks ∧
      t.group? c slot = some g' ∧ (∀ fr r, ¬(r = .s d ∧ (r.frameLocal = true → fr = sp.frame)) → SameReg g g' fr r) ∧
      g'.readS sp.frame d = (if d = 0 then SReg.zero else ⟨2, false⟩) ∧
      (∀ e ∈ t.tarn, e.user ≠ .split c slot (lowLane sp.mask)) ∧
      ∃ sp' ∈ g'.entries, sp'.pc = sp.pc + 4 ∧ sp'.mask = sp.mask ∧ sp'.wait = .none := by
  set w : TarnUser := .split c slot (lowLane sp.mask)
  have hg' : (s.leaveTarn w).group? c slot = some g := hg
  refine ⟨_, g.answer sp (lowLane sp.mask) d statusFull, exec_enqDeadline hg hsp hw hd hs, ?_, fun ho => ?_, ?_, ?_,
    fun fr r h => Group.answer_sameReg h, ?_, ?_, (sp.resumed (g.writeS sp.frame d statusFull)), ?_, rfl, rfl, rfl⟩
  · simp [answerSplit, State.leaveTarn]
  · rw [answerSplit_in hg' hat ho]
    exact ⟨fun _ => by simp [State.leaveTarn], by simp [State.leaveTarn], by simp [State.leaveTarn]⟩
  · simp [answerSplit, State.leaveTarn]
  · rw [answerSplit_group? hg' hat]; simp
  · exact g.readS_writeS sp.frame d statusFull
  · intro e he
    simp only [answerSplit, State.storeFrameArea_tarn, State.modGroup_tarn] at he
    simpa using (List.mem_filter.1 he).2
  · rw [Group.answer, Group.resume, Group.entries_onLane]
    exact List.mem_map.2 ⟨sp, by rw [Group.entries_writeS]; exact (Group.atLane_some hat).1, if_pos rfl⟩

/-! An ENQ that comes to its queue. -/

/-- A core's clock stands with the device's and the core's base. -/
theorem State.cyc_of_quiet {s t : State} {c : Nat} (ht : t.tick = s.tick) (hq : (t.core c).quiet = (s.core c).quiet) :
    t.cyc c = s.cyc c := by
  have hbase : ∀ k : Core, k.quiet.base = k.base := fun _ => rfl
  simp only [State.cyc, ht, ← hbase (t.core c), hq, hbase]

/-- A split that has issued an instruction of a cost, parked. -/
def View.parks (v : View) (s : State) (cost : Nat) (w : Wait) : State :=
  (chargeIssue v cost s).onGroup v.sel (fun g => g.parkLane (lowLane v.m) w)

/-- The same, the places that it reaches counted. -/
def View.waiting (v : View) (s : State) (cost : Nat) (w : Wait) (pas : List Nat) : State :=
  (v.parks s cost w).crossed v.sel.core v.task.ctx pas

section
variable (v : View) (s : State) (cost : Nat) (w : Wait) (pas : List Nat)

@[simp] theorem View.waiting_tick : (v.waiting s cost w pas).tick = s.tick := by simp [View.waiting, View.parks, State.crossed]
@[simp] theorem View.waiting_hold : (v.waiting s cost w pas).hold = s.hold := by simp [View.waiting, View.parks, State.crossed]
@[simp] theorem View.waiting_tarn : (v.waiting s cost w pas).tarn = s.tarn := by simp [View.waiting, View.parks, State.crossed]
@[simp] theorem View.waiting_mem : (v.waiting s cost w pas).mem = s.mem := by simp [View.waiting, View.parks, State.crossed]
@[simp] theorem View.waiting_poison : (v.waiting s cost w pas).poison = s.poison := by
  simp [View.waiting, View.parks, State.crossed]
@[simp] theorem View.waiting_full : (v.waiting s cost w pas).full = s.full := by simp [View.waiting, View.parks, State.crossed]

theorem View.waiting_debited : Debited v s (v.waiting s cost w pas) cost := by
  simp [Debited, View.waiting, View.parks, State.crossed, chargeIssue_tasks]

@[simp] theorem View.waiting_quiet (c : Nat) : ((v.waiting s cost w pas).core c).quiet = (s.core c).quiet := by
  simp [View.waiting, View.parks, State.crossed]

theorem View.parks_alike : Alike s (v.parks s cost w) := (alike_chargeIssue v cost s).trans (alike_park ..)
theorem View.waiting_alike : Alike s (v.waiting s cost w pas) := (v.parks_alike s cost w).trans (alike_raise ..)

/-- The group of a split that has issued and waits. -/
def View.parked (v : View) (s : State) (w : Wait) : Group := (v.book s v.group).parkLane (lowLane v.m) w

variable {v s}

theorem View.waiting_group? (hv : Selected v s) (c n : Nat) : (v.waiting s cost w pas).group? c n =
    if c = v.sel.core ∧ n = v.sel.slot then some (v.parked s w) else s.group? c n := by
  obtain ⟨_, hg, _⟩ := State.view?_some hv
  simp only [View.waiting, View.parks, State.crossed, State.group?_raise, State.onGroup, State.group?_modGroup,
    group?_chargeIssue, hg]
  split <;> simp [View.parked]

theorem View.waiting_cyc (c : Nat) : (v.waiting s cost w pas).cyc c = s.cyc c :=
  State.cyc_of_quiet (v.waiting_tick s cost w pas) (v.waiting_quiet s cost w pas c)
end

/-- A change of a lane's splits after the bookkeeping of an issue, as the issuing split shows it. -/
theorem View.onLane_split {v : View} {s : State} (hv : Selected v s) (w : Wait) (f : Split → Split) (g : Group)
    (hg : g.splits = (v.parked s w).splits) : (g.onLane (lowLane v.m) f).splits[v.sel.idx]? =
      some (f { v.split with state := .parked, wait := w, lastIssue := s.tick + 1, entry := none, paid := none }) := by
  obtain ⟨_, _, hsp, _⟩ := State.view?_some hv
  rw [Group.splits_onLane, hg, View.parked, Group.parkLane, Group.splits_onLane]
  simp [View.book, getElem?_changeAt, hsp, View.m]

theorem View.parked_sameReg (v : View) (s : State) (w : Wait) (fr : Nat) (r : RegRef) : SameReg v.group (v.parked s w) fr r :=
  SameReg.of_fields rfl rfl rfl rfl rfl rfl fr r

/-- An ENQ that finds no store of its core outstanding comes to the tail word of its ring. -/
theorem enqBegin_eq {s : State} {c d deadline : Nat} {w : Who} {block image : W64} {r : RingView} (hd : s.drainStores c = s)
    (hr : ringOf s w.ctx w.asid block.toNat = some r) : enqBegin s c w d block image deadline =
      let s0 := s.crossed c w.ctx (r.tail :: (physOf s w.ctx w.asid block.toNat Need.load).toList)
      if isFull s0 r.tail then
        walk (enqTurn s0 c w.slot w.lane d block image deadline).2 (enqTurn s0 c w.slot w.lane d block image deadline).1
      else enqPark s0 c w.slot w.lane d block image deadline true r.tail := by
  simp only [enqBegin, hd, hr]

/-- The wait of an ENQ that has come to its tail word (R227, R273). -/
def View.tailWait (v : View) (s : State) (d a b : Nat) : Wait :=
  .enq d (v.rs a) (v.rs b) (s.cyc v.sel.core + Config.enqDeadline) true

/-- Nothing stands in the way of an ENQ: no store of the core is outstanding, its queue is allowed and resident, with the ring
`r` (R273). -/
structure Enqueues (d a b : Nat) (v : View) (s : State) (r : RingView) : Prop where
  ready    : Ready (.enq d a b) v s
  settled  : Settled v
  allowed  : enqTrap s v.who (v.rs a) (v.rs b) = none
  resident : enqAbsent s v.who (v.rs a) (v.rs b) = []
  ring     : ringOf s v.task.ctx v.task.asid (v.ui a) = some r

/-- Such an ENQ comes to its tail word. -/
theorem exec_enq_comes {d a b : Nat} {v : View} {s : State} {r : RingView} (hopen : Enqueues d a b v s r) :
    ∃ pas, exec (.enq d a b) s = .next (
      if isFull s r.tail then
        let t := enqTurn (v.waiting s 2 (v.tailWait s d a b) pas) v.sel.core v.sel.slot (lowLane v.m) d (v.rs a) (v.rs b)
          (s.cyc v.sel.core + Config.enqDeadline)
        walk t.2 t.1
      else enqPark (v.waiting s 2 (v.tailWait s d a b) pas) v.sel.core v.sel.slot (lowLane v.m) d (v.rs a) (v.rs b)
        (s.cyc v.sel.core + Config.enqDeadline) true r.tail).endCycle := by
  obtain ⟨h, hq, ht, ha, hr⟩ := hopen
  obtain ⟨_, _, _, _, hc, _⟩ := State.view?_some h.1
  have hc0 := (alike_chargeIssue v 2 s)
  have hdrain : ∀ u, Alike s u → u.drainStores v.sel.core = u := fun u hu => by
    simp [State.drainStores, hu.stores, hu.markers, ← hc, hq.1, hq.2]
  have hcyc : (chargeIssue v 2 s).cyc v.sel.core = s.cyc v.sel.core :=
    State.cyc_of_quiet (chargeIssue_tick v 2 s) (quiet_chargeIssue v 2 s v.sel.core)
  have hp := v.parks_alike s 2 (v.tailWait s d a b)
  refine ⟨r.tail :: (physOf s v.task.ctx v.task.asid (v.ui a) Need.load).toList, ?_⟩
  show issueWith (.enq d a b) (issueFrom (.enq d a b) (enqBody d a b)) s = _
  rw [issueWith_ready h, issueFrom_ready h]
  congr 2
  simp only [costOf, enqBody, hdrain _ hc0, hc0.enqTrap, hc0.enqAbsent, ht, ha, hcyc, View.waiting]
  have hfull : (v.parks s 2 (v.tailWait s d a b)).full = s.full := by simp [View.parks]
  change enqBegin (v.parks s 2 (v.tailWait s d a b)) v.sel.core v.who d (v.rs a) (v.rs b)
    (s.cyc v.sel.core + Config.enqDeadline) = _
  generalize v.parks s 2 (v.tailWait s d a b) = p at hp hfull ⊢
  have hring : ringOf p v.who.ctx v.who.asid (v.rs a).toNat = some r := (hp.ringOf v.task.ctx v.task.asid (v.ui a)).trans hr
  have hplace : physOf p v.who.ctx v.who.asid (v.rs a).toNat Need.load = physOf s v.task.ctx v.task.asid (v.ui a) Need.load :=
    hp.physOf v.task.ctx v.task.asid (v.ui a) Need.load
  rw [enqBegin_eq (w := v.who) (block := v.rs a) (hdrain p hp) hring, hplace]
  have hsame : ∀ pas, isFull (p.crossed v.sel.core v.task.ctx pas) r.tail = isFull s r.tail := fun pas => by
    simp only [isFull, State.crossed, State.raise_full, hfull]
  dsimp only [View.who]
  rw [hsame]

/-! A wait in the Tarn, or for a new turn. -/

theorem tarnRoom_congr {s t : State} (h : t.tarn = s.tarn) (pa : Nat) : tarnRoom t pa = tarnRoom s pa := by
  simp only [tarnRoom, h]

/-- An issued ENQ has debited its cost and parked its split with a wait; memory and all other groups are as before. -/
structure EnqWaits (v : View) (s t : State) (w : Wait) : Prop where
  tick    : t.tick = s.tick + 1
  debited : Debited v s t 2
  others  : OtherGroups v s t
  memory  : SameMemory s t
  group   : ∃ g sp, t.group? v.sel.core v.sel.slot = some g ∧ (∀ fr q, SameReg v.group g fr q) ∧
    g.splits[v.sel.idx]? = some sp ∧ sp.state = .parked ∧ sp.pc = v.split.pc ∧ sp.wait = w

section
variable {v : View} {s : State} (w w' : Wait) (pas : List Nat) (l : List TarnEntry) (ctx n : Nat)

/-- An ENQ that has come to its queue, parked again. -/
def View.parksAgain (v : View) (s : State) (w w' : Wait) (pas : List Nat) (l : List TarnEntry) (ctx n : Nat) : State :=
  (((v.waiting s 2 w pas).modGroup v.sel.core v.sel.slot (fun g => g.parkLane (lowLane v.m) w')).withTarn l).signal
    v.sel.core ctx n

/-- It parks on a word in the Tarn, or, with the Tarn full, to be presented again. -/
theorem View.enqPark_waiting (d : Nat) (block image : W64) (deadline : Nat) (onTail : Bool) (pa : Nat) :
    ∃ w' l ctx n, enqPark (v.waiting s 2 w pas) v.sel.core v.sel.slot (lowLane v.m) d block image deadline onTail pa =
        v.parksAgain s w w' pas l ctx n ∧
      (tarnRoom s pa = true →
        l = s.tarn ++ [⟨pa, .split v.sel.core v.sel.slot (lowLane v.m)⟩] ∧ w' = .enq d block image deadline onTail) ∧
      (tarnRoom s pa = false → l = s.tarn ∧ ∃ acc, w' = .busy acc (s.cyc v.sel.core + 512)) := by
  have hcongr : tarnRoom (v.waiting s 2 w pas) pa = tarnRoom s pa := tarnRoom_congr (View.waiting_tarn ..) pa
  cases hr : tarnRoom s pa with
  | true =>
    refine ⟨_, _, (v.waiting s 2 w pas).ctxOf v.sel.core v.sel.slot, 28, ?_, fun _ => ⟨rfl, rfl⟩, by simp⟩
    rw [enqPark, if_pos (hcongr.trans hr)]
    simp only [State.modGroup_tarn, View.waiting_tarn, View.parksAgain, State.withTarn]
  | false =>
    refine ⟨.busy (enqAccess (v.waiting s 2 w pas) v.sel.core v.sel.slot (lowLane v.m) d block image deadline)
      (s.cyc v.sel.core + Config.tarnRetry), s.tarn, (v.waiting s 2 w pas).ctxOf v.sel.core v.sel.slot, 29, ?_, by simp,
      fun _ => ⟨rfl, _, rfl⟩⟩
    rw [enqPark, if_neg (by simp [hcongr, hr]), View.waiting_cyc, View.parksAgain, State.withTarn_self]
    simp

theorem View.parksAgain_endCycle (hv : Selected v s) :
    (v.parksAgain s w w' pas l ctx n).endCycle = (v.parksAgain s w w' pas l ctx n).advance :=
  State.endCycle_alone _ (by simp [View.parksAgain, hv.2.1])

@[simp] theorem View.parksAgain_tarn : (v.parksAgain s w w' pas l ctx n).tarn = l := by simp [View.parksAgain]

theorem View.parksAgain_waits (hv : Selected v s) : EnqWaits v s (v.parksAgain s w w' pas l ctx n).advance w' := by
  have hgroup : ∀ c k, (v.parksAgain s w w' pas l ctx n).advance.group? c k = if c = v.sel.core ∧ k = v.sel.slot then
      some ((v.parked s w).parkLane (lowLane v.m) w') else s.group? c k := fun c k => by
    simp only [View.parksAgain, State.group?_advance, State.group?_signal, State.withTarn_group?, State.group?_modGroup,
      View.waiting_group? _ _ _ hv]
    split <;> simp
  refine ⟨by simp [View.parksAgain], ?_, fun c k hk => by rw [hgroup, if_neg hk],
    ⟨fun _ => by simp [View.parksAgain], by simp [View.parksAgain], by simp [View.parksAgain]⟩,
    (v.parked s w).parkLane (lowLane v.m) w', _, by rw [hgroup]; simp, fun fr q => ?_,
    View.onLane_split hv w _ _ rfl, rfl, rfl, rfl⟩
  · simpa [Debited, View.parksAgain] using v.waiting_debited s 2 w pas
  · apply SameReg.of_fields <;> rfl
end

/-! The tail word is empty. -/

theorem enq_tailEmpty {d a b : Nat} {r : RingView} {v : View} {s : State} (hopen : Enqueues d a b v s r)
    (he : isFull s r.tail = false) :
    ∃ t w, exec (.enq d a b) s = .next t ∧ EnqWaits v s t w ∧
      (tarnRoom s r.tail = true → t.tarn = s.tarn ++ [⟨r.tail, .split v.sel.core v.sel.slot (lowLane v.m)⟩]) ∧
      (tarnRoom s r.tail = false → t.tarn = s.tarn ∧ ∃ acc, w = .busy acc (s.cyc v.sel.core + 512)) := by
  obtain ⟨pas, hexec⟩ := exec_enq_comes hopen
  have h := hopen.ready
  rw [he, if_neg (by simp)] at hexec
  obtain ⟨w, l, ctx, n, hpark, hroom, hfull⟩ := View.enqPark_waiting (v := v) (s := s) (v.tailWait s d a b) pas
    d (v.rs a) (v.rs b) (s.cyc v.sel.core + Config.enqDeadline) true r.tail
  rw [hpark, View.parksAgain_endCycle _ _ _ _ _ _ h.1] at hexec
  refine ⟨_, w, hexec, View.parksAgain_waits _ _ _ _ _ _ h.1, fun hh => ?_, fun hh => ?_⟩ <;>
    rw [State.advance_tarn, View.parksAgain_tarn]
  · exact (hroom hh).1
  · exact hfull hh

/-! Words of plain memory. -/

theorem leNat_concat (l : List Byte) (b : Byte) : leNat (l ++ [b]) = leNat l + b.toNat * 256 ^ l.length := by
  induction l with
  | nil => simp [leNat]
  | cons x xs ih => simp only [List.cons_append, leNat, ih, List.length_cons]; ring

/-- A number read from plain memory. -/
theorem physNat_plain {s : State} {pa n : Nat} (h : pa + n ≤ Config.mereBase) (who : Reader) :
    physNat s who pa n = wordAt s.mem pa n := by
  induction n with
  | zero => rfl
  | succ n ih =>
    have hplain : isMere (pa + n) = false := by simp only [isMere, decide_eq_false_iff_not]; omega
    have hstep : physNat s who pa (n + 1) = physNat s who pa n + (physRead s who (pa + n)).1.toNat * 256 ^ n := by
      simp [physNat, upto, List.range_succ, leNat_concat]
    rw [hstep, ih (by omega), physRead, hplain, wordAt]
    rfl

/-- The poison of a range of plain memory. -/
theorem physPoison_plain {s : State} {pa n : Nat} (h : pa + n ≤ Config.mereBase) (who : Reader) :
    physPoison s who pa n = false ↔ Clean s pa n := by
  have hread : ∀ k, k < n → (physRead s who (pa + k)).2 = s.poison.contains ((pa + k) / 64) := fun k hk => by
    have hplain : isMere (pa + k) = false := by simp only [isMere, decide_eq_false_iff_not]; omega
    simp [physRead, hplain]
  simp only [physPoison, upto, List.any_eq_false, List.mem_range, Clean, Bool.not_eq_true]
  exact forall₂_congr fun k hk => by rw [hread k hk]

/-- A word whose bytes are those of a number is that number, as far as it holds it. -/
theorem wordAt_of_bytes {m : List Host.Cell} {pa x n : Nat}
    (h : ∀ k, k < n → Memory.get m (pa + k) = BitVec.ofNat 8 (x / 256 ^ k)) :
    wordAt m pa n = x % 256 ^ n := by
  induction n with
  | zero => simp [wordAt, Nat.mod_one]
  | succ n ih =>
    rw [wordAt, ih fun k hk => h k (by omega), h n (by omega), Nat.mod_pow_succ]
    simp [Nat.mul_comm]

theorem getElem?_leBytes (n x k : Nat) (h : k < n) : (leBytes n x)[k]? = some (BitVec.ofNat 8 (x / 256 ^ k)) := by
  induction n generalizing x k with
  | zero => omega
  | succ n ih =>
    cases k with
    | zero => simp [leBytes]
    | succ k => simp [leBytes, ih (x / 256) k (by omega), Nat.div_div_eq_div_mul, Nat.pow_succ, Nat.mul_comm]

/-! A turn of an ENQ at its tail word. -/

/-- Where a split stands: its mask, its frame and its pennants. -/
def Split.standing (sp : Split) : W32 × Nat × Nat := (sp.mask, sp.frame, sp.ptop)

theorem Group.atLane_standing (g : Group) (lane : Nat) : (g.atLane lane).map Split.standing =
    (g.splits.map Split.standing ++ g.spilled.map Split.standing).find? (fun x => decide (lowLane x.1 = lane)) := by
  rw [← List.map_append, List.find?_map]
  rfl

theorem map_changeAt_of {α β : Type} {f : α → α} {φ : α → β} (h : ∀ x, φ (f x) = φ x) (l : List α) (i : Nat) :
    (changeAt l i f).map φ = l.map φ := by
  refine List.ext_getElem? fun j => ?_
  simp only [List.getElem?_map, getElem?_changeAt]
  split
  · rw [Option.map_map]; congr 1; exact funext h
  · rfl

theorem Group.atLane_parkLane (g : Group) (lane : Nat) (w : Wait) :
    (g.parkLane lane w).atLane lane = (g.atLane lane).map (fun sp => { sp with state := .parked, wait := w }) :=
  g.atLane_onLane lane _ fun _ => rfl

/-- The split that waits stands where the one that issued stood. -/
theorem View.parked_atLane {v : View} (hat : v.group.atLane (lowLane v.m) = some v.split) (s : State) (w : Wait) :
    ∃ sp, (v.parked s w).atLane (lowLane v.m) = some sp ∧ sp.standing = v.split.standing := by
  have hsplits : (v.book s v.group).splits.map Split.standing = v.group.splits.map Split.standing :=
    map_changeAt_of (f := fun sp : Split => { sp with lastIssue := s.tick + 1, entry := none, paid := none }) (fun _ => rfl) _ _
  have hspilled : (v.book s v.group).spilled = v.group.spilled := rfl
  have hbook : ((v.book s v.group).atLane (lowLane v.m)).map Split.standing = some v.split.standing := by
    rw [Group.atLane_standing, hsplits, hspilled, ← Group.atLane_standing, hat, Option.map_some]
  obtain ⟨sp, hsp, hst⟩ := Option.map_eq_some_iff.1 hbook
  exact ⟨{ sp with state := .parked, wait := w }, by rw [View.parked, Group.atLane_parkLane, hsp]; rfl, hst⟩

section
variable {v : View} {s : State} (w : Wait) (pas : List Nat)

/-- The split that waits is who it was at its issue. -/
theorem View.waiting_who (hv : Selected v s) (hat : v.group.atLane (lowLane v.m) = some v.split) :
    whoOfLane (v.waiting s 2 w pas) v.sel.core v.sel.slot (lowLane v.m) = some v.who := by
  obtain ⟨_, _, _, ht, hc, _⟩ := State.view?_some hv
  obtain ⟨sp, hsp, hst⟩ := View.parked_atLane hat s w
  obtain ⟨hmask, -, hptop⟩ : sp.mask = v.split.mask ∧ sp.frame = v.split.frame ∧ sp.ptop = v.split.ptop := by
    simpa [Split.standing] using hst
  have hgen : ((v.waiting s 2 w pas).core v.sel.core).ggenOf v.sel.slot = v.core.ggenOf v.sel.slot := by
    have hquiet : ∀ k : Core, k.quiet.ggenOf v.sel.slot = k.ggenOf v.sel.slot := fun _ => rfl
    rw [hc, ← hquiet, View.waiting_quiet, hquiet]
  have htask := (v.waiting_alike s 2 w pas).ofTask v.tid (fun x => (x.ctx, x.asid)) (fun _ => rfl)
  rw [ht, Option.map_some] at htask
  obtain ⟨x, hx, hxe⟩ := Option.map_eq_some_iff.1 htask
  obtain ⟨hctx, hasid⟩ : x.ctx = v.task.ctx ∧ x.asid = v.task.asid := by simpa using hxe
  have hx' : Table.get? (v.waiting s 2 w pas).tasks (v.parked s w).task = some x := hx
  simp only [whoOfLane, View.waiting_group? 2 w pas hv, and_self, if_true, hsp, hx', hgen, hctx, hasid, hmask, hptop]
  rfl
end

/-! Walks on which nobody waits. -/

theorem walkWords_none (n : Nat) (words : List Nat) (s : State) (h : ∀ e ∈ s.tarn, e.pa ∉ words) :
    walkWords n words s = s := by
  induction n generalizing words with
  | zero => rfl
  | succ n ih =>
    cases words with
    | nil => rfl
    | cons pa rest =>
      have hmine : s.tarn.filter (fun e => decide (e.pa = pa)) = [] :=
        List.filter_eq_nil_iff.2 fun e he hpa => h e he (by simp [of_decide_eq_true hpa])
      simp only [walkWords, hmine, walkPass, Bool.false_eq_true, if_false]
      exact ih rest fun e he hm => h e he (by simp [hm])

/-- A walk from words on which nobody waits changes nothing. -/
theorem walk_none {words : List Nat} {s : State} (h : ∀ e ∈ s.tarn, e.pa ∉ words) : walk words s = s := by
  unfold walk
  split
  · rfl
  · exact walkWords_none _ _ s h

/-! A turn of an ENQ at its tail word. -/

/-- An ENQ takes a poisoned tail word: it is presented again, with an operation to deliver first (R225). -/
def takeTail (s : State) (c slot lane tail : Nat) (op : LoadOp) : State :=
  ((setFull s tail false).modCore c (fun k => { k with loads := k.loads ++ [op] })).modGroup c slot (fun g => g.again lane 2)

section
variable {s : State} {c slot lane d deadline : Nat} {block image : W64} {w : Who} {r : RingView} {sw : Nat}
  (hw : whoOfLane s c slot lane = some w) (ha : enqAbsent s w block image = [])
  (hr : ringOf s w.ctx w.asid block.toNat = some r)
include hw ha hr

theorem enqTurn_poisoned (hp : physPoison s none r.tail 8 = true) :
    ∃ fr, enqTurn s c slot lane d block image deadline =
      (takeTail s c slot lane r.tail (tailReturn s c w fr (block + 16)), [r.tail]) := by
  simp only [enqTurn, hw, ha, hr, hp, if_true]
  exact ⟨_, rfl⟩

/-- With its slot full, an ENQ parks on the slot word. -/
theorem enqTurn_occupied (hp : physPoison s none r.tail 8 = false)
    (hs : physOf s w.ctx w.asid (r.base + 64 * (physNat s none r.tail 8 % r.slots)) Need.fill = some sw)
    (hf : isFull s sw = true) : enqTurn s c slot lane d block image deadline =
      (enqPark s c slot lane d block image deadline false sw, [r.tail]) := by
  simp only [enqTurn, hw, ha, hr, hp, hs, hf, Bool.false_eq_true, if_false, if_true]
end

/-- The tail word of a ring is full, in plain memory, and the split that comes to it is the one that its lowest lane names. -/
structure TailFull (v : View) (s : State) (r : RingView) : Prop where
  lane  : v.group.atLane (lowLane v.m) = some v.split
  full  : isFull s r.tail = true
  plain : r.tail + 8 ≤ Config.mereBase

/-- An ENQ whose slot is full. -/
theorem enq_slotFull {d a b sw : Nat} {r : RingView} {v : View} {s : State} (hopen : Enqueues d a b v s r)
    (htail : TailFull v s r) (hnone : ∀ e ∈ s.tarn, e.pa ≠ r.tail) (hclean : Clean s r.tail 8)
    (hsw : physOf s v.task.ctx v.task.asid (r.base + 64 * (wordAt s.mem r.tail 8 % r.slots)) Need.fill = some sw)
    (hocc : isFull s sw = true) (hne : sw ≠ r.tail) :
    ∃ t w, exec (.enq d a b) s = .next t ∧ EnqWaits v s t w ∧
      (tarnRoom s sw = true → t.tarn = s.tarn ++ [⟨sw, .split v.sel.core v.sel.slot (lowLane v.m)⟩] ∧
        w = .enq d (v.rs a) (v.rs b) (s.cyc v.sel.core + 4096) false) ∧
      (tarnRoom s sw = false → t.tarn = s.tarn ∧ ∃ acc, w = .busy acc (s.cyc v.sel.core + 512)) := by
  obtain ⟨pas, hexec⟩ := exec_enq_comes hopen
  obtain ⟨h, -, -, ha, hr⟩ := hopen
  obtain ⟨hat, hfull, hlow⟩ := htail
  rw [hfull, if_pos rfl] at hexec
  have halike := v.waiting_alike s 2 (v.tailWait s d a b) pas
  have hocc' : isFull (v.waiting s 2 (v.tailWait s d a b) pas) sw = true := by rw [isFull, View.waiting_full]; exact hocc
  obtain ⟨w, l, ctx, n, hpark, hroom, hno⟩ := View.enqPark_waiting (v := v) (s := s) (v.tailWait s d a b) pas
    d (v.rs a) (v.rs b) (s.cyc v.sel.core + Config.enqDeadline) false sw
  have hturn := enqTurn_occupied (d := d) (deadline := s.cyc v.sel.core + Config.enqDeadline)
    (View.waiting_who (v.tailWait s d a b) pas h.1 hat) ((halike.enqAbsent ..).trans ha) ((halike.ringOf ..).trans hr)
    ((halike.physPoison ..).trans ((physPoison_plain hlow none).2 hclean))
    (by rw [halike.physOf, halike.physNat, physNat_plain hlow]; exact hsw) hocc'
  have hwaits : ∀ e ∈ (v.parksAgain s (v.tailWait s d a b) w pas l ctx n).tarn, e.pa ∉ [r.tail] := fun e he => by
    rw [View.parksAgain_tarn] at he
    rw [List.mem_singleton]
    cases hr' : tarnRoom s sw with
    | true =>
      rw [(hroom hr').1] at he
      rcases List.mem_append.1 he with he | he
      · exact hnone e he
      · obtain rfl := List.mem_singleton.1 he; exact hne
    | false => rw [(hno hr').1] at he; exact hnone e he
  rw [hturn, hpark, walk_none hwaits, View.parksAgain_endCycle _ _ _ _ _ _ h.1] at hexec
  refine ⟨_, w, hexec, View.parksAgain_waits _ _ _ _ _ _ h.1, fun hh => ?_, fun hh => ?_⟩ <;>
    rw [State.advance_tarn, View.parksAgain_tarn]
  · exact hroom hh
  · exact hno hh

@[simp] theorem setFull_tick (s : State) (pa : Nat) (b : Bool) : (setFull s pa b).tick = s.tick := rfl
@[simp] theorem setFull_hold (s : State) (pa : Nat) (b : Bool) : (setFull s pa b).hold = s.hold := rfl
@[simp] theorem setFull_tasks (s : State) (pa : Nat) (b : Bool) : (setFull s pa b).tasks = s.tasks := rfl
@[simp] theorem setFull_tarn (s : State) (pa : Nat) (b : Bool) : (setFull s pa b).tarn = s.tarn := rfl
@[simp] theorem setFull_hub (s : State) (pa : Nat) (b : Bool) : (setFull s pa b).hub = s.hub := rfl
@[simp] theorem setFull_core (s : State) (pa : Nat) (b : Bool) (c : Nat) : (setFull s pa b).core c = s.core c := rfl
@[simp] theorem setFull_group? (s : State) (pa : Nat) (b : Bool) (c g : Nat) : (setFull s pa b).group? c g = s.group? c g := rfl

/-- A split that issues wakes ready: in handler mode it is of the handler set. -/
theorem View.wakeState_ready {v : View} (hh : v.group.handler = true → v.split.inHandler = true) {g : Group} {sp : Split}
    (hg : g.handler = v.group.handler) (hsp : sp.inHandler = v.split.inHandler) : g.wakeState sp = .ready := by
  unfold Group.wakeState
  rw [hg, hsp, if_neg]
  intro hf
  rw [Bool.and_eq_true] at hf
  simp [hh hf.1] at hf

section
variable {v : View} {s : State} (w : Wait) (pas : List Nat) (tail : Nat) (op : LoadOp)

theorem takeTail_group? (hv : Selected v s) (c k : Nat) :
    (takeTail (v.waiting s 2 w pas) v.sel.core v.sel.slot (lowLane v.m) tail op).group? c k =
      if c = v.sel.core ∧ k = v.sel.slot then some ((v.parked s w).again (lowLane v.m) 2) else s.group? c k := by
  have hcore := (setFull (v.waiting s 2 w pas) tail false).group?_modCore v.sel.core
    (fun k => { k with loads := k.loads ++ [op] }) rfl
  simp only [takeTail, State.group?_modGroup, hcore, setFull_group?, View.waiting_group? _ _ _ hv]
  split <;> simp

theorem takeTail_loads (hv : Selected v s) :
    ((takeTail (v.waiting s 2 w pas) v.sel.core v.sel.slot (lowLane v.m) tail op).advance.core v.sel.core).loads =
      v.core.loads ++ [op] := by
  obtain ⟨_, _, _, _, hc, _⟩ := State.view?_some hv
  have hquiet : ∀ k : Core, k.quiet.loads = k.loads := fun _ => rfl
  rw [← hquiet, State.quiet_advance, takeTail, State.quiet_modGroup, State.quiet_modCore, if_pos rfl, hquiet, setFull_core]
  show ((v.waiting s 2 w pas).core v.sel.core).loads ++ [op] = _
  rw [← hquiet, View.waiting_quiet, hquiet, hc]
end

/-- An ENQ whose tail word is poisoned. -/
theorem enq_tailPoisoned {d a b : Nat} {r : RingView} {v : View} {s : State} (hopen : Enqueues d a b v s r)
    (htail : TailFull v s r) (hnone : s.tarn = []) (hh : v.group.handler = true → v.split.inHandler = true)
    (hbad : ¬Clean s r.tail 8) :
    ∃ t g sp op, exec (.enq d a b) s = .next t ∧ t.tick = s.tick + 1 ∧ Debited v s t 2 ∧ OtherGroups v s t ∧ t.mem = s.mem ∧
      t.full = Table.removeNat s.full (r.tail / 8) ∧ t.group? v.sel.core v.sel.slot = some g ∧
      (∀ fr q, SameReg v.group g fr q) ∧ g.splits[v.sel.idx]? = some sp ∧ sp.pc = v.split.pc ∧ sp.state = .ready ∧
      sp.paid = some 2 ∧ (t.core v.sel.core).loads = v.core.loads ++ [op] ∧ op.who = v.who ∧ op.arrived = true ∧
      op.poison = some (v.rs a + 16) := by
  obtain ⟨pas, hexec⟩ := exec_enq_comes hopen
  obtain ⟨h, -, -, ha, hr⟩ := hopen
  obtain ⟨hat, hfull, hlow⟩ := htail
  rw [hfull, if_pos rfl] at hexec
  have halike := v.waiting_alike s 2 (v.tailWait s d a b) pas
  have hpoison : physPoison s none r.tail 8 = true := by
    cases hp : physPoison s none r.tail 8 with
    | true => rfl
    | false => exact absurd ((physPoison_plain hlow none).1 hp) hbad
  obtain ⟨fr, hturn⟩ := enqTurn_poisoned (d := d) (deadline := s.cyc v.sel.core + Config.enqDeadline)
    (View.waiting_who (v.tailWait s d a b) pas h.1 hat) ((halike.enqAbsent ..).trans ha) ((halike.ringOf ..).trans hr)
    ((halike.physPoison ..).trans hpoison)
  obtain ⟨op, hop⟩ : ∃ op, op = tailReturn (v.waiting s 2 (v.tailWait s d a b) pas) v.sel.core v.who fr (v.rs a + 16) :=
    ⟨_, rfl⟩
  rw [hturn, ← hop] at hexec
  rw [walk_none (by simp [takeTail, hnone]), State.endCycle_alone _ (by simp [takeTail, h.1.2.1])] at hexec
  have hgroup := takeTail_group? (v.tailWait s d a b) pas r.tail op h.1
  have hloads := takeTail_loads (v.tailWait s d a b) pas r.tail op h.1
  have hdebit := v.waiting_debited s 2 (v.tailWait s d a b) pas
  have htick := v.waiting_tick s 2 (v.tailWait s d a b) pas
  have hmem := v.waiting_mem s 2 (v.tailWait s d a b) pas
  have hfl := v.waiting_full s 2 (v.tailWait s d a b) pas
  generalize v.waiting s 2 (v.tailWait s d a b) pas = u at hexec hgroup hloads hdebit htick hmem hfl
  refine ⟨_, (v.parked s (v.tailWait s d a b)).again (lowLane v.m) 2, _, op, hexec, by simp [takeTail, htick],
    by simpa [Debited, takeTail] using hdebit, fun c k hk => by rw [State.group?_advance, hgroup, if_neg hk],
    by simp [takeTail, hmem], by simp [takeTail, setFull, hfl], by rw [State.group?_advance, hgroup]; simp, fun fr q => ?_,
    View.onLane_split h.1 _ _ _ rfl, rfl, View.wakeState_ready hh rfl rfl, rfl, hloads, by rw [hop]; rfl, by rw [hop]; rfl,
    by rw [hop]; rfl⟩
  apply SameReg.of_fields <;> rfl

/-! The packet in its slot. -/

/-- The state with another set of poisoned units. -/
def State.withPoison (s : State) (q : List Nat) : State := { s with poison := q }

section
variable (s : State) (q : List Nat)
@[simp] theorem State.withPoison_tick : (s.withPoison q).tick = s.tick := rfl
@[simp] theorem State.withPoison_hold : (s.withPoison q).hold = s.hold := rfl
@[simp] theorem State.withPoison_tasks : (s.withPoison q).tasks = s.tasks := rfl
@[simp] theorem State.withPoison_mem : (s.withPoison q).mem = s.mem := rfl
@[simp] theorem State.withPoison_full : (s.withPoison q).full = s.full := rfl
@[simp] theorem State.withPoison_tarn : (s.withPoison q).tarn = s.tarn := rfl
@[simp] theorem State.withPoison_hub : (s.withPoison q).hub = s.hub := rfl
@[simp] theorem State.withPoison_group? (c g : Nat) : (s.withPoison q).group? c g = s.group? c g := rfl
@[simp] theorem State.putBytes_hold (pa : Nat) (bs : List Byte) : (s.putBytes pa bs).hold = s.hold := rfl
end

/-- What is open to stores depends on the hub alone. -/
theorem Open.congr {s t : State} {pa n : Nat} (h : Open s pa n) (hh : t.hub = s.hub) : Open t pa n := fun k hk => by
  rw [← h k hk]
  simp only [blockFixed, stampFixed, findPage, hh]

/-- Of cells with distinct addresses none is overwritten. -/
theorem lastCells_nodup {cells : List (Nat × Byte × Bool)} (h : (cells.map Prod.fst).Nodup) : lastCells cells = cells := by
  induction cells with
  | nil => rfl
  | cons x xs ih =>
    simp only [List.map_cons, List.nodup_cons] at h
    have hrest : List.foldr (fun c acc => if acc.any (fun x => decide (x.1 = c.1)) then acc else c :: acc) [] xs = xs := ih h.2
    have hnone : xs.any (fun y => decide (y.1 = x.1)) = false :=
      List.any_eq_false.2 fun y hy hyx => h.1 (List.mem_map.2 ⟨y, hy, of_decide_eq_true hyx⟩)
    simp only [lastCells, List.foldr_cons, hrest, hnone, Bool.false_eq_true, if_false]

/-- The cells of an image with its poison. -/
def taintedCells (pa : Nat) (bs : List (Byte × Bool)) : List (Nat × Byte × Bool) :=
  ((upto bs.length).zip bs).map (fun e => (pa + e.1, e.2))

theorem taintedCells_clean (pa : Nat) (bs : List (Byte × Bool)) :
    (taintedCells pa bs).map (fun c => (c.1, c.2.1)) = imageCells pa (bs.map Prod.fst) := by
  rw [taintedCells, imageCells, List.zip_map_right, List.map_map, List.map_map, List.length_map]
  rfl

theorem taintedCells_nodup (pa : Nat) (bs : List (Byte × Bool)) : ((taintedCells pa bs).map Prod.fst).Nodup := by
  have hkeys : (taintedCells pa bs).map Prod.fst = (upto bs.length).map (fun k => pa + k) := by
    rw [taintedCells, List.map_map]
    conv_rhs => rw [← List.map_fst_zip (l₁ := upto bs.length) (l₂ := bs) (by simp [upto]), List.map_map]
    rfl
  rw [hkeys]
  exact List.nodup_range.map fun a b hab => by simpa using hab

theorem within_of_mem_taintedCells {pa : Nat} {bs : List (Byte × Bool)} {c : Nat × Byte × Bool} (h : c ∈ taintedCells pa bs) :
    Within c.1 pa bs.length := by
  have hm : (c.1, c.2.1) ∈ imageCells pa (bs.map Prod.fst) := by
    rw [← taintedCells_clean]; exact List.mem_map.2 ⟨c, h, rfl⟩
  simpa using within_of_mem_imageCells hm

/-- An image written whole to plain, open memory, with its poison. -/
theorem writeCopied_image {s : State} {pa : Nat} {bs : List (Byte × Bool)} (hlow : pa + bs.length ≤ Config.mereBase)
    (ho : Open s pa bs.length) : ∃ q, writeCopied s (taintedCells pa bs) = (s.putBytes pa (bs.map Prod.fst)).withPoison q := by
  have hplain : ∀ c ∈ taintedCells pa bs, isMere c.1 = false := fun c hc => by
    obtain ⟨h1, h2⟩ := within_of_mem_taintedCells hc
    simp only [isMere, decide_eq_false_iff_not]; omega
  have hopen : ∀ c ∈ taintedCells pa bs, blockFixed s c.1 = false := fun c hc => by
    obtain ⟨h1, h2⟩ := within_of_mem_taintedCells hc
    have hk := ho (c.1 - pa) (by omega)
    rwa [Nat.add_sub_cancel' h1] at hk
  have hmere : (taintedCells pa bs).filter (fun c => isMere c.1) = [] :=
    List.filter_eq_nil_iff.2 fun c hc => by simp [hplain c hc]
  have hkept : openCells s (((taintedCells pa bs).map (fun c => (c.1, c.2.1))).filter (fun c => !isMere c.1)) =
      imageCells pa (bs.map Prod.fst) := by
    rw [← taintedCells_clean, openCells, List.filter_filter, List.filter_eq_self]
    intro e he
    obtain ⟨c, hc, rfl⟩ := List.mem_map.1 he
    simp [hplain c hc, hopen c hc]
  unfold writeCopied
  simp only [lastCells_nodup (taintedCells_nodup pa bs), hmere, hkept, List.map_nil, List.foldl_nil]
  exact ⟨_, rfl⟩

/-- A word written to plain, open memory. -/
theorem writeWord_plain {s : State} {pa : Nat} (x : W64) (hlow : pa + 8 ≤ Config.mereBase) (ho : Open s pa 8) :
    ∃ q, writeWord s pa x = (s.putBytes pa (leBytes 8 x.toNat)).withPoison q := by
  have hcells : cellsOf pa 8 x.toNat = imageCells pa (leBytes 8 x.toNat) := by simp [cellsOf, imageCells]
  have hin : ∀ c ∈ cellsOf pa 8 x.toNat, Within c.1 pa 8 := fun c hc => by
    rw [hcells] at hc
    simpa using within_of_mem_imageCells hc
  have hopen : openCells s (cellsOf pa 8 x.toNat) = imageCells pa (leBytes 8 x.toNat) := by
    rw [hcells, openCells, List.filter_eq_self]
    intro c hc
    obtain ⟨h1, h2⟩ := hin c (hcells ▸ hc)
    have hk := ho (c.1 - pa) (by omega)
    rw [Nat.add_sub_cancel' h1] at hk
    simp [hk]
  rw [writeWord, writeCells_plain s _ fun c hc => ?_, hopen]
  · exact ⟨_, rfl⟩
  · obtain ⟨h1, h2⟩ := hin c hc
    simp only [isMere, decide_eq_false_iff_not]; omega

@[simp] theorem length_bytes64 (s : State) (ctx asid : Nat) (who : Reader) (va : Nat) :
    (bytes64 s ctx asid who va).length = 64 := by
  simp [bytes64, upto]

/-- With its slot empty, an ENQ places its packet: the slot full, the tail counted (R273). -/
def placePacket (s : State) (c ctx : Nat) (pas : List Nat) (packet : List (Byte × Bool)) (sw tail n : Nat) : State :=
  writeWord (setFull (writeCopied (s.crossed c ctx pas) (taintedCells sw packet)) sw true) tail (BitVec.ofNat 64 (n + 1))

section
variable {s : State} {c slot lane d deadline : Nat} {block image : W64} {w : Who} {r : RingView} {sw : Nat}
  {g : Group} {sp : Split}

theorem enqTurn_placed (hw : whoOfLane s c slot lane = some w) (ha : enqAbsent s w block image = [])
    (hr : ringOf s w.ctx w.asid block.toNat = some r) (hp : physPoison s none r.tail 8 = false)
    (hs : physOf s w.ctx w.asid (r.base + 64 * (physNat s none r.tail 8 % r.slots)) Need.fill = some sw)
    (hf : isFull s sw = false) (hg : s.group? c slot = some g) (hsp : g.atLane lane = some sp) :
    ∃ pas, enqTurn s c slot lane d block image deadline = (answerSplit (placePacket s c w.ctx pas
      (bytes64 s w.ctx w.asid (some (c, slot, sp.frame)) image.toNat) sw r.tail (physNat s none r.tail 8)) c slot lane d 0,
      [sw, r.tail]) := by
  simp only [enqTurn, hw, ha, hr, hp, hs, hf, hg, hsp, Bool.false_eq_true, if_false, Option.bind_some, Option.map_some,
    Option.getD_some, placePacket, taintedCells, length_bytes64]
  exact ⟨_, rfl⟩
end

/-- What placing a packet leaves. -/
structure Placed (s t : State) (packet : List (Byte × Bool)) (sw tail n : Nat) : Prop where
  tick   : t.tick = s.tick
  hold   : t.hold = s.hold
  tasks  : t.tasks = s.tasks
  tarn   : t.tarn = s.tarn
  groups : ∀ c g, t.group? c g = s.group? c g
  full   : t.full = Table.insertNat s.full (sw / 8)
  packet : ∀ k (h : k < packet.length), Memory.get t.mem (sw + k) = (packet[k]).1
  tail   : wordAt t.mem tail 8 = (n + 1) % 2 ^ 64

/-- A packet placed in plain, open memory apart from the tail word (R8, R273). -/
theorem placePacket_placed {s : State} {c ctx sw tail : Nat} {pas : List Nat} {packet : List (Byte × Bool)} (n : Nat)
    (hlow : sw + packet.length ≤ Config.mereBase) (htail : tail + 8 ≤ Config.mereBase) (ho : Open s sw packet.length)
    (hot : Open s tail 8) (happart : tail + 8 ≤ sw ∨ sw + packet.length ≤ tail) :
    Placed s (placePacket s c ctx pas packet sw tail n) packet sw tail n := by
  obtain ⟨q, hq⟩ := writeCopied_image (s := s.crossed c ctx pas) hlow (ho.congr rfl)
  obtain ⟨q', hq'⟩ := writeWord_plain
    (s := setFull (((s.crossed c ctx pas).putBytes sw (packet.map Prod.fst)).withPoison q) sw true) (BitVec.ofNat 64 (n + 1)) htail
    (hot.congr rfl)
  have hplace : placePacket s c ctx pas packet sw tail n = _ := (congrArg (fun x => writeWord (setFull x sw true) tail
    (BitVec.ofNat 64 (n + 1))) hq).trans hq'
  rw [hplace]
  refine ⟨by simp [State.crossed], by simp [State.crossed], by simp [State.crossed], by simp [State.crossed],
    fun c' g => by simp [State.crossed], by simp [State.crossed, setFull], fun k hk => ?_, ?_⟩
  · rw [State.withPoison_mem, State.get_putBytes _ _ _ (by simp only [Within, length_leBytes]; omega), setFull_mem,
      State.withPoison_mem, State.get_putBytes_of_lt _ _ _ (by simpa using hk), List.getElem_map]
  · rw [State.withPoison_mem, wordAt_of_bytes fun k hk => ?_]
    · exact Nat.mod_mod_of_dvd _ (Nat.dvd_refl _)
    · rw [State.get_putBytes_of_lt _ _ _ (by simpa using hk)]
      have hbyte := getElem?_leBytes 8 (BitVec.ofNat 64 (n + 1)).toNat k hk
      rw [List.getElem?_eq_getElem (by simpa using hk)] at hbyte
      exact Option.some.inj hbyte

theorem SameReg.trans {g g' g'' : Group} {fr : Nat} {r : RegRef} (h : SameReg g g' fr r) (h' : SameReg g' g'' fr r) :
    SameReg g g'' fr r := by
  cases r <;> simp only [SameReg] at h h' ⊢
  case a n q => exact ⟨h'.1.trans h.1, h'.2.1.trans h.2.1, fun hq e he => (h'.2.2 hq e he).trans (h.2.2 hq e he)⟩
  all_goals exact h'.trans h

/-- The frames of a group whose split is live are in the register file (R287). -/
theorem View.out_of_live {v : View} (h : v.live = true) : v.group.out = false := by
  simp only [View.live, Bool.and_eq_true, Bool.not_eq_true'] at h
  exact h.1.1.1.2

/-- An ENQ whose slot is empty. -/
theorem enq_placed {d a b sw : Nat} {r : RingView} {v : View} {s : State} (hopen : Enqueues d a b v s r)
    (htail : TailFull v s r) (hnone : s.tarn = []) (hh : v.group.handler = true → v.split.inHandler = true)
    (hclean : Clean s r.tail 8)
    (hsw : physOf s v.task.ctx v.task.asid (r.base + 64 * (wordAt s.mem r.tail 8 % r.slots)) Need.fill = some sw)
    (hempty : isFull s sw = false) (hslot : sw + 64 ≤ Config.mereBase) (ho : Open s sw 64) (hot : Open s r.tail 8)
    (happart : r.tail + 8 ≤ sw ∨ sw + 64 ≤ r.tail) :
    ∃ t g sp, exec (.enq d a b) s = .next t ∧ t.tick = s.tick + 1 ∧ Debited v s t 2 ∧ OtherGroups v s t ∧
      t.group? v.sel.core v.sel.slot = some g ∧
      (∀ fr r, ¬(r = .s d ∧ (r.frameLocal = true → fr = v.fr)) → SameReg v.group g fr r) ∧
      g.readS v.fr d = SReg.zero ∧ g.splits[v.sel.idx]? = some sp ∧ sp.pc = v.nextPc ∧ sp.state = .ready ∧
      (∀ k, k < 64 → Memory.get t.mem (sw + k) = ((bytes64 s v.task.ctx v.task.asid v.reader (v.ui b)).map Prod.fst).getD k 0) ∧
      wordAt t.mem r.tail 8 = (wordAt s.mem r.tail 8 + 1) % 2 ^ 64 ∧ t.full = Table.insertNat s.full (sw / 8) := by
  obtain ⟨pas, hexec⟩ := exec_enq_comes hopen
  obtain ⟨h, -, -, ha, hr⟩ := hopen
  obtain ⟨hat, hfull, hlow⟩ := htail
  obtain ⟨_, _, _, _, _, hlive, _⟩ := State.view?_some h.1
  rw [hfull, if_pos rfl] at hexec
  have halike := v.waiting_alike s 2 (v.tailWait s d a b) pas
  have hempty' : isFull (v.waiting s 2 (v.tailWait s d a b) pas) sw = false := by rw [isFull, View.waiting_full]; exact hempty
  have hgroup := View.waiting_group? 2 (v.tailWait s d a b) pas h.1
  obtain ⟨sp, hsp, hst⟩ := View.parked_atLane hat s (v.tailWait s d a b)
  have hfr : sp.frame = v.fr := congrArg (fun x => x.2.1) hst
  have hnat : physNat (v.waiting s 2 (v.tailWait s d a b) pas) none r.tail 8 = wordAt s.mem r.tail 8 := by
    rw [halike.physNat, physNat_plain hlow]
  obtain ⟨pas', hturn⟩ := enqTurn_placed (d := d) (deadline := s.cyc v.sel.core + Config.enqDeadline)
    (View.waiting_who (v.tailWait s d a b) pas h.1 hat) ((halike.enqAbsent ..).trans ha) ((halike.ringOf ..).trans hr)
    ((halike.physPoison ..).trans ((physPoison_plain hlow none).2 hclean))
    (by rw [hnat, halike.physOf]; exact hsw) hempty' (by rw [hgroup]; simp) hsp
  rw [hnat, hfr, halike.bytes64] at hturn
  rw [hturn] at hexec
  have hplaced := placePacket_placed (s := v.waiting s 2 (v.tailWait s d a b) pas) (c := v.sel.core) (ctx := v.who.ctx)
    (pas := pas')
    (packet := bytes64 s v.who.ctx v.who.asid (some (v.sel.core, v.sel.slot, v.fr)) (v.rs b).toNat) (wordAt s.mem r.tail 8)
    (by simpa using hslot) hlow (by simpa using ho.congr halike.hub) (hot.congr halike.hub) (by simpa using happart)
  have hdebit := v.waiting_debited s 2 (v.tailWait s d a b) pas
  have htick := v.waiting_tick s 2 (v.tailWait s d a b) pas
  have hhold := v.waiting_hold s 2 (v.tailWait s d a b) pas
  have htarn := v.waiting_tarn s 2 (v.tailWait s d a b) pas
  have hfl := v.waiting_full s 2 (v.tailWait s d a b) pas
  generalize placePacket (v.waiting s 2 (v.tailWait s d a b) pas) v.sel.core v.who.ctx pas'
    (bytes64 s v.who.ctx v.who.asid (some (v.sel.core, v.sel.slot, v.fr)) (v.rs b).toNat) sw r.tail (wordAt s.mem r.tail 8) = p
    at hexec hplaced
  generalize v.waiting s 2 (v.tailWait s d a b) pas = u at hplaced hdebit htick hhold htarn hfl hgroup
  have hg : p.group? v.sel.core v.sel.slot = some (v.parked s (v.tailWait s d a b)) := by rw [hplaced.groups, hgroup]; simp
  have hout : (v.parked s (v.tailWait s d a b)).out = false := View.out_of_live hlive
  have hanswer := answerSplit_group? (d := d) (x := 0) hg hsp
  have hsame := answerSplit_in (d := d) (x := 0) hg hsp hout
  rw [walk_none (by rw [hsame]; simp [hplaced.tarn, htarn, hnone]),
    State.endCycle_alone _ (by rw [hsame, State.modGroup_hold, hplaced.hold, hhold]; exact h.1.2.1)] at hexec
  refine ⟨_, (v.parked s (v.tailWait s d a b)).answer sp (lowLane v.m) d 0, _, hexec, ?_, ?_, fun c k hk => ?_, ?_,
    fun fr q hn => ?_, ?_, View.onLane_split h.1 (v.tailWait s d a b) _ _ (Group.splits_putS ..), rfl, ?_, fun k hk => ?_, ?_, ?_⟩
  · rw [hsame, State.advance_tick, State.modGroup_tick, hplaced.tick, htick]
  · rw [hsame]
    simpa [Debited, hplaced.tasks] using hdebit
  · rw [State.group?_advance, hanswer, if_neg hk, hplaced.groups, hgroup, if_neg hk]
  · rw [State.group?_advance, hanswer]; simp
  · exact (v.parked_sameReg s _ fr q).trans (Group.answer_sameReg (hfr ▸ hn))
  · have hread := Group.readS_writeS (v.parked s (v.tailWait s d a b)) sp.frame d 0
    rw [hfr] at hread
    refine Eq.trans (b := ((v.parked s (v.tailWait s d a b)).writeS v.fr d 0).readS v.fr d) (by rw [← hfr]; rfl) (hread.trans ?_)
    split <;> rfl
  · exact View.wakeState_ready hh (Group.handler_writeS ..) rfl
  · rw [hsame, State.advance_mem, State.modGroup_mem, hplaced.packet k (by simpa using hk),
      List.getD_eq_getElem _ _ (by simpa using hk), List.getElem_map]
    rfl
  · rw [hsame, State.advance_mem, State.modGroup_mem, hplaced.tail]
  · rw [hsame, State.advance_full, State.modGroup_full, hplaced.full, hfl]

/-! The issue of an ENQ, as its body finds the stores of the core performed. -/

/-- What the stores of the core leave is alike with and without the bookkeeping of the issue. -/
theorem alike_charged_drain (v : View) (cost : Nat) (s : State) :
    Alike (s.drainStores v.sel.core) ((chargeIssue v cost s).drainStores v.sel.core) := (alike_chargeIssue v cost s).drainStores _

/-- The split of an ENQ that has issued and waits. -/
theorem View.parked_split {v : View} {s : State} (hv : Selected v s) (w : Wait) : (v.parked s w).splits[v.sel.idx]? =
    some { v.split with state := .parked, wait := w, lastIssue := s.tick + 1, entry := none, paid := none } := by
  obtain ⟨_, _, hsp, _⟩ := State.view?_some hv
  rw [View.parked, Group.parkLane, Group.splits_onLane]
  simp [View.book, getElem?_changeAt, hsp, View.m]

@[simp] theorem State.endCycle_tasks (s : State) : s.endCycle.tasks = s.tasks := by unfold State.endCycle; split <;> rfl
@[simp] theorem State.endCycle_poison (s : State) : s.endCycle.poison = s.poison := by unfold State.endCycle; split <;> rfl
@[simp] theorem State.endCycle_full (s : State) : s.endCycle.full = s.full := by unfold State.endCycle; split <;> rfl
@[simp] theorem State.endCycle_tarn (s : State) : s.endCycle.tarn = s.tarn := by unfold State.endCycle; split <;> rfl
@[simp] theorem State.endCycle_hub (s : State) : s.endCycle.hub = s.hub := by unfold State.endCycle; split <;> rfl
@[simp] theorem State.endCycle_group? (s : State) (c g : Nat) : s.endCycle.group? c g = s.group? c g := by
  unfold State.endCycle; split <;> simp

/-- An ENQ that needs pages which are not resident parks, debited, on a record for each. -/
theorem exec_enq_absent {d a b : Nat} {v : View} {s : State} (h : Ready (.enq d a b) v s)
    (ht : enqTrap (s.drainStores v.sel.core) v.who (v.rs a) (v.rs b) = none)
    (ha : enqAbsent (s.drainStores v.sel.core) v.who (v.rs a) (v.rs b) ≠ []) : ∃ block image deadline,
    exec (.enq d a b) s = .next (parkOnFaults (chargeIssue v 2 s) v.sel.core v.sel.slot (lowLane v.m) v.who
      (enqAccess (chargeIssue v 2 s) v.sel.core v.sel.slot (lowLane v.m) d block image deadline)
      (enqAbsent (s.drainStores v.sel.core) v.who (v.rs a) (v.rs b))).endCycle := by
  have hdrain := alike_charged_drain v 2 s
  refine ⟨v.rs a, v.rs b, (chargeIssue v 2 s).cyc v.sel.core + Config.enqDeadline, ?_⟩
  show issueWith (.enq d a b) (issueFrom (.enq d a b) (enqBody d a b)) s = _
  rw [issueWith_ready h, issueFrom_ready h]
  congr 2
  simp only [costOf, enqBody, hdrain.enqTrap, hdrain.enqAbsent, ht]
  cases hvas : enqAbsent (s.drainStores v.sel.core) v.who (v.rs a) (v.rs b) with
  | nil => exact absurd hvas ha
  | cons va vas => rfl

theorem enq_absent {d a b : Nat} {v : View} {s : State} (h : Ready (.enq d a b) v s)
    (ht : enqTrap (s.drainStores v.sel.core) v.who (v.rs a) (v.rs b) = none)
    (ha : enqAbsent (s.drainStores v.sel.core) v.who (v.rs a) (v.rs b) ≠ []) :
    ∃ t g sp acc, exec (.enq d a b) s = .next t ∧ Debited v s t 2 ∧ SameButRing s t ∧ t.tarn = s.tarn ∧
      t.group? v.sel.core v.sel.slot = some g ∧ (∀ fr q, SameReg v.group g fr q) ∧ g.splits[v.sel.idx]? = some sp ∧
      sp.state = .parked ∧ sp.pc = v.split.pc ∧
      sp.wait = .faults (enqAbsent (s.drainStores v.sel.core) v.who (v.rs a) (v.rs b)).length acc ∧
      ∀ va ∈ enqAbsent (s.drainStores v.sel.core) v.who (v.rs a) (v.rs b),
        ∃ rec ∈ t.hub.ring ++ t.hub.recWait, rec.va = va ∧ rec.kind = 2 := by
  obtain ⟨_, hg, _⟩ := State.view?_some h.1
  obtain ⟨block, image, deadline, hexec⟩ := exec_enq_absent h ht ha
  generalize enqAbsent (s.drainStores v.sel.core) v.who (v.rs a) (v.rs b) = vas at hexec ⊢
  generalize hacc : enqAccess (chargeIssue v 2 s) v.sel.core v.sel.slot (lowLane v.m) d block image deadline = acc at hexec
  have hkind : accessKind acc.instr = 2 := by rw [← hacc]; rfl
  rw [parkOnFaults, hkind] at hexec
  have hrec := State.addRecords_recorded v.sel.core 2 0 v.who vas (chargeIssue v 2 s)
  have hstand := fun va => State.addRecords_stand v.sel.core 2 0 v.who vas (chargeIssue v 2 s) (va := va)
  generalize (chargeIssue v 2 s).addRecords v.sel.core v.who 2 0 vas = u at hexec hrec hstand
  refine ⟨_, v.parked s (.faults vas.length acc), _, acc, hexec, ?_, ?_, ?_, ?_, v.parked_sameReg s _,
    View.parked_split h.1 _, rfl, rfl, rfl, fun va hva => ?_⟩
  · simp [Debited, hrec.tasks, chargeIssue_tasks]
  · exact ((SameButRing.of_same (by simp) (by simp) (by simp)).trans hrec.memory).trans
      (SameButRing.of_same (by simp) (by simp) (by simp))
  · simp [hrec.tarn]
  · rw [State.endCycle_group?, State.group?_modGroup, hrec.groups, group?_chargeIssue, hg]
    simp [View.parked]
  · obtain ⟨q, n, st, hq⟩ := hstand va hva
    exact ⟨_, by simpa using hq, rfl, rfl⟩

/-! Traps. -/

/-- A group with other splits. -/
def Group.withSplits (g : Group) (l : List Split) : Group := { g with splits := l }

/-- The state in which a trap is taken: the issuing split's debit undone, its group's splits `l`. -/
structure Undone (v : View) (s u : State) (l : List Split) : Prop where
  tick     : u.tick = s.tick
  hold     : u.hold = s.hold
  together : u.together = s.together
  memory   : SameMemory s u
  refunded : Refunded v s u
  tasks    : (Table.get? u.tasks v.tid).isSome = true
  groups   : ∀ c n, u.group? c n = if c = v.sel.core ∧ n = v.sel.slot then some (v.group.withSplits l) else s.group? c n
  split    : ∃ p, l[v.sel.idx]? = some { v.split with paid := p }

/-- The debit of a split undone (R35). -/
theorem undoDebit_undone {v : View} {s : State} (hv : Selected v s) : ∃ l, Undone v s (undoDebit v s) l := by
  obtain ⟨_, hg, hsp, ht, _⟩ := State.view?_some hv
  cases hp : v.split.paid with
  | none =>
    refine ⟨v.group.splits, ?_⟩
    simp only [undoDebit, hp]
    refine ⟨rfl, rfl, rfl, SameMemory.refl s, by simp [Refunded, hp], by simp [ht], fun c n => ?_, none, by rw [hsp, ← hp]⟩
    split
    · next hc => rw [hc.1, hc.2, hg]; rfl
    · rfl
  | some a =>
    refine ⟨changeAt v.group.splits v.sel.idx (fun sp => { sp with paid := none }), ?_⟩
    simp only [undoDebit, hp]
    refine ⟨by simp, by simp, by simp, ⟨fun _ => by simp, by simp, by simp⟩, by simp [Refunded, hp, State.modTask],
      by simp [State.task_modTask, ht], fun c n => ?_, none, by simp [getElem?_changeAt, hsp]⟩
    simp only [State.onSplit, State.onGroup, State.group?_modGroup, State.group?_modTask, hg, Option.map_some]
    rfl

/-- A split as it enters its handler (R36, R276). -/
def Split.handling (sp : Split) (target : W64) : Split :=
  { sp with pc := target, state := .ready, wait := .none, paid := none, inHandler := true, entry := some target, stop := .no }

theorem Group.enterHandler_split {g : Group} {idx : Nat} {sp : Split} (h : g.splits[idx]? = some sp) (cause : Nat)
    (tpc tval : W64) :
    (g.enterHandler idx cause tpc tval).splits[idx]? = some (sp.handling (g.tvb + BitVec.ofNat 64 (16 * cause))) := by
  unfold Group.enterHandler
  cases hh : g.handler with
  | true => simp [getElem?_changeAt, h, Split.handling]
  | false =>
    have hlt : idx < g.splits.length := (List.getElem?_eq_some_iff.1 h).1
    have hzip : ((upto g.splits.length).zip g.splits)[idx]? = some (idx, sp) :=
      List.getElem?_zip_eq_some.2 ⟨by simp [upto, hlt], h⟩
    simp [hzip, Split.handling]

section
variable {v : View} {s u : State} {l : List Split}

/-- The split stands where it was, its debit undone. -/
theorem Undone.viewAt (hu : Undone v s u l) : ∃ w, u.viewAt v.sel = some w ∧ w.group = v.group.withSplits l ∧
    w.split.entry = v.split.entry ∧ w.split.pc = v.split.pc := by
  obtain ⟨p, hp⟩ := hu.split
  obtain ⟨x, hx⟩ := Option.isSome_iff_exists.1 hu.tasks
  refine ⟨⟨v.sel, u.core v.sel.core, v.group.withSplits l, { v.split with paid := p }, x⟩, ?_, rfl, rfl, rfl⟩
  have hp' : (v.group.withSplits l).splits[v.sel.idx]? = some { v.split with paid := p } := hp
  have hx' : Table.get? u.tasks (v.group.withSplits l).task = some x := hx
  simp only [State.viewAt, hu.groups, and_self, if_true, hp', hx']

theorem Undone.modCore (hu : Undone v s u l) {f : Core → Core} (hf : ∀ k, (f k).groups = k.groups) (c : Nat) :
    Undone v s (u.modCore c f) l :=
  ⟨hu.tick, hu.hold, hu.together, ⟨hu.memory.bytes, hu.memory.poison, hu.memory.full⟩, hu.refunded, hu.tasks,
   fun c' n => (u.group?_modCore c f (hf _) c' n).trans (hu.groups c' n), hu.split⟩

/-- A trap where there is a handler, and no double trap, enters it (R37, R38). -/
theorem Undone.trapEntry (hu : Undone v s u l) (ht : s.together = none) (hh : HasHandler v) (cause : Nat) (tval : W64) :
    ∃ u' ctx, Undone v s u' l ∧ Machine.trapEntry v.sel cause v.split.pc tval u =
      (u'.onGroup v.sel (fun g => g.enterHandler v.sel.idx cause v.split.pc tval)).signal v.sel.core ctx 41 := by
  obtain ⟨w, hw, hgroup, hentry, hpc⟩ := hu.viewAt
  have hnote : u.noteTrap = u := by simp only [State.noteTrap, hu.together, ht]
  have htvb : w.group.tvb = v.group.tvb := by rw [hgroup]; rfl
  have hno : ¬(decide (w.group.tvb = 0) || decide (w.split.entry = some w.split.pc)) = true := by
    rw [htvb, hentry, hpc, Bool.or_eq_true, decide_eq_true_eq, decide_eq_true_eq]
    exact not_or.2 hh
  unfold Machine.trapEntry
  simp only [hw, hnote, if_neg hno]
  cases w.group.handler with
  | true => exact ⟨u, w.task.ctx, hu, rfl⟩
  | false =>
    have hkeep : ∀ k : Core, ({ k with requests := k.requests.filter (fun r => decide (r.slot ≠ v.sel.slot)) } : Core).groups =
      k.groups := fun _ => rfl
    exact ⟨_, w.task.ctx, hu.modCore hkeep v.sel.core, rfl⟩
end

/-- A trap at the selected split enters its handler (R35, R36). -/
theorem takeTrap_enters {v : View} {s : State} (hv : Selected v s) (hh : HasHandler v) (cause : Nat) (tval : W64) :
    EntersHandler v s (takeTrap v.sel cause tval s).endCycle cause v.split.pc tval ∧
      Refunded v s (takeTrap v.sel cause tval s).endCycle := by
  obtain ⟨l, hundo⟩ := undoDebit_undone hv
  obtain ⟨u, ctx, hu, htrap⟩ := hundo.trapEntry hv.1 hh cause tval
  have htake : takeTrap v.sel cause tval s = Machine.trapEntry v.sel cause v.split.pc tval (undoDebit v s) := by
    simp only [takeTrap, State.viewAt_of_view? hv]
  obtain ⟨p, hp⟩ := hu.split
  rw [htake, htrap, State.endCycle_alone _ (by simp [hu.hold, hv.2.1])]
  have hgroup : ∀ c n, ((u.onGroup v.sel (fun g => g.enterHandler v.sel.idx cause v.split.pc tval)).signal v.sel.core ctx
      41).advance.group? c n = if c = v.sel.core ∧ n = v.sel.slot then
        some ((v.group.withSplits l).enterHandler v.sel.idx cause v.split.pc tval) else s.group? c n := fun c n => by
    simp only [State.group?_advance, State.group?_signal, State.onGroup, State.group?_modGroup, hu.groups]
    split <;> simp
  refine ⟨⟨by simp [hu.tick], ⟨fun a => ?_, ?_, ?_⟩, fun c n hn => by rw [hgroup, if_neg hn],
    (v.group.withSplits l).enterHandler v.sel.idx cause v.split.pc tval, by rw [hgroup]; simp, rfl, rfl, rfl, rfl,
    fun fr r => ?_, rfl, rfl, rfl, rfl, rfl, rfl, _, Group.enterHandler_split (g := v.group.withSplits l) hp ..,
    rfl, rfl, rfl, rfl⟩, ?_⟩
  · simpa using hu.memory.bytes a
  · simpa using hu.memory.poison
  · simpa using hu.memory.full
  · apply SameReg.of_fields <;> rfl
  · simpa [Refunded] using hu.refunded

/-! The checks of an ENQ. -/

/-- An ENQ that fails a check enters its handler. -/
theorem enq_traps {d a b cause : Nat} {tval : W64} {v : View} {s : State} (h : Ready (.enq d a b) v s) (hh : HasHandler v)
    (ht : enqTrap (s.drainStores v.sel.core) v.who (v.rs a) (v.rs b) = some (cause, tval)) :
    ∃ t, exec (.enq d a b) s = .next t ∧ EntersHandler v s t cause v.split.pc tval ∧ Refunded v s t := by
  have hexec : exec (.enq d a b) s = .next (takeTrap v.sel cause tval s).endCycle := by
    show issueWith (.enq d a b) (issueFrom (.enq d a b) (enqBody d a b)) s = _
    rw [issueWith_ready h, issueFrom_ready h]
    simp only [costOf, enqBody, (alike_charged_drain v 2 s).enqTrap, ht]
  exact ⟨_, hexec, takeTrap_enters h.1 hh cause tval⟩

section
variable {s : State} {w : Who} {block image : W64}

theorem enqTrap_block (hb : block.toNat % 64 ≠ 0) : enqTrap s w block image = some (7, block) := if_pos hb

variable (hb : block.toNat % 64 = 0)
include hb

theorem enqTrap_image (hi : image.toNat % 64 ≠ 0) : enqTrap s w block image = some (7, image) := by
  simp [enqTrap, hb, hi]

variable (hi : image.toNat % 64 = 0)
include hi

theorem enqTrap_imageBad (hr : rangeBad s w.ctx w.asid w.task Need.load image.toNat 64 ≠ none) :
    enqTrap s w block image = some (6, image) := by
  simp [enqTrap, hb, hi, Option.isSome_iff_ne_none.2 hr]

variable (hr : rangeBad s w.ctx w.asid w.task Need.load image.toNat 64 = none)
include hr

theorem enqTrap_blockBad (hk : rangeBad s w.ctx w.asid w.task enqNeed block.toNat 64 ≠ none) :
    enqTrap s w block image = some (6, block) := by
  simp [enqTrap, hb, hi, hr, Option.isSome_iff_ne_none.2 hk]

variable (hk : rangeBad s w.ctx w.asid w.task enqNeed block.toNat 64 = none)
  (hres : rangeAbsent s w.ctx w.asid enqNeed 2 block.toNat (block.toNat + 64) = [])
include hk hres

theorem enqTrap_shape (hs : dwordAt s w.ctx w.asid block.toNat % 2 ^ 56 % 64 ≠ 0 ∨
      dwordAt s w.ctx w.asid (block.toNat + 8) % 32 = 0 ∨ 16 < dwordAt s w.ctx w.asid (block.toNat + 8) % 32) :
    enqTrap s w block image = some (6, BitVec.ofNat 64 (dwordAt s w.ctx w.asid block.toNat % 2 ^ 56)) := by
  have hbad : (decide (dwordAt s w.ctx w.asid block.toNat % 2 ^ 56 % 64 ≠ 0) ||
      decide (dwordAt s w.ctx w.asid (block.toNat + 8) % 32 = 0) ||
      decide (16 < dwordAt s w.ctx w.asid (block.toNat + 8) % 32)) = true := by
    simpa [Bool.or_eq_true, or_assoc] using hs
  simp only [enqTrap, hb, hi, hr, hk, hres, hbad, ne_eq, not_true_eq_false, Option.isSome_none, Bool.false_eq_true, if_false,
    if_true]

theorem enqTrap_ring {at' : Nat} (h64 : dwordAt s w.ctx w.asid block.toNat % 2 ^ 56 % 64 = 0)
    (h0 : 0 < dwordAt s w.ctx w.asid (block.toNat + 8) % 32) (h16 : dwordAt s w.ctx w.asid (block.toNat + 8) % 32 ≤ 16)
    (hring : rangeBad s w.ctx w.asid w.task enqNeed (dwordAt s w.ctx w.asid block.toNat % 2 ^ 56)
      (64 * 2 ^ (dwordAt s w.ctx w.asid (block.toNat + 8) % 32)) = some at') :
    enqTrap s w block image = some (6, BitVec.ofNat 64 at') := by
  have hgood : (decide (dwordAt s w.ctx w.asid block.toNat % 2 ^ 56 % 64 ≠ 0) ||
      decide (dwordAt s w.ctx w.asid (block.toNat + 8) % 32 = 0) ||
      decide (16 < dwordAt s w.ctx w.asid (block.toNat + 8) % 32)) = false := by
    simp only [Bool.or_eq_false_iff, decide_eq_false_iff_not, not_not, not_lt]
    exact ⟨⟨h64, by omega⟩, h16⟩
  simp only [enqTrap, hb, hi, hr, hk, hres, hgood, hring, ne_eq, not_true_eq_false, Option.isSome_none, Bool.false_eq_true,
    if_false]
end

end Sys2Proof.Machine

open Sys2Proof.Machine in
/-- Settles O34: one turn of ENQ by the state of its tail word and its slot, and its checks by their order. -/
theorem enqueue : Obligations.Enqueue := by
  unfold Obligations.Enqueue
  refine ⟨?_, ?_, ?_, ?_, ?_, ?_, ?_⟩
  · intro d a b sw tail r v s h hq hnone hat hh ht ha hr hfull hlow hclean htail hsw hempty hslot ho hot happart
    subst htail
    exact enq_placed ⟨h, hq, ht, ha, hr⟩ ⟨hat, hfull, hlow⟩ hnone hh hclean hsw hempty hslot ho hot happart
  · intro d a b r v s h hq hnone hat hh ht ha hr hfull hlow hbad
    exact enq_tailPoisoned ⟨h, hq, ht, ha, hr⟩ ⟨hat, hfull, hlow⟩ hnone hh hbad
  · rintro d a b base size v s s0 h hh rfl rfl rfl
    set u := s.drainStores v.sel.core
    refine ⟨fun hb => enq_traps h hh (enqTrap_block (s := u) (w := v.who) hb),
      fun hb hi => enq_traps h hh (enqTrap_image (s := u) (w := v.who) hb hi),
      fun hb hi hr => enq_traps h hh (enqTrap_imageBad (s := u) (w := v.who) hb hi hr),
      fun hb hi hr => ⟨fun hk => enq_traps h hh (enqTrap_blockBad (s := u) (w := v.who) hb hi hr hk), fun hk _ hres =>
        ⟨fun hs => enq_traps h hh (enqTrap_shape (s := u) (w := v.who) hb hi hr hk hres hs), fun h64 h0 h16 at' hring =>
          enq_traps h hh (enqTrap_ring (s := u) (w := v.who) hb hi hr hk hres h64 h0 h16 hring)⟩⟩⟩
  · intro d a b sw tail r v s h hq hnone hat ht ha hr hfull hlow hclean htail hsw hocc hne
    subst htail
    obtain ⟨t, w, hexec, hwaits, hroom, hno⟩ :=
      enq_slotFull ⟨h, hq, ht, ha, hr⟩ ⟨hat, hfull, hlow⟩ hnone hclean hsw hocc hne
    obtain ⟨g, sp, hg, hregs, hsp, hst, hpc, hw⟩ := hwaits.group
    exact ⟨t, g, sp, hexec, hwaits.tick, hwaits.debited, hwaits.others, hwaits.memory, hg, hregs, hsp, hst, hpc,
      fun hh => ⟨(hroom hh).1, hw.trans (hroom hh).2⟩, fun hh => ⟨(hno hh).1, by rw [hw]; exact (hno hh).2⟩⟩
  · intro d a b r v s h hq ht ha hr he
    obtain ⟨t, w, hexec, hwaits, hroom, hno⟩ := enq_tailEmpty ⟨h, hq, ht, ha, hr⟩ he
    obtain ⟨g, sp, hg, hregs, hsp, hst, hpc, hw⟩ := hwaits.group
    exact ⟨t, g, sp, hexec, hwaits.debited, hwaits.memory, hg, hregs, hsp, hst, hpc, hroom,
      fun hh => ⟨(hno hh).1, by rw [hw]; exact (hno hh).2⟩⟩
  · rintro d a b v s s0 h rfl ht ha
    exact enq_absent h ht ha
  · intro s c slot n d deadline block image onTail g sp hg hsp hw hd hat hs
    exact enqDeadline_full s c slot n d deadline block image onTail g sp hg hsp hw hd hat hs
end

section
/-! PROOFS. The decoder and the encoder are inverse to each other (O1, O2): what the fields of a word of each format read, then
one case for each shape of instruction. -/

namespace Sys2Proof

/-! Fields of the formats (R43, R45). -/

/-- The fields of a word as the V format has them (R43). -/
structure VFields (w op d a b fn : Nat) : Prop where
  op : fieldAt w 25 128 = op
  d  : fieldAt w 18 128 = d
  a  : fieldAt w 11 128 = a
  b  : fieldAt w 4 128 = b
  fn : fieldAt w 0 16 = fn

/-- The fields of a word as the I format has them, its immediate as a number (R43). -/
structure IFields (w op d a imm : Nat) : Prop where
  op  : fieldAt w 25 128 = op
  d   : fieldAt w 18 128 = d
  a   : fieldAt w 11 128 = a
  imm : w % 2 ^ 11 = imm

/-- The fields of a word as the U format has them, its immediate as a number (R43). -/
structure UFields (w op d imm : Nat) : Prop where
  op  : fieldAt w 25 128 = op
  d   : fieldAt w 18 128 = d
  imm : w % 2 ^ 18 = imm

/-- The fields of a word as the B format has them, its offset as a number (R43). -/
structure BFields (w idx kind off : Nat) : Prop where
  op   : fieldAt w 25 128 = 0x18
  idx  : fieldAt w 21 16 = idx
  kind : fieldAt w 19 4 = kind
  off  : w % 2 ^ 19 = off

/-- The fields of a word as the S format has them (R43). -/
structure SFields (w op code : Nat) : Prop where
  op   : fieldAt w 25 128 = op
  code : w % 2 ^ 25 = code

/-- The fields of a word as the M format has them, with the parts of ws (R43, R45). -/
structure MFields (w op d a scope width fn : Nat) : Prop where
  op    : fieldAt w 25 128 = op
  d     : fieldAt w 18 128 = d
  a     : fieldAt w 11 128 = a
  scope : fieldAt w 8 8 = scope
  width : fieldAt w 6 4 = width
  fn    : fieldAt w 0 16 = fn

section
variable {op d a b fn imm idx kind off code scope width : Nat} {o : Option Instr}

/-! What the decoder reads from every word with given fields it reads from the word of a format that has them. -/

theorem candidate_vWord (ho : op < 128) (hd : d < 128) (ha : a < 128) (hb : b < 128) (hf : fn < 16)
    (h : ∀ w, VFields w op d a b fn → candidate w = o) : candidate (vWord op d a b fn) = o :=
  h _ (by constructor <;> simp only [fieldAt, vWord] <;> omega)

theorem candidate_iWord (ho : op < 128) (hd : d < 128) (ha : a < 128) (hi : imm < 2 ^ 11)
    (h : ∀ w, IFields w op d a imm → candidate w = o) : candidate (iWord op d a imm) = o :=
  h _ (by constructor <;> simp only [fieldAt, iWord] <;> omega)

theorem candidate_uWord (ho : op < 128) (hd : d < 128) (hi : imm < 2 ^ 18)
    (h : ∀ w, UFields w op d imm → candidate w = o) : candidate (uWord op d imm) = o :=
  h _ (by constructor <;> simp only [fieldAt, uWord] <;> omega)

theorem candidate_bWord (hi : idx < 16) (hk : kind < 4) (ho : off < 2 ^ 19)
    (h : ∀ w, BFields w idx kind off → candidate w = o) : candidate (bWord idx kind off) = o :=
  h _ (by constructor <;> simp only [fieldAt, bWord] <;> omega)

theorem candidate_sWord (ho : op < 128) (hc : code < 2 ^ 25) (h : ∀ w, SFields w op code → candidate w = o) :
    candidate (sWord op code) = o :=
  h _ (by constructor <;> simp only [fieldAt, sWord] <;> omega)

theorem candidate_mWord (ho : op < 128) (hd : d < 128) (ha : a < 128) (hs : scope < 8) (hw : width < 4) (hf : fn < 16)
    (h : ∀ w, MFields w op d a scope width fn → candidate w = o) : candidate (mWord op d a scope width fn) = o :=
  h _ (by constructor <;> simp only [fieldAt, mWord] <;> omega)
end

/-! Parts of fields: the type and sign, operation and type of `fn`; the type and predicate of `d` (R49, R50). -/

section
variable {w op d a b fn : Nat} (h : VFields w op d a b fn)
include h

theorem VFields.fnLow3 : fieldAt w 0 8 = fn % 8 := by rw [← h.fn]; simp only [fieldAt]; omega
theorem VFields.fnTop : fieldAt w 3 2 = fn / 8 := by rw [← h.fn]; simp only [fieldAt]; omega
theorem VFields.fnLow2 : fieldAt w 0 4 = fn % 4 := by rw [← h.fn]; simp only [fieldAt]; omega
theorem VFields.fnHigh2 : fieldAt w 2 4 = fn / 4 := by rw [← h.fn]; simp only [fieldAt]; omega
theorem VFields.dLow4 : fieldAt w 18 16 = d % 16 := by rw [← h.d]; simp only [fieldAt]; omega
theorem VFields.dHigh3 : fieldAt w 22 8 = d / 16 := by rw [← h.d]; simp only [fieldAt]; omega
end

/-- An immediate read from the low bits of a word. -/
theorem ofNat_of_mod {n w : Nat} {x : BitVec n} (h : w % 2 ^ n = x.toNat) : BitVec.ofNat n w = x :=
  BitVec.eq_of_toNat_eq (by rw [BitVec.toNat_ofNat, h])

/-! Codes (R45, R46, R50). -/

@[simp] theorem Cond.ofCode_code (c : Cond) : Cond.ofCode c.code = some c := by cases c <;> rfl
@[simp] theorem VCond.ofCode_code (c : VCond) : VCond.ofCode c.code = some c := by cases c <;> rfl
@[simp] theorem VType.ofCode_code (t : VType) : VType.ofCode t.code = some t := by cases t <;> rfl
@[simp] theorem RedOp.ofCode_code (r : RedOp) : RedOp.ofCode r.code = some r := by cases r <;> rfl
@[simp] theorem AmoOp.ofCode_code (o : AmoOp) : AmoOp.ofCode o.code = some o := by cases o <;> rfl
@[simp] theorem Width.ofCode_code (w : Width) : Width.ofCode w.code = some w := by cases w <;> rfl
@[simp] theorem Scope.ofCode_code (s : Scope) : Scope.ofCode s.code = some s := by cases s <;> rfl
@[simp] theorem FenceKind.ofCode_code (k : FenceKind) : FenceKind.ofCode k.code = some k := by cases k <;> rfl

theorem Cond.code_lt (c : Cond) : c.code < 16 := by cases c <;> decide
theorem VCond.code_lt (c : VCond) : c.code < 16 := by cases c <;> decide
theorem VType.code_lt (t : VType) : t.code < 8 := by cases t <;> decide
theorem VType.code_lt_of_isRed {t : VType} (h : t.isRed = true) : t.code < 4 := by
  cases t with
  | i32 | u32 | f32 => decide
  | bf16 | f16 => cases h
theorem RedOp.code_lt (r : RedOp) : r.code < 4 := by cases r <;> decide
theorem AmoOp.code_lt (o : AmoOp) : o.code < 16 := by cases o <;> decide
theorem Width.code_lt (w : Width) : w.code < 4 := by cases w <;> decide
theorem Scope.code_lt (s : Scope) : s.code < 8 := by cases s <;> decide
theorem FenceKind.code_lt (k : FenceKind) : k.code < 4 := by cases k <;> decide

/-! Instructions whose fields have parts. -/

theorem candidate_vabs {t : VType} {d a : Nat} (hd : d < 128) (ha : a < 128) :
    candidate (encode (.vabs t d a)) = some (.vabs t d a) := by
  have ht := t.code_lt
  have hcode : t.code % 8 = t.code := by omega
  have hneg : t.code / 8 = 0 := by omega
  exact candidate_vWord (by decide) hd ha (by decide) (by omega) fun w hw => by
    rw [candidate, hw.op, hw.d, hw.a, hw.fnLow3, hw.fnTop, hcode, hneg, VType.ofCode_code]
    rfl

theorem candidate_vneg {t : VType} {d a : Nat} (hd : d < 128) (ha : a < 128) :
    candidate (encode (.vneg t d a)) = some (.vneg t d a) := by
  have ht := t.code_lt
  have hcode : (8 + t.code) % 8 = t.code := by omega
  have hneg : (8 + t.code) / 8 = 1 := by omega
  exact candidate_vWord (by decide) hd ha (by decide) (by omega) fun w hw => by
    rw [candidate, hw.op, hw.d, hw.a, hw.fnLow3, hw.fnTop, hcode, hneg, VType.ofCode_code]
    rfl

theorem candidate_vcmp {cc : VCond} {t : VType} {p a b : Nat} (hp : p < 16) (ha : a < 128) (hb : b < 128) :
    candidate (encode (.vcmp cc t p a b)) = some (.vcmp cc t p a b) := by
  have ht := t.code_lt
  have htype : (t.code * 2 ^ 4 + p) / 16 = t.code := by omega
  have hpred : (t.code * 2 ^ 4 + p) % 16 = p := by omega
  exact candidate_vWord (by decide) (by omega) ha hb cc.code_lt fun w hw => by
    rw [candidate, hw.op, hw.dHigh3, hw.fn, htype, VCond.ofCode_code, VType.ofCode_code]
    exact congrArg some (by rw [hw.dLow4, hw.a, hw.b, hpred])

theorem candidate_vslide {down : Bool} {k d a b : Nat} (hk : k < 8) (hd : d < 128) (ha : a < 128) (hb : b < 128) :
    candidate (encode (.vslide down k d a b)) = some (.vslide down k d a b) := by
  have hfn : (if down then 8 else 0) + k < 16 := by split <;> omega
  have hlow : ((if down then 8 else 0) + k) % 8 = k := by split <;> omega
  have htop : decide (((if down then 8 else 0) + k) / 8 = 1) = down := by cases down <;> simp <;> omega
  exact candidate_vWord (by decide) hd ha hb hfn fun w hw => by
    rw [candidate, hw.op]
    exact congrArg some (by rw [hw.fnTop, hw.fnLow3, hw.d, hw.a, hw.b, hlow, htop])

/-- The function field of VRED and VSCAN: operation and type (R50). -/
theorem redFn_parts {op : RedOp} {t : VType} (h : t.isRed = true) :
    op.code * 4 + t.code < 16 ∧ (op.code * 4 + t.code) / 4 = op.code ∧ (op.code * 4 + t.code) % 4 = t.code := by
  have ho := op.code_lt
  have ht := VType.code_lt_of_isRed h
  omega

/-- A shift by an immediate: its kind in bits [7:6], its amount in bits [5:0] (R49). -/
theorem candidate_shift {kind n d a : Nat} {o : Option Instr} (hd : d < 128) (ha : a < 128) (hk : kind < 4) (hn : n < 64)
    (h : ∀ w, IFields w 0x14 d a (kind * 2 ^ 6 + n) → fieldAt w 6 4 = kind → fieldAt w 0 64 = n → candidate w = o) :
    candidate (iWord 0x14 d a (kind * 2 ^ 6 + n)) = o :=
  candidate_iWord (by decide) hd ha (by omega) fun w hw =>
    have himm := hw.imm
    h w hw (by simp only [fieldAt]; omega) (by simp only [fieldAt]; omega)

/-- FGROW and FSHRINK: the kind in bit 4, the count of granules in bits [3:0] (R49). -/
theorem candidate_frameChange {kind k : Nat} {o : Option Instr} (hk : kind < 2) (hn : k < 16)
    (h : ∀ w, IFields w 0x1c 0 0 (kind * 2 ^ 4 + k) → fieldAt w 4 2 = kind → fieldAt w 0 16 = k → candidate w = o) :
    candidate (iWord 0x1c 0 0 (kind * 2 ^ 4 + k)) = o :=
  candidate_iWord (by decide) (by decide) (by decide) (by omega) fun w hw =>
    have himm := hw.imm
    h w hw (by simp only [fieldAt]; omega) (by simp only [fieldAt]; omega)

theorem candidate_waitc {l q c m : Nat} (hl : l < 16) (hq : q < 16) (hc : c < 16) (hm : m < 16) :
    candidate (encode (.waitc l q c m)) = some (.waitc l q c m) :=
  candidate_sWord (by decide) (by omega) fun w hw => by
    have hcode := hw.code
    have hl : fieldAt w 0 16 = l := by simp only [fieldAt]; omega
    have hq : fieldAt w 4 16 = q := by simp only [fieldAt]; omega
    have hc : fieldAt w 8 16 = c := by simp only [fieldAt]; omega
    have hm : fieldAt w 12 16 = m := by simp only [fieldAt]; omega
    rw [candidate, hw.op]
    exact congrArg some (by rw [hl, hq, hc, hm])

theorem candidate_enter (r : BitVec 24) : candidate (encode (.enter r)) = some (.enter r) :=
  candidate_sWord (by decide) (by omega) fun w hw => by
    have hr : w % 2 ^ 24 = r.toNat := by have hcode := hw.code; omega
    rw [candidate, hw.op]
    exact congrArg some (by rw [ofNat_of_mod hr])

/-- The decoder reads from the word of a well-formed encoded instruction that instruction: opcode, function and codes decide
which it is (the rewriting of `candidate`), and its operands are the fields (the equation under `some`). -/
theorem candidate_encode (i : Instr) (he : i.isEncoded = true) (h : WellFormed i) : candidate (encode i) = some i := by
  simp only [WellFormed] at h
  cases i with
  | add d a b | sub d a b | mul d a b | mulh d a b | mulhu d a b | min d a b | max d a b | minu d a b | maxu d a b
  | div d a b | divu d a b | rem d a b | remu d a b | and d a b | or d a b | xor d a b | andn d a b | shl d a b | shr d a b
  | sar d a b | rol d a b | vand d a b | vor d a b | vxor d a b | vshl d a b | vshr d a b | vsar d a b | vsrrI32 d a b
  | vsrrI16x2 d a b | vdot2I16 d a b | vadd2I16 d a b | vdiv d a b | vdivu d a b | vrem d a b | vremu d a b | vshfl d a b
  | pand d a b | por d a b | pxor d a b | cpy d a b | spawn d a b | grant d a b | enq d a b | mm d a b | mmm d a b
  | vlane d a b =>
    simp only [Instr.wellFormed, Bool.and_eq_true, decide_eq_true_eq] at h
    exact candidate_vWord (by decide) (by omega) (by omega) (by omega) (by decide) fun w hw => by
      rw [candidate, hw.op, hw.fn]
      exact congrArg some (by rw [hw.d, hw.a, hw.b])
  | clz d a | popc d a | mov d a | vrcp d a | vrsq d a | vexp2 d a | vlog2 d a | vmov d a | vbcast d a | pnot d a | pcnt d a
  | aget d a | aput d a | cpy2 d a | cancel d a | mfs d a | mts d a | callr d a =>
    simp only [Instr.wellFormed, Bool.and_eq_true, decide_eq_true_eq] at h
    exact candidate_vWord (by decide) (by omega) (by omega) (by decide) (by decide) fun w hw => by
      rw [candidate, hw.op, hw.fn]
      exact congrArg some (by rw [hw.d, hw.a])
  | aclr d | take d | join d  =>
    simp only [Instr.wellFormed, decide_eq_true_eq] at h
    exact candidate_vWord (by decide) (by omega) (by decide) (by decide) (by decide) fun w hw => by
      rw [candidate, hw.op]
      exact congrArg some (by rw [hw.d])
  | jr a | unwind a | mfmt a | signal a =>
    simp only [Instr.wellFormed, decide_eq_true_eq] at h
    exact candidate_vWord (by decide) (by decide) (by omega) (by decide) (by decide) fun w hw => by
      rw [candidate, hw.op, hw.fn]
      exact congrArg some (by rw [hw.a])
  | ret => rfl
  | cmp cc d a b =>
    simp only [Instr.wellFormed, Bool.and_eq_true, decide_eq_true_eq] at h
    exact candidate_vWord (by decide) (by omega) (by omega) (by omega) cc.code_lt fun w hw => by
      rw [candidate, hw.op, hw.fn, Cond.ofCode_code]
      exact congrArg some (by rw [hw.d, hw.a, hw.b])
  | sel d a b x | vsel d a b x =>
    simp only [Instr.wellFormed, Bool.and_eq_true, decide_eq_true_eq] at h
    exact candidate_vWord (by decide) (by omega) (by omega) (by omega) (by omega) fun w hw => by
      rw [candidate, hw.op, hw.fn]
      exact congrArg some (by rw [hw.d, hw.a, hw.b])
  | push a ch =>
    simp only [Instr.wellFormed, Bool.and_eq_true, decide_eq_true_eq] at h
    exact candidate_vWord (by decide) (by decide) (by omega) (by decide) (by omega) fun w hw => by
      rw [candidate, hw.op, hw.fn]
      exact congrArg some (by rw [hw.a])
  | pop d n | rdctr d n =>
    simp only [Instr.wellFormed, Bool.and_eq_true, decide_eq_true_eq] at h
    exact candidate_vWord (by decide) (by omega) (by decide) (by decide) (by omega) fun w hw => by
      rw [candidate, hw.op, hw.fn]
      exact congrArg some (by rw [hw.d])
  | vadd t d a b | vsub t d a b | vmul t d a b | vfma t d a b | vmin t d a b | vmax t d a b =>
    simp only [Instr.wellFormed, Bool.and_eq_true, decide_eq_true_eq] at h
    have ht := t.code_lt
    exact candidate_vWord (by decide) (by omega) (by omega) (by omega) (by omega) fun w hw => by
      rw [candidate, hw.op, hw.fn, VType.ofCode_code]
      exact congrArg some (by rw [hw.d, hw.a, hw.b])
  | vabs t d a =>
    simp only [Instr.wellFormed, Bool.and_eq_true, decide_eq_true_eq] at h
    exact candidate_vabs (by omega) (by omega)
  | vneg t d a =>
    simp only [Instr.wellFormed, Bool.and_eq_true, decide_eq_true_eq] at h
    exact candidate_vneg (by omega) (by omega)
  | vcvt dt st d a =>
    simp only [Instr.wellFormed, Bool.and_eq_true, decide_eq_true_eq] at h
    have hs := st.code_lt
    have ht := dt.code_lt
    exact candidate_vWord (by decide) (by omega) (by omega) (by omega) (by omega) fun w hw => by
      rw [candidate, hw.op, hw.b, hw.fn, VType.ofCode_code dt, VType.ofCode_code st]
      exact congrArg some (by rw [hw.d, hw.a])
  | vcmp cc t p a b =>
    simp only [Instr.wellFormed, Bool.and_eq_true, decide_eq_true_eq] at h
    exact candidate_vcmp (by omega) (by omega) (by omega)
  | vslide down k d a b =>
    simp only [Instr.wellFormed, Bool.and_eq_true, decide_eq_true_eq] at h
    exact candidate_vslide (by omega) (by omega) (by omega) (by omega)
  | vred op t d a | vscan op t d a =>
    simp only [Instr.wellFormed, Bool.and_eq_true, decide_eq_true_eq] at h
    obtain ⟨hfn, hop, htype⟩ := redFn_parts (op := op) h.1.1
    exact candidate_vWord (by decide) (by omega) (by omega) (by decide) hfn fun w hw => by
      rw [candidate, hw.op, hw.fnHigh2, hw.fnLow2, hop, htype, RedOp.ofCode_code, VType.ofCode_code]
      exact congrArg some (by rw [hw.d, hw.a])
  | addi d a imm | andi d a imm | ori d a imm | xori d a imm =>
    simp only [Instr.wellFormed, Bool.and_eq_true, decide_eq_true_eq] at h
    exact candidate_iWord (by decide) (by omega) (by omega) imm.isLt fun w hw => by
      rw [candidate, hw.op]
      exact congrArg some (by rw [hw.d, hw.a, ofNat_of_mod hw.imm])
  | shli d a n | shri d a n | sari d a n =>
    simp only [Instr.wellFormed, Bool.and_eq_true, decide_eq_true_eq] at h
    exact candidate_shift (by omega) (by omega) (by decide) (by omega) fun w hw hkind hn => by
      rw [candidate, hw.op, hkind]
      exact congrArg some (by rw [hw.d, hw.a, hn])
  | fgrow k | fshrink k =>
    simp only [Instr.wellFormed, Bool.and_eq_true, decide_eq_true_eq] at h
    exact candidate_frameChange (by decide) (by omega) fun w hw hkind hk => by
      rw [candidate, hw.op, hkind]
      exact congrArg some (by rw [hk])
  | li d imm | lih d imm =>
    simp only [Instr.wellFormed, decide_eq_true_eq] at h
    exact candidate_uWord (by decide) (by omega) imm.isLt fun w hw => by
      rw [candidate, hw.op]
      exact congrArg some (by rw [hw.d, ofNat_of_mod hw.imm])
  | call n off =>
    simp only [Instr.wellFormed, decide_eq_true_eq] at h
    exact candidate_uWord (by decide) (by omega) off.isLt fun w hw => by
      rw [candidate, hw.op]
      exact congrArg some (by rw [hw.d, ofNat_of_mod hw.imm])
  | ipf off =>
    exact candidate_uWord (by decide) (by decide) off.isLt fun w hw => by
      rw [candidate, hw.op]
      exact congrArg some (by rw [ofNat_of_mod hw.imm])
  | bz idx off | bnz idx off | brv idx off =>
    simp only [Instr.wellFormed, decide_eq_true_eq] at h
    exact candidate_bWord h (by decide) off.isLt fun w hw => by
      rw [candidate, hw.op, hw.kind]
      exact congrArg some (by rw [hw.idx, ofNat_of_mod hw.off])
  | jmp off =>
    exact candidate_bWord (by decide) (by decide) off.isLt fun w hw => by
      rw [candidate, hw.op, hw.kind]
      exact congrArg some (by rw [ofNat_of_mod hw.off])
  | ld wd d a | lds wd d a | st wd d a | vld wd d a | vst wd d a | vldc wd d a | vstc wd d a =>
    simp only [Instr.wellFormed, Bool.and_eq_true, decide_eq_true_eq] at h
    exact candidate_mWord (by decide) (by omega) (by omega) (by decide) wd.code_lt (by decide) fun w hw => by
      rw [candidate, hw.op, hw.width, hw.fn, Width.ofCode_code]
      exact congrArg some (by rw [hw.d, hw.a])
  | amo op wd sc d a =>
    simp only [Instr.wellFormed, Bool.and_eq_true, decide_eq_true_eq] at h
    exact candidate_mWord (by decide) (by omega) (by omega) sc.code_lt wd.code_lt op.code_lt fun w hw => by
      rw [candidate, hw.op, hw.scope, hw.width, hw.fn, AmoOp.ofCode_code, Width.ofCode_code, Scope.ofCode_code]
      exact congrArg some (by rw [hw.d, hw.a])
  | cas wd sc d a =>
    simp only [Instr.wellFormed, Bool.and_eq_true, decide_eq_true_eq] at h
    exact candidate_mWord (by decide) (by omega) (by omega) sc.code_lt wd.code_lt (by decide) fun w hw => by
      rw [candidate, hw.op, hw.scope, hw.width, Width.ofCode_code, Scope.ofCode_code]
      exact congrArg some (by rw [hw.d, hw.a])
  | vamo op sc d a =>
    simp only [Instr.wellFormed, Bool.and_eq_true, decide_eq_true_eq] at h
    exact candidate_mWord (by decide) (by omega) (by omega) sc.code_lt (by decide) op.code_lt fun w hw => by
      rw [candidate, hw.op, hw.scope, hw.fn, AmoOp.ofCode_code, Scope.ofCode_code]
      exact congrArg some (by rw [hw.d, hw.a])
  | fld sc d a | ftake sc d a | fput sc d a | ffill sc d a =>
    simp only [Instr.wellFormed, Bool.and_eq_true, decide_eq_true_eq] at h
    exact candidate_mWord (by decide) (by omega) (by omega) sc.code_lt (by decide) (by decide) fun w hw => by
      rw [candidate, hw.op, hw.scope, hw.fn, Scope.ofCode_code]
      exact congrArg some (by rw [hw.d, hw.a])
  | fence k sc =>
    exact candidate_mWord (by decide) (by decide) (by decide) sc.code_lt k.code_lt (by decide) fun w hw => by
      rw [candidate, hw.op, hw.scope, hw.width, FenceKind.ofCode_code, Scope.ofCode_code]
      rfl
  | touch a =>
    simp only [Instr.wellFormed, decide_eq_true_eq] at h
    exact candidate_mWord (by decide) (by decide) (by omega) (by decide) (by decide) (by decide) fun w hw => by
      rw [candidate, hw.op]
      exact congrArg some (by rw [hw.a])
  | tld d a =>
    simp only [Instr.wellFormed, Bool.and_eq_true, decide_eq_true_eq] at h
    exact candidate_mWord (by decide) (by omega) (by omega) (by decide) (by decide) (by decide) fun w hw => by
      rw [candidate, hw.op]
      exact congrArg some (by rw [hw.d, hw.a])
  | meet | done | yield | eret | nop | leave => rfl
  | trap code | safe code | brk code =>
    exact candidate_sWord (by decide) code.isLt fun w hw => by
      rw [candidate, hw.op]
      exact congrArg some (by rw [ofNat_of_mod hw.code])
  | waitc l q c m =>
    simp only [Instr.wellFormed, Bool.and_eq_true, decide_eq_true_eq] at h
    exact candidate_waitc (by omega) (by omega) (by omega) (by omega)
  | enter r => exact candidate_enter r
  | illegalInstruction x => simp [Instr.isEncoded] at he
  | _ => exact absurd he Bool.false_ne_true

/-- What decodes is what the word's fields name, if that is well formed and the word is its encoding (R44). -/
theorem decodeWord_eq_some_iff {w : Nat} {i : Instr} :
    decodeWord w = some i ↔ candidate w = some i ∧ WellFormed i ∧ encode i = w := by
  unfold decodeWord
  cases candidate w with
  | none => simp
  | some j =>
    simp only [Option.ite_none_right_eq_some, Bool.and_eq_true, beq_iff_eq, Option.some.injEq]
    constructor
    · rintro ⟨⟨hwf, hw⟩, rfl⟩; exact ⟨rfl, hwf, hw⟩
    · rintro ⟨rfl, hwf, hw⟩; exact ⟨⟨hwf, hw⟩, rfl⟩

theorem decodeWord_none_of_candidate {w : Nat} (h : candidate w = none) : decodeWord w = none := by
  unfold decodeWord; rw [h]

/-! What no word names. -/

/-- An instruction read from a word is not the step that stands for an illegal word. -/
def NoIllegal (o : Option Instr) : Prop := ∀ x, o ≠ some (.illegalInstruction x)

theorem noIllegal_none : NoIllegal none := fun _ h => nomatch h
theorem noIllegal_some (i : Instr) : NoIllegal (some i) ↔ ∀ x, i ≠ .illegalInstruction x := by simp [NoIllegal]
theorem noIllegal_bind {α : Type} (o : Option α) (f : α → Option Instr) :
    NoIllegal (o.bind f) ↔ ∀ a, o = some a → NoIllegal (f a) := by
  cases o <;> simp [noIllegal_none]
theorem noIllegal_map {α : Type} (o : Option α) (f : α → Instr) :
    NoIllegal (o.map f) ↔ ∀ a, o = some a → NoIllegal (some (f a)) := by
  cases o <;> simp [noIllegal_none]

/-- No word names the step that stands for an illegal word: in every branch of the opcode, and of the function where there is
one, another constructor is read. -/
theorem candidate_noIllegal (w : Nat) : NoIllegal (candidate w) := by
  unfold candidate
  split <;> simp only [noIllegal_none, noIllegal_some, noIllegal_bind, noIllegal_map, ne_eq, reduceCtorEq, not_false_eq_true,
    implies_true]
  all_goals
    intros
    split <;> simp [noIllegal_none, noIllegal_some]

theorem candidate_zero : candidate 0 = none := rfl

/-- What is read from a word, if the word is its encoding, is an encoded instruction. -/
theorem isEncoded_of_candidate {i : Instr} (h : candidate (encode i) = some i) : i.isEncoded = true := by
  have hne : encode i ≠ 0 := fun h0 => by
    rw [h0, candidate_zero] at h
    cases h
  unfold Instr.isEncoded
  rw [decide_eq_true hne, Bool.true_and]
  split
  · exact absurd h (candidate_noIllegal _ _)
  · rfl

/-- A word of a reserved major opcode names nothing (R49). -/
theorem candidate_of_reserved {w : Nat} (h : fieldAt w 25 128 ∈ Machine.reservedOpcodes) : candidate w = none := by
  unfold candidate
  generalize fieldAt w 25 128 = op at h ⊢
  fin_cases h <;> rfl

end Sys2Proof

open Sys2Proof in
/-- Settles O1: the decoder reads the instruction back from the fields of its word. -/
theorem decodeOfEncode : Obligations.DecodeOfEncode := by
  unfold Obligations.DecodeOfEncode
  intro i he hwf
  exact decodeWord_eq_some_iff.2 ⟨candidate_encode i he hwf, hwf, rfl⟩

open Sys2Proof in
/-- Settles O2: the decoder compares the encoding of what it reads with the whole word. -/
theorem encodeOfDecode : Obligations.EncodeOfDecode := by
  unfold Obligations.EncodeOfDecode
  intro w i _ h
  obtain ⟨hc, hwf, rfl⟩ := decodeWord_eq_some_iff.1 h
  exact ⟨isEncoded_of_candidate hc, hwf, rfl⟩

/-- Settles O3: each word evaluated. -/
theorem sampleWords : Obligations.SampleWords := by
  unfold Obligations.SampleWords
  decide
end

section
/-! PROOFS. A word that decodes to no instruction (O4), and what a task keeps of its end while it is unwound (R38, R189). -/

namespace Sys2Proof.Machine

/-! What says how a task ends: its state, its status and the trap it ended by. -/

/-- The fields of a task that say how it ends. -/
structure Ending where
  state  : TaskState
  xstat  : Nat
  xcause : Nat
  xpc    : W64
  xval   : W64

/-- How a task ends, or would. -/
def Task.ending (t : Task) : Ending := ⟨t.state, t.xstat, t.xcause, t.xpc, t.xval⟩

/-- Two states hold the same tasks, and each ends in one as in the other. -/
structure SameEndings (s t : State) : Prop where
  ends : ∀ tid, (Table.get? t.tasks tid).map Task.ending = (Table.get? s.tasks tid).map Task.ending

theorem SameEndings.of_tasks {s t : State} (h : t.tasks = s.tasks) : SameEndings s t := ⟨fun tid => by rw [h]⟩
theorem SameEndings.refl (s : State) : SameEndings s s := ⟨fun _ => rfl⟩
theorem SameEndings.trans {s t u : State} (h : SameEndings s t) (h' : SameEndings t u) : SameEndings s u :=
  ⟨fun tid => (h'.ends tid).trans (h.ends tid)⟩

/-- A table in which a value has been changed, read through a function that the change leaves. -/
theorem Table.get?_modify_map {α β : Type} (t : Table α) (k : Nat) (f : α → α) (φ : α → β) (hf : ∀ x, φ (f x) = φ x)
    (n : Nat) : (Table.get? (Table.modify t k f) n).map φ = (Table.get? t n).map φ := by
  rw [Table.get?_modify]
  split
  · next hn =>
    rw [hn, Option.map_map]
    exact congrArg (fun g => (Table.get? t k).map g) (funext hf)
  · rfl

section
variable {s t : State} (h : SameEndings s t)
include h

/-- A task that is there stays, and ends as it did. -/
theorem SameEndings.of_get? {tid : Nat} {x : Task} (hx : Table.get? s.tasks tid = some x) :
    ∃ y, Table.get? t.tasks tid = some y ∧ y.ending = x.ending := by
  have htid := h.ends tid
  rw [hx, Option.map_some, Option.map_eq_some_iff] at htid
  exact htid

theorem SameEndings.modTask {f : Task → Task} (hf : ∀ x : Task, (f x).ending = x.ending) (n : Nat) :
    SameEndings s (t.modTask n f) :=
  h.trans ⟨Table.get?_modify_map t.tasks n f Task.ending hf⟩

theorem SameEndings.modCore (c : Nat) (f : Core → Core) : SameEndings s (t.modCore c f) :=
  h.trans (.of_tasks (State.modCore_tasks ..))

theorem SameEndings.modGroup (c g : Nat) (f : Group → Group) : SameEndings s (t.modGroup c g f) :=
  h.trans (.of_tasks (State.modGroup_tasks ..))

/-- Steps that each leave how tasks end do so one after the other. -/
theorem SameEndings.foldl {α : Type} {f : State → α → State} (hf : ∀ u x, SameEndings u (f u x)) (l : List α) :
    SameEndings s (l.foldl f t) := by
  induction l generalizing t with
  | nil => exact h
  | cons x xs ih => exact ih (h.trans (hf t x))
end

/-! Writes. -/

section
variable (s : State)

theorem sameEndings_countStale (c tid gid : Nat) : SameEndings s (s.countStale c tid gid) := by
  unfold State.countStale
  split
  · unfold State.bumpStale State.signal State.raise
    exact ((SameEndings.refl s).modGroup ..).modCore ..
  · exact (SameEndings.refl s).modTask (fun _ => by rfl) tid

theorem sameEndings_mereDrop (pas : List Nat) : SameEndings s (mereDrop s pas) := by
  have hstep : ∀ (u : State) (o : Nat × Nat × Nat), SameEndings u (u.countStale o.1 o.2.1 o.2.2) :=
    fun _ _ => sameEndings_countStale ..
  exact (SameEndings.refl s).foldl hstep _

theorem sameEndings_mereStore (c : Nat) (m : MereAt) (pa : Nat) (b : Byte) (clears sets : Bool) :
    SameEndings s (mereStore s c m pa b clears sets) := by
  unfold mereStore
  split
  · exact .refl s
  split
  · exact .of_tasks rfl
  split
  · exact (SameEndings.refl s).modGroup ..
  split
  · exact (SameEndings.refl s).modTask (fun _ => by rfl) _
  split
  · exact (SameEndings.refl s).modCore ..
  · exact .refl s

theorem sameEndings_writeRaw (cells : List (Nat × Byte)) : SameEndings s (writeRaw s cells) := by
  have hstep : ∀ (u : State) (e : Nat × Byte),
      SameEndings u (mereWrite u e.1 e.2 (covers cells e.1 (mereGrain e.1)) false) := fun _ _ => sameEndings_mereStore ..
  unfold writeRaw
  refine SameEndings.foldl (SameEndings.trans ?_ (sameEndings_mereDrop ..)) hstep _
  exact .of_tasks rfl

theorem sameEndings_writeCells (cells : List (Nat × Byte)) : SameEndings s (writeCells s cells) := by
  unfold writeCells
  refine SameEndings.trans ?_ (sameEndings_writeRaw ..)
  exact .of_tasks rfl

theorem sameEndings_drainStores (c : Nat) : SameEndings s (s.drainStores c) := by
  have hstep : ∀ (u : State) (o : StoreOp), SameEndings u (writeCells u o.cells) := fun _ _ => sameEndings_writeCells ..
  unfold State.drainStores
  dsimp only
  split
  · exact .refl s
  · exact ((SameEndings.refl s).foldl hstep _).modCore ..

/-! Groups that stop. -/

theorem sameEndings_withdraw (c slot lane tid : Nat) : SameEndings s (s.withdraw c slot lane tid) :=
  ⟨Table.get?_modify_map s.tasks tid _ Task.ending fun _ => rfl⟩

theorem sameEndings_withdrawAll (c slot tid : Nat) (l : List Split) :
    SameEndings s (l.foldl (fun st sp => st.withdraw c slot (lowLane sp.mask) tid) s) :=
  (SameEndings.refl s).foldl (fun _ _ => sameEndings_withdraw ..) l

theorem sameEndings_endGroup (c slot : Nat) : SameEndings s (s.endGroup c slot) := by
  unfold State.endGroup
  split
  · exact .refl s
  · next g _ =>
    have hgone := (sameEndings_withdrawAll s c slot g.task (g.splits ++ g.spilled)).modCore c fun k =>
      k.partGroup slot g.task g.gid
    dsimp only
    split
    · exact (hgone.modTask (fun _ => by rfl) g.task).modCore ..
    · exact hgone

theorem sameEndings_stopGroup (c slot : Nat) : SameEndings s (s.stopGroup c slot) := by
  unfold State.stopGroup
  split
  · exact .refl s
  · next g _ =>
    have hgone := sameEndings_withdrawAll s c slot g.task
    dsimp only
    split
    · exact (hgone _).trans (sameEndings_endGroup ..)
    · exact ((hgone _).modGroup ..).modCore ..
end

/-! A task that stops. -/

theorem State.storeTask_get? (s : State) (tid : Nat) (t : Task) :
    Table.get? (s.storeTask tid t).tasks tid = some { t with written := t.alw } := by
  unfold State.storeTask
  dsimp only
  split <;> simp

/-- One operation on a task that is there (R165). -/
theorem State.taskOp_get? {s : State} {tid : Nat} {x : Task} (hx : Table.get? s.tasks tid = some x) (f : Task → Task) :
    Table.get? (s.taskOp tid f).tasks tid = some { f x with seq := (x.seq + 1) % 2 ^ 16, written := (f x).alw } := by
  unfold State.taskOp
  simp only [hx, State.storeTask_get?]

section
variable {s u : State} (h : SameEndings s u) {tid : Nat} {x : Task} (hx : Table.get? s.tasks tid = some x)
include h hx

/-- An operation on a task that leaves how it ends. -/
theorem SameEndings.taskOp {f : Task → Task} (hf : ∀ y : Task, y.ending = x.ending → (f y).ending = x.ending) :
    ∃ y, Table.get? (u.taskOp tid f).tasks tid = some y ∧ y.ending = x.ending := by
  obtain ⟨y, hy, hend⟩ := h.of_get? hx
  exact ⟨_, State.taskOp_get? hy f, hf y hend⟩

/-- An unwinding task that stops is there still, and ends as it did (R189). -/
theorem SameEndings.stopTask (root : Nat) (hu : x.state = .unwinding) :
    ∃ y, Table.get? (u.stopTask root tid).tasks tid = some y ∧ y.ending = x.ending := by
  obtain ⟨t, ht, hend⟩ := h.of_get? hx
  have hstate : t.state = .unwinding := (congrArg Ending.state hend).trans hu
  have hwaits : (decide (t.state = .armed) || decide (t.state = .ready) && !t.isRoot) = false := by rw [hstate]; rfl
  have hstep : ∀ (w : State) (e : Nat × Group), SameEndings w (w.stopGroup t.place e.1) := fun _ _ => sameEndings_stopGroup ..
  have hcrew := (h.trans (sameEndings_drainStores u t.place)).foldl hstep (crewOf (u.drainStores t.place) tid)
  unfold State.stopTask
  simp only [ht, hwaits, Bool.false_eq_true, if_false]
  refine SameEndings.taskOp ((hcrew.modCore ..).modTask (fun _ => by rfl) root) hx fun y hy => ?_
  have hkeeps : y.state = .unwinding := (congrArg Ending.state hy).trans hu
  rw [← hy]
  simp only [Task.ending, hkeeps]
end

/-- A task as it is marked when it enters UNWINDING under a root (R166, R189). -/
def Task.unwound (root status : Nat) (t : Task) : Task :=
  { t with state := .unwinding, xstat := status, unwinder := some root, restarting := false }

/-- To enter UNWINDING, a task is marked, its descendants are ordered to stop, their units join the root's sum, and the task
stops (R186, R189). -/
theorem State.beginUnwind_eq (s : State) (tid status : Nat) : ∃ root f, (∀ x : Task, (f x).ending = x.ending) ∧
    s.beginUnwind tid status = (((descendants s tid).foldl (fun st d => st.modTask d (Task.joinUnwind root))
      (s.modTask tid (Task.unwound root status))).modTask root f).stopTask root tid := by
  refine ⟨_, _, ?_, rfl⟩
  exact fun _ => rfl

/-- A task that enters UNWINDING is there still, in that state, with the status, and with the trap it had recorded (R166). -/
theorem State.beginUnwind_ending {s : State} {tid : Nat} {x : Task} (status : Nat) (hx : Table.get? s.tasks tid = some x) :
    ∃ y, Table.get? (s.beginUnwind tid status).tasks tid = some y ∧
      y.ending = { x.ending with state := .unwinding, xstat := status } := by
  obtain ⟨root, f, hf, heq⟩ := s.beginUnwind_eq tid status
  have hstep : ∀ (u : State) (d : Nat), SameEndings u (u.modTask d (Task.joinUnwind root)) :=
    fun u d => (SameEndings.refl u).modTask (fun _ => by rfl) d
  have hmark : Table.get? (s.modTask tid (Task.unwound root status)).tasks tid = some (x.unwound root status) := by
    rw [State.task_modTask, if_pos rfl, hx]; rfl
  rw [heq]
  exact SameEndings.stopTask (((SameEndings.refl _).foldl hstep _).modTask hf root) hmark root rfl

/-- A task that ends by trap is UNWINDING with the status and the record of the trap (R38). -/
theorem endByTrap_ending {s : State} {v : View} {x : Task} (hx : Table.get? s.tasks v.tid = some x) (cause : Nat)
    (pc tval : W64) : ∃ y, Table.get? (endByTrap v cause pc tval s).tasks v.tid = some y ∧
      y.ending = ⟨.unwinding, if cause = 2 || cause = 3 || cause = 4 then 5 else 7, cause, pc, tval⟩ := by
  have hrec : Table.get? (s.modTask v.tid (fun t => { t with xpc := pc, xcause := cause, xval := tval })).tasks v.tid =
      some { x with xpc := pc, xcause := cause, xval := tval } := by
    rw [State.task_modTask, if_pos rfl, hx]; rfl
  exact State.beginUnwind_ending _ hrec

theorem State.noteTrap_tasks (s : State) : s.noteTrap.tasks = s.tasks := by
  unfold State.noteTrap; split <;> rfl

/-- A trap at the selected split that has no handler to enter ends its task (R37, R38). -/
theorem takeTrap_unwinds {v : View} {s : State} (hv : Selected v s) (hh : ¬HasHandler v) (cause : Nat) (tval : W64) :
    ∃ y, Table.get? (takeTrap v.sel cause tval s).endCycle.tasks v.tid = some y ∧
      y.ending = ⟨.unwinding, if cause = 2 || cause = 3 || cause = 4 then 5 else 7, cause, v.split.pc, tval⟩ := by
  obtain ⟨l, hu⟩ := undoDebit_undone hv
  obtain ⟨w, hw, hgroup, hentry, hpc⟩ := hu.viewAt
  obtain ⟨x, hx⟩ := Option.isSome_iff_exists.1 hu.tasks
  have htid : w.tid = v.tid := by rw [View.tid, hgroup]; rfl
  have htvb : w.group.tvb = v.group.tvb := by rw [hgroup]; rfl
  have hends : (decide (w.group.tvb = 0) || decide (w.split.entry = some w.split.pc)) = true := by
    rw [htvb, hentry, hpc, Bool.or_eq_true, decide_eq_true_eq, decide_eq_true_eq]
    exact or_iff_not_and_not.2 hh
  have htake : takeTrap v.sel cause tval s = endByTrap w cause w.split.pc tval (undoDebit v s).noteTrap := by
    unfold takeTrap trapEntry
    simp only [State.viewAt_of_view? hv, hw, hends, if_true]
  rw [htake, State.endCycle_tasks, ← htid, ← hpc]
  exact endByTrap_ending (by rw [State.noteTrap_tasks, htid, hx]) cause _ tval

/-! The step that stands for an illegal word. -/

/-- A word that decodes to no instruction takes cause 0 with the word as its value (R52). -/
theorem exec_illegalInstruction {word : W32} {v : View} {s : State} (hv : Selected v s) (hd : decodeWord word.toNat = none) :
    exec (.illegalInstruction word) s = .next (takeTrap v.sel 0 (word.setWidth 64) s).endCycle := by
  show execIllegalInstruction word s = _
  simp only [execIllegalInstruction, hv.2.2, hd, Option.isSome_none, Bool.false_eq_true, if_false]

end Sys2Proof.Machine

open Sys2Proof Sys2Proof.Machine in
/-- Settles O4: a reserved opcode names nothing, and the trap of an illegal word enters the handler or ends the task. -/
theorem illegalWords : Obligations.IllegalWords := by
  unfold Obligations.IllegalWords
  refine ⟨fun w hw hop => ?_, fun word v s hv hd hh => ?_, fun word v s hv hd htvb => ?_⟩
  · refine decodeWord_none_of_candidate (candidate_of_reserved ?_)
    show w / 2 ^ 25 % 128 ∈ reservedOpcodes
    rwa [Nat.mod_eq_of_lt (by omega)]
  · exact ⟨_, exec_illegalInstruction hv hd, takeTrap_enters hv hh 0 (word.setWidth 64)⟩
  · obtain ⟨x, hx, hend⟩ := takeTrap_unwinds hv (fun hh => hh.1 htvb) 0 (word.setWidth 64)
    simp only [Task.ending, Ending.mk.injEq] at hend
    obtain ⟨hstate, hstat, hcause, hpc, hval⟩ := hend
    exact ⟨_, x, exec_illegalInstruction hv hd, hx, hstate, hstat, hcause, hpc, hval⟩
end
